-- ==== Sys2Proof/Word.lean ====
section
/-!
DEFINITION. The widths of the machine: scalars, lanes, bytes, vectors, and sparse tables of plain data.
Everything of the manual that is added, shifted or masked is a bit vector of the manual's own width (spec/01 R16, spec/02 R37).
-/
namespace Sys2Proof

/-- A 64-bit scalar (spec/01 R16). -/
abbrev Word := BitVec 64

/-- One lane of a vector: 32 bits (spec/01 R16). -/
abbrev Lane := BitVec 32

/-- One byte of memory. -/
abbrev Byte := BitVec 8

/-- A vector of 64 lanes × 32 bits (spec/01 R16). -/
abbrev Vec := Vector Lane 64

/-- The sticky arithmetic flags qc nv dz of uf nx, bit 0 = nx (spec/04 R96). -/
abbrev Flags := BitVec 6

/-- Every lane the same. -/
def Vec.fill (x : Lane) : Vec := Vector.replicate 64 x

/-- The vector of zeros. -/
def Vec.zero : Vec := Vec.fill 0

/-- Lane `i`, zero outside 0–63. -/
def Vec.lane (v : Vec) (i : Nat) : Lane := v.getD i 0

/-- The vector whose lane `i` is `f i`. -/
def Vec.gen (f : Nat → Lane) : Vec := Vector.ofFn fun i => f i.val

/-- Insert an element before the first one it is strictly below. -/
def insertBy {α : Type} (lt : α → α → Bool) (a : α) : List α → List α
  | [] => [a]
  | b :: t => if lt a b then a :: b :: t else b :: insertBy lt a t

/-- Stable insertion sort. -/
def sortBy {α : Type} (lt : α → α → Bool) (l : List α) : List α := l.foldl (fun acc a => insertBy lt a acc) []

/-- A sparse table keyed by number: keys strictly rising, absent keys hold the reader's default. -/
abbrev Table (α : Type) := List (Nat × α)

/-- The entry at key `k`, if any. -/
def Table.find {α : Type} : Table α → Nat → Option α
  | [], _ => none
  | (j, a) :: t, k => if j = k then some a else Table.find t k

/-- The entry at key `k`, or `d`. -/
def Table.at {α : Type} (t : Table α) (d : α) (k : Nat) : α := (Table.find t k).getD d

/-- Put `a` at key `k`, keeping the keys rising. -/
def Table.put {α : Type} : Table α → Nat → α → Table α
  | [], k, a => [(k, a)]
  | (j, b) :: t, k, a =>
    if j = k then (k, a) :: t
    else if k < j then (k, a) :: (j, b) :: t
    else (j, b) :: Table.put t k a

/-- Remove key `k`. -/
def Table.drop {α : Type} (t : Table α) (k : Nat) : Table α := t.filter fun p => p.1 ≠ k

end Sys2Proof
end

