-- ==== Sys2Proof/Syntax.lean ====
section
/-!
DEFINITION. The instruction type: one constructor for each row of the table of operations and events. An event row names what
it concerns; a Rosnil row carries the fields of its 32-bit word (spec/18 R336 to R338); a trigger row is the operation its
selector names, while source, guard and socket stand in the move slot being issued (spec/02 R32, State's focus).
-/
namespace Sys2Proof

/-- The sockets a move can name, with their ids (spec/02 R39). -/
inductive Sock where
  | ct | ia | ib | ag | sr | vr | pr | va | vb | vc | sf | la | lb | mx | ep | gn | ns | sv | dm | id | sy | tm | sh
  deriving DecidableEq, Repr

/-- The socket id of R39. -/
def Sock.num : Sock → Nat
  | .ct => 1 | .ia => 2 | .ib => 3 | .ag => 4 | .sr => 5 | .vr => 6 | .pr => 7 | .va => 8 | .vb => 9 | .vc => 10
  | .sf => 11 | .la => 12 | .lb => 13 | .mx => 14 | .ep => 15 | .gn => 16 | .ns => 17 | .sv => 18 | .dm => 19
  | .id => 20 | .sy => 21 | .tm => 22 | .sh => 23

/-- The socket of an id; none for 0 and 24–31. -/
def Sock.ofNum : Nat → Option Sock
  | 1 => some .ct | 2 => some .ia | 3 => some .ib | 4 => some .ag | 5 => some .sr | 6 => some .vr | 7 => some .pr
  | 8 => some .va | 9 => some .vb | 10 => some .vc | 11 => some .sf | 12 => some .la | 13 => some .lb | 14 => some .mx
  | 15 => some .ep | 16 => some .gn | 17 => some .ns | 18 => some .sv | 19 => some .dm | 20 => some .id | 21 => some .sy
  | 22 => some .tm | 23 => some .sh | _ => none

/-- The two load and store sockets (spec/02 R43). -/
inductive LsPort where
  | la | lb
  deriving DecidableEq, Repr

/-- The source field [39:18] of a slot (spec/02 R32). -/
inductive Source where
  | imm (value : BitVec 21)
  | port (sock : BitVec 5) (kind : BitVec 2) (sel : BitVec 7) (tag : BitVec 7)
  deriving DecidableEq, Repr

/-- The guard field [3:0] of a slot (spec/02 R32, R33). -/
structure Guard where
  invert : Bool
  index : BitVec 3
  deriving DecidableEq, Repr

/-- A whole slot: source, raw destination field [17:4], guard (spec/02 R32). -/
structure Slot where
  src : Source
  sock : BitVec 5
  kind : BitVec 2
  sel : BitVec 7
  guard : Guard
  deriving DecidableEq, Repr

/-- Which half of an 8-byte word a host write covers (spec/13 R271). -/
inductive Cover where
  | full | low | high
  deriving DecidableEq, Repr

/-- What a tile's network interface sends the desk besides requests (spec/15 R304). -/
inductive DeskMark where
  | request (tile bay quantum items : Nat)
  | passed (tile bay quantum : Nat)
  | parked (tile bay : Nat)
  | ended (tile bay : Nat)
  deriving DecidableEq, Repr

/-- How a fire event arises (spec/15 R285), with what it brings. -/
inductive FireSource where
  | counter
  | message (payload : Word)
  | port
  | svFire (site : Nat) (user : Bool) (argument : Word)
  deriving DecidableEq, Repr

/-- Commands of the MMC mailbox that the manual names (spec/21 R386, spec/22 R394, spec/17 R332). -/
inductive MailboxCommand where
  | haltGroups (partition : Nat) (mask : BitVec 16)
  | coreReset (die : Nat)
  | uncoreReset (die : Nat)
  | nonceRequest
  deriving DecidableEq, Repr

/-- One entry of a fabric schedule, four words (spec/13 R261). -/
structure ScheduleEntry where
  w0 : Word
  w1 : Word
  w2 : Word
  w3 : Word
  deriving DecidableEq, Repr

/-- The tree of a collective in tree form: its leaves are module ranks (spec/13 R269). -/
inductive RankTree where
  | leaf (rank : Nat)
  | node (left right : RankTree)
  deriving DecidableEq, Repr

/-- What system software configures of a collective (spec/13 R269): operation 0 sum, 1 min, 2 max, format code, element count, and the
tree of the tree form. -/
structure CollectiveSpec where
  id : Nat
  op : Nat
  fmt : Nat
  count : Nat
  tree : Option RankTree
  deriving DecidableEq, Repr

/-- What a port is loaded with: its schedule, and the collectives that its entries use (spec/13 R261, R269). -/
structure PortSchedule where
  entries : List ScheduleEntry
  collectives : List CollectiveSpec
  deriving DecidableEq, Repr

/-- How a frame comes: as a retried one or in its slot, and whether its CRC is right (spec/13 R264). -/
structure FrameMark where
  retried : Bool
  crcOk : Bool
  deriving DecidableEq, Repr

/-- A retry: the frame sent in a slot goes again, or the next to arrive is a retried one (spec/13 R264). -/
inductive Retry where
  | send (frame : Nat)
  | receive
  deriving DecidableEq, Repr

/-- A hold announced in a domain at a DCC, here or by another module (spec/13 R265). -/
structure HoldAnnouncement where
  slot : Nat
  dcc : Nat
  deriving DecidableEq, Repr

/-- What a beacon flit carries (spec/13 R263, R265, R266): the rank of the module it comes from, the master's DCC, a change of the throttle
setting with its DCC, a hold announced at a DCC, the arrival of a module's tiles at the current pier, by rank, and a port whose link has
failed. -/
structure Beacon where
  sender : Nat
  dcc : Option Word
  throttle : Option (Nat × Nat)
  hold : Option Nat
  arrival : Option (Nat × Nat)
  failed : Option Nat
  deriving DecidableEq, Repr

/-- A link of the module: a causeway, a fabric port, a catwalk link (spec/20 R367, spec/22 R388). -/
inductive Link where
  | causeway (n : Nat)
  | port (n : Nat)
  | catwalk (die : Nat)
  deriving DecidableEq, Repr

/-- The two paths of SPDM (spec/17 R331). -/
inductive SpdmPath where
  | doe | mctp
  deriving DecidableEq, Repr

/-- The images verified at power-on (spec/17 R329), in accession order AF0–AF3. -/
inductive FirmwareImage where
  | bootCode | mmcFirmware | baseDie | residentHandler
  deriving DecidableEq, Repr

/-- What the patrol scrubber corrects (spec/22 R388, R396). -/
inductive StoreKind where
  | sram | istore | hbm
  deriving DecidableEq, Repr

/-- Domain classes (spec/01 R11, coded as in spec/03 R62). -/
inductive DomainClass where
  | island | die | pair | half | whole | multi
  deriving DecidableEq, Repr

/-- What system software states when it forms a domain (spec/01 R10 to R13, R21, spec/13 R263, R267, spec/22 R398). -/
structure DomainSpec where
  cls : DomainClass
  islands : List Nat
  extended : Bool
  rows12 : Bool
  longFabric : Bool
  rank : Nat
  modules : Nat
  beaconMaster : Bool
  throttle : Nat
  deriving DecidableEq, Repr

/-- Where the caller of a load asks for an object: first folio B and data base D (spec/03 R63), and the tiles that take it, one and any others
(spec/19 R351). -/
structure Placement where
  folio : Nat
  data : Nat
  site : Nat
  others : List Nat
  portable : Bool
  deriving DecidableEq, Repr

/-- The instructions and events of the machine, one constructor for each row of the table. -/
inductive Instr where
  | bundleIssue (site : Nat)
  | idleRun (site : Nat)
  | holdWaitIssue (site : Nat)
  | dataLockedFire (site : Nat) (sock : Sock)
  | resultLanding (site : Nat) (sock : Sock)
  | takenBranchRedirect (site : Nat)
  | hardwareLoopEnd (site : Nat)
  | forcedRealignment (slot : Nat)
  | userInterruptTaken (site : Nat)
  | accessPerform (site id : Nat)
  | reachNetworkHop (slot id : Nat)
  | tableWritePerform (site id : Nat)
  | mxLineFetch (site line : Nat)
  | mxSlotReady (site : Nat)
  | epRowWrite (site row : Nat)
  | meshLinkHop (slot id : Nat)
  | meshItemLanding (slot id : Nat)
  | depositPerform (slot id : Nat)
  | sendBufferRelease (site : Nat)
  | catwalkMessageArrival (id : Nat)
  | installMessage (id : Nat)
  | dmCommandAcceptance (slot id : Nat)
  | timedCommandStart (slot id : Nat)
  | windowAllocation (slot stack : Nat)
  | hbmSectorPerform (slot id sector : Nat)
  | engineSramLinePerform (slot id line : Nat)
  | looseReplyLanding (site : Nat)
  | ucopyCompletion (site xfer : Nat)
  | pierRelease (slot : Nat)
  | pierWatchdogExpiry (slot : Nat)
  | quantumMark (slot : Nat) (mark : DeskMark)
  | deskStep (slot : Nat)
  | freeze (slot : Nat)
  | resumption (slot : Nat)
  | hostFirePortWrite (slot : Nat) (word : Word)
  | hostCancelPortWrite (slot : Nat) (word : Word)
  | armingEntryWrite (slot tag index : Nat) (cover : Cover) (word : Word)
  | hostRegisterWrite (offset : Nat) (cover : Cover) (word : Word)
  | mmcMailboxCommand (cmd : MailboxCommand)
  | launchFire (slot tag : Nat) (source : FireSource)
  | entryArm (slot tag : Nat) (image : List Word) (reply : Option Nat)
  | counterReadRequest (slot : Nat) (handle : Word) (site : Nat)
  | counterWriteRequest (slot : Nat) (handle word : Word) (site : Nat)
  | cancel (slot : Nat) (handle : Word) (reply : Option Nat)
  | cancelDrainComplete (slot : Nat)
  | launchSelection (slot : Nat)
  | launchStart (slot : Nat)
  | launchCompletion (slot : Nat)
  | counterZeroPropagation (slot : Nat) (handle : Word)
  | priorityPromotion (slot tag : Nat)
  | preemption (slot : Nat)
  | stopForInspection (slot : Nat) (reply : Option Nat)
  | preemptStop (slot : Nat) (reply : Option Nat)
  | preemptionDrainEnd (slot : Nat)
  | saveComplete (slot : Nat)
  | preemptedResume (slot : Nat)
  | debugHalt (slot : Nat) (reply : Option Nat)
  | debugStep (slot n : Nat) (reply : Option Nat)
  | debugStepExpiry (slot : Nat)
  | debugRelease (slot : Nat) (reply : Option Nat)
  | haltGroupHalt (site : Nat)
  | throttleChange (slot : Nat)
  | fabricScheduleLoad (slot port : Nat) (schedule : PortSchedule)
  | fabricFrameSend (slot port : Nat)
  | fabricFrameReceive (slot port : Nat) (mark : FrameMark) (payload : List Byte)
  | frameRetry (slot port : Nat) (retry : Retry)
  | fabricHoldAnnounce (hold : HoldAnnouncement)
  | fabricHold (slot : Nat)
  | fabricHoldEnd (slot : Nat)
  | timeBeacon (slot : Nat) (beacon : Beacon)
  | launchMessageComplete (slot tag : Nat)
  | collectiveCombine (slot id : Nat)
  | partitionConfigure (index : Nat) (word : Word)
  | islandScrub (island : Nat)
  | keySlotWrite (index : Nat) (key : BitVec 512)
  | lifecycleAdvance (state : Nat) (command signature : List Byte)
  | debugUnlock (token signature : List Byte)
  | getVersion (path : SpdmPath)
  | getCapabilities (path : SpdmPath)
  | negotiateAlgorithms (path : SpdmPath)
  | getDigests (path : SpdmPath)
  | getCertificate (path : SpdmPath) (certSlot offset length : Nat)
  | challenge (path : SpdmPath) (nonce : List Byte)
  | getMeasurements (path : SpdmPath) (index : Nat) (nonce : List Byte)
  | powerOnVerification (image : FirmwareImage) (bytes signature : List Byte)
  | firmwareUpdateWrite (offset : Nat) (cover : Cover) (word : Word)
  | coreReset (die : Nat)
  | uncoreReset (die : Nat)
  | thermalCritical (stack temperature : Nat)
  | thermalRecovery (stack temperature : Nat)
  | linkRetrain (link : Link) (trained : Option Nat)
  | patrolScrub (die : Nat) (kind : StoreKind) (address : Nat)
  | archiveEntryWrite (die : Nat)
  | reducedServiceStart
  | reducedServiceEnd
  | bootStateEntry (die : Nat)
  | bootStateEnd (die : Nat)
  | objectLoad (slot : Nat) (place : Placement) (file : List Byte)
  | domainFormation (slot : Nat) (spec : DomainSpec)
  | standbyPowerRemoval (die : Nat)
  | rosnilAdd (d : BitVec 4) (a : BitVec 4) (b : BitVec 4)
  | rosnilSub (d : BitVec 4) (a : BitVec 4) (b : BitVec 4)
  | rosnilAnd (d : BitVec 4) (a : BitVec 4) (b : BitVec 4)
  | rosnilOr (d : BitVec 4) (a : BitVec 4) (b : BitVec 4)
  | rosnilXor (d : BitVec 4) (a : BitVec 4) (b : BitVec 4)
  | rosnilShl (d : BitVec 4) (a : BitVec 4) (b : BitVec 4)
  | rosnilShr (d : BitVec 4) (a : BitVec 4) (b : BitVec 4)
  | rosnilSra (d : BitVec 4) (a : BitVec 4) (b : BitVec 4)
  | rosnilMul (d : BitVec 4) (a : BitVec 4) (b : BitVec 4)
  | rosnilSlt (d : BitVec 4) (a : BitVec 4) (b : BitVec 4)
  | rosnilSltu (d : BitVec 4) (a : BitVec 4) (b : BitVec 4)
  | rosnilAddi (d : BitVec 4) (a : BitVec 4) (i : BitVec 18)
  | rosnilLi (d : BitVec 4) (i : BitVec 18)
  | rosnilLio (d : BitVec 4) (a : BitVec 4) (i : BitVec 18)
  | rosnilLd (d : BitVec 4) (a : BitVec 4) (i : BitVec 18)
  | rosnilSt (a : BitVec 4) (b : BitVec 4)
  | rosnilBne (a : BitVec 4) (b : BitVec 4) (o : BitVec 18)
  | rosnilBlt (a : BitVec 4) (b : BitVec 4) (o : BitVec 18)
  | rosnilJ (o : BitVec 18)
  | rosnilHalt
  | rosnilGvl (d : BitVec 4)
  | rosnilVld (d : BitVec 4) (a : BitVec 4) (k : BitVec 2) (i : BitVec 16)
  | rosnilVst (a : BitVec 4) (b : BitVec 4) (k : BitVec 2)
  | rosnilVfadd (d : BitVec 4) (a : BitVec 4) (b : BitVec 4) (k : BitVec 2)
  | rosnilVfsub (d : BitVec 4) (a : BitVec 4) (b : BitVec 4) (k : BitVec 2)
  | rosnilVfmul (d : BitVec 4) (a : BitVec 4) (b : BitVec 4) (k : BitVec 2)
  | rosnilVfma (d : BitVec 4) (a : BitVec 4) (b : BitVec 4) (k : BitVec 2)
  | rosnilVfmax (d : BitVec 4) (a : BitVec 4) (b : BitVec 4) (k : BitVec 2)
  | rosnilVfmin (d : BitVec 4) (a : BitVec 4) (b : BitVec 4) (k : BitVec 2)
  | rosnilVwid (d : BitVec 4) (b : BitVec 4) (k : BitVec 2) (h : BitVec 2) (s : BitVec 2)
  | rosnilVrsum (d : BitVec 4) (b : BitVec 4) (k : BitVec 2)
  | rosnilVbcast (d : BitVec 4) (a : BitVec 4)
  | rosnilVwhile (d : BitVec 2) (a : BitVec 4) (b : BitVec 4)
  | rosnilVmovs (d : BitVec 4) (b : BitVec 4)
  | rosnilMtile (a : BitVec 4) (b : BitVec 4) (c : BitVec 4) (K : BitVec 8) (f : BitVec 2)
  | rosnilMtilea (a : BitVec 4) (b : BitVec 4) (c : BitVec 4) (K : BitVec 8) (f : BitVec 2)
  | rosnilMdrain (a : BitVec 4)
  | rosnilGkey (a : BitVec 4)
  | rosnilGsm (a : BitVec 4) (b : BitVec 4)
  | rosnilGdraw (d : BitVec 4) (a : BitVec 4)
  | ctJmp
  | ctJmpa
  | ctJmpx
  | ctCall
  | ctCalla
  | ctRet
  | ctLoop
  | ctLbrk
  | ctMode
  | ctLoose
  | ctPier
  | ctRealign
  | ctFence
  | ctHalt
  | ctBkpt
  | ctEcall
  | ctUiret
  | ctUimask
  | tmAt
  | tmAtmin
  | tmAtmax
  | tmSnap
  | iaAdd
  | iaSub
  | iaAnd
  | iaOr
  | iaXor
  | iaShl
  | iaShr
  | iaSra
  | iaMin
  | iaMax
  | iaMinu
  | iaMaxu
  | iaAdds
  | iaSubs
  | iaAddus
  | iaSubus
  | iaMul
  | iaMulh
  | iaMulhu
  | iaDiv
  | iaDivu
  | iaRem
  | iaRemu
  | iaCeq
  | iaCne
  | iaClt
  | iaCltu
  | iaClz
  | iaPop
  | iaExt
  | agInc
  | agMod
  | agBrev
  | agCirc
  | agMkptr
  | agMkcl
  | agMkdom
  | agCoord
  | agSetb
  | agSets
  | agSetl
  | agLea
  | laLd8
  | laLd16
  | laLd32
  | laLd64
  | laLdv
  | laLdvs
  | laLdvx
  | laSt8
  | laSt16
  | laSt32
  | laSt64
  | laStv
  | laStvs
  | laStvx
  | laAmoadd
  | laAmomin
  | laAmomax
  | laAmoswap
  | laAmocas
  | laTblw
  | vaFadd
  | vaFsub
  | vaFmul
  | vaFfma
  | vaFfms
  | vaFmin
  | vaFmax
  | vaFabs
  | vaFneg
  | vaFceq
  | vaFclt
  | vaFcle
  | vaFcun
  | vaIadd
  | vaIsub
  | vaImul
  | vaImulh
  | vaImin
  | vaImax
  | vaIminu
  | vaImaxu
  | vaIadds
  | vaIsubs
  | vaIaddus
  | vaIsubus
  | vaIand
  | vaIor
  | vaIxor
  | vaIshl
  | vaIshr
  | vaIsra
  | vaIceq
  | vaIclt
  | vaIcltu
  | vaSel
  | vaMrg
  | vaCvt
  | vaDec
  | vaEnc
  | vaAmax
  | vaQscale
  | vaRsum
  | vaPerm
  | vaBcast
  | vaShuf
  | vaIota
  | sfExp2
  | sfLog2
  | sfExp
  | sfRcp
  | sfRsqrt
  | sfSqrt
  | sfTanh
  | sfSigm
  | sfSin
  | sfCos
  | mxMm
  | mxMma
  | mxMmt
  | mxMmta
  | mxMmb
  | mxMmba
  | mxMmg
  | mxMmga
  | mxMmgb
  | mxMmgba
  | mxMmgt
  | mxMmgta
  | mxMv
  | mxMva
  | mxOuter
  | mxOutera
  | mxPgRoutine
  | mxCalx
  | mxRhead
  | mxRtail
  | mxClr
  | mxMread
  | mxMwrite
  | epDrain
  | epDrtr
  | epDrsum
  | epDrnet
  | epDrrow
  | epDrop
  | gnKey
  | gnStream
  | gnMember
  | gnDraw
  | gnRegen
  | gnBits
  | gnNext
  | nsSends
  | nsSend
  | nsSendv
  | nsDep
  | nsDepv
  | nsFwd
  | nsTag
  | nsLclr
  | svMsg
  | svMcast
  | svQset
  | svQpop
  | svQstat
  | svWreq
  | svCnt
  | svCntw
  | svCancel
  | svFire
  | svArm
  | svStop
  | svDisc
  | svDbg
  | dmCopy
  | dmCopy2
  | dmGath
  | dmGathl
  | dmWalk
  | dmRadd
  | dmRmin
  | dmRmax
  | dmConv
  | dmOvl
  | dmUcopy
  | dmBset
  | dmBarr
  | dmBchk
  | dmPoolget
  | dmPoolrel
  | syEret
  | syRngw
  | syRngr
  | syRngi
  | syAccx
  | syAccr
  | syArcw
  | syThr
  | syCfgr
  | syCfgw
  | syHgrp
  | syXtrig
  | syWdog
  | syFusr
  | shRd
  | shWr
  | shInj
  | shClr
  deriving DecidableEq, Repr

end Sys2Proof
end

