-- ==== Sys2Proof/Machine/Ports.lean ====
section
/-!
DEFINITION. The port map of the sockets (spec/02 R34 to R47): which port kinds a socket provides, which selectors are assigned,
which ports may be read or written, their width classes and privileges; and the reasons of R51 that one slot alone can break.
-/
namespace Sys2Proof

/-- Width classes (R37). -/
inductive Width where
  | scalar | vector | pred
  deriving DecidableEq, Repr

/-- Destination kinds a socket provides: o1 or register, o2, trigger, auxiliary (R39). -/
def dstKinds : Sock → Bool × Bool × Bool × Bool
  | .ct | .ag | .la | .lb | .ep | .ns | .sh => (true, false, true, true)
  | .ia | .ib | .sv | .sy => (true, true, true, false)
  | .sr | .vr | .pr => (true, false, false, false)
  | .va | .vb | .vc | .mx | .gn | .dm => (true, true, true, true)
  | .sf | .tm => (false, false, true, false)
  | .id => (false, false, false, true)

/-- Source kinds a socket provides: q0 or register, q1, auxiliary (R39). -/
def srcKinds : Sock → Bool × Bool × Bool
  | .ct | .mx | .ns | .id => (false, false, true)
  | .ia | .ib | .sf | .sy => (true, false, false)
  | .ag | .la | .lb | .ep | .sv | .dm | .sh => (true, false, true)
  | .sr | .vr | .pr => (true, false, false)
  | .va | .vb | .vc | .gn | .tm => (true, true, true)

/-- The registers of R40. -/
def regAssigned : Sock → Nat → Bool
  | .sr, n => n < 0x50
  | .vr, n => n < 0x20
  | .pr, n => n < 0x10
  | _, _ => false

/-- Access of an auxiliary port: assigned, readable, writable (R41). -/
def auxAccess : Sock → Nat → Bool × Bool × Bool
  | .ct, n => if n = 0x00 ∨ n = 0x04 then (true, true, true) else if n < 0x04 then (true, true, false) else (false, false, false)
  | .ag, n => if n < 0x0C then (true, true, true) else (false, false, false)
  | .va, n | .vb, n | .vc, n =>
    if n = 0x00 then (true, false, true) else if n < 0x04 then (true, true, true) else (false, false, false)
  | .la, n | .lb, n => if n < 0x02 then (true, true, true) else (false, false, false)
  | .mx, n =>
    if n < 0x08 then (true, true, true) else if n = 0x08 then (true, false, true)
    else if n < 0x0C then (true, true, false) else (false, false, false)
  | .ep, n => if n < 0x05 then (true, true, true) else (false, false, false)
  | .gn, n => if n < 0x01 then (true, true, true) else (false, false, false)
  | .ns, n => if n < 0x10 then (true, true, false) else if n = 0x10 then (true, true, true) else (false, false, false)
  | .sv, n => if n < 0x02 then (true, true, false) else (false, false, false)
  | .dm, n => if n < 0x04 then (true, true, true) else (false, false, false)
  | .id, n => if n = 0x0D then (true, true, true) else if n < 0x13 then (true, true, false) else (false, false, false)
  | .tm, n => if n < 0x03 then (true, true, false) else (false, false, false)
  | .sh, n => if n < 0x01 then (true, true, true) else (false, false, false)
  | _, _ => (false, false, false)

/-- The trigger selectors of R43 to R47. -/
def trigAssigned : Sock → Nat → Bool
  | .ct, n => n ≤ 0x11
  | .tm, n => n ≤ 0x03
  | .ia, n | .ib, n => n ≤ 0x16 || (0x18 ≤ n && n ≤ 0x1E)
  | .ag, n => n ≤ 0x03 || (0x08 ≤ n && n ≤ 0x0F)
  | .la, n | .lb, n => n ≤ 0x06 || (0x08 ≤ n && n ≤ 0x0E) || (0x10 ≤ n && n ≤ 0x14) || (0x18 ≤ n && n ≤ 0x18)
  | .va, n | .vb, n | .vc, n => n ≤ 0x0C || (0x10 ≤ n && n ≤ 0x24) || (0x28 ≤ n && n ≤ 0x33)
  | .sf, n => n ≤ 0x09
  | .mx, n => n ≤ 0x2F || (0x40 ≤ n && n ≤ 0x45)
  | .ep, n => n ≤ 0x05
  | .gn, n => n ≤ 0x06
  | .ns, n => n ≤ 0x07
  | .sv, n => n ≤ 0x0D
  | .dm, n => n ≤ 0x09 || (0x10 ≤ n && n ≤ 0x15)
  | .sy, n => n ≤ 0x0D
  | .sh, n => n ≤ 0x03
  | _, _ => false

/-- A port that only the supervisor context may name: SY, SH, z0–z15 and the selectors marked in R39. -/
def supervisorDst : Sock → BitVec 2 → Nat → Bool
  | .sy, _, _ | .sh, _, _ => true
  | .sr, 0, n => decide (0x40 ≤ n ∧ n < 0x50)
  | .mx, 2, n => decide (n = 0x45)
  | .sv, 2, n => decide (n = 0x0A ∨ n = 0x0B ∨ n = 0x0C ∨ n = 0x0D)
  | .dm, 2, n => decide (n = 0x09 ∨ n = 0x14 ∨ n = 0x15)
  | _, _, _ => false

def supervisorSrc : Sock → BitVec 2 → Nat → Bool
  | .sy, _, _ | .sh, _, _ => true
  | .sr, 0, n => decide (0x40 ≤ n ∧ n < 0x50)
  | _, _, _ => false

/-- A landing register source (R35, R41). -/
def isLanding (sock : Sock) (kind : BitVec 2) (sel : Nat) : Bool := sock == .ns && kind == 2 && decide (sel < 0x10)

/-- Reason 0x05 at a source: sockets 24–31 (R51). -/
def Source.r05 : Source → Bool
  | .imm _ => false
  | .port k _ _ _ => decide (24 ≤ k.toNat)

/-- Reason 0x06 at a source: an unassigned selector of a provided kind (R51). -/
def Source.r06 : Source → Bool
  | .imm _ => false
  | .port k kind sel _ =>
    if k = 0 then kind == 3 && decide (4 ≤ sel.toNat)
    else match Sock.ofNum k.toNat with
      | none => false
      | some q =>
        let p := srcKinds q
        if q = .sr ∨ q = .vr ∨ q = .pr then kind == 0 && !regAssigned q sel.toNat
        else kind == 2 && p.2.2 && !(auxAccess q sel.toNat).1

/-- Reason 0x07 at a source (R51). -/
def Source.r07 : Source → Bool
  | .imm _ => false
  | .port k kind sel _ =>
    if k = 0 then kind != 3
    else match Sock.ofNum k.toNat with
      | none => false
      | some q =>
        let p := srcKinds q
        let isReg : Bool := q = .sr ∨ q = .vr ∨ q = .pr
        if kind = 3 then true
        else if kind = 0 then !p.1 || (!isReg && sel != 0)
        else if kind = 1 then !p.2.1 || sel != 0
        else !p.2.2 || ((auxAccess q sel.toNat).1 && !(auxAccess q sel.toNat).2.1)

/-- Reason 0x08 at a source: the tag field (R35, R51). -/
def Source.r08 : Source → Bool
  | .imm _ => false
  | .port k kind sel tag =>
    match Sock.ofNum k.toNat with
    | some q => if isLanding q kind sel.toNat then tag == 0 else tag != 0
    | none => tag != 0

/-- Reason 0x0C at a source named in the user context (R51). -/
def Source.r0C : Source → Bool
  | .imm _ => false
  | .port k kind sel _ =>
    match Sock.ofNum k.toNat with
    | some q => supervisorSrc q kind sel.toNat
    | none => false

/-- The empty slot: all zero (R32). -/
def Slot.isEmpty (s : Slot) : Bool :=
  s.src == .port 0 0 0 0 && s.sock == 0 && s.kind == 0 && s.sel == 0 && s.guard == ⟨false, 0⟩

def Slot.dst05 (s : Slot) : Bool := s.sock == 0 || decide (24 ≤ s.sock.toNat)

def Slot.dst06 (s : Slot) : Bool :=
  match Sock.ofNum s.sock.toNat with
  | none => false
  | some q =>
    let p := dstKinds q
    if q = .sr ∨ q = .vr ∨ q = .pr then s.kind == 0 && !regAssigned q s.sel.toNat
    else if s.kind = 2 then p.2.2.1 && !trigAssigned q s.sel.toNat
    else if s.kind = 3 then p.2.2.2 && !(auxAccess q s.sel.toNat).1
    else false

def Slot.dst07 (s : Slot) : Bool :=
  match Sock.ofNum s.sock.toNat with
  | none => false
  | some q =>
    let p := dstKinds q
    let isReg : Bool := q = .sr ∨ q = .vr ∨ q = .pr
    if s.kind = 0 then !p.1 || (!isReg && s.sel != 0)
    else if s.kind = 1 then !p.2.1 || s.sel != 0
    else if s.kind = 2 then !p.2.2.1
    else !p.2.2.2 || ((auxAccess q s.sel.toNat).1 && !(auxAccess q s.sel.toNat).2.2)

def Slot.dst0C (s : Slot) : Bool :=
  match Sock.ofNum s.sock.toNat with
  | none => false
  | some q => supervisorDst q s.kind s.sel.toNat

/-- The slot breaks the given reason on its own (R51); reasons 0x09 to 0x0B need the whole bundle, 0x0D and 0x0E the state. -/
def Slot.breaks (s : Slot) (user : Bool) (reason : Nat) : Bool :=
  if s.isEmpty then false
  else if reason = 0x05 then Source.r05 s.src || s.dst05
  else if reason = 0x06 then Source.r06 s.src || s.dst06
  else if reason = 0x07 then Source.r07 s.src || s.dst07
  else if reason = 0x08 then Source.r08 s.src
  else if reason = 0x0C then user && (Source.r0C s.src || s.dst0C)
  else false

/-- A source that breaks no encoding rule. -/
def sourceLegal (s : Source) : Bool := !(Source.r05 s || Source.r06 s || Source.r07 s || Source.r08 s)

/-- Class of a source (R37); immediates and special sources are scalars. -/
def srcWidth : Source → Width
  | .imm _ => .scalar
  | .port k kind sel _ =>
    match Sock.ofNum k.toNat with
    | none => .scalar
    | some q =>
      match q with
      | .vr => .vector
      | .pr => if sel.toNat < 8 then .pred else .scalar
      | .va | .vb | .vc | .gn => if kind = 0 then .vector else .scalar
      | .sf => .vector
      | .la | .lb => if kind = 0 then .vector else if sel = 0 then .vector else .scalar
      | .ep => if kind = 0 then .vector else if sel.toNat < 2 then .vector else .scalar
      | .ns => if sel.toNat < 16 then .vector else .scalar
      | _ => .scalar

/-- A trigger whose data is a vector (R37, R97, R132, R145, R217, R225, R229). -/
def trigIsVector (q : Sock) (sel : Nat) : Bool :=
  match q with
  | .la | .lb => decide (sel = 0x0C ∨ sel = 0x0D ∨ sel = 0x0E)
  | .va | .vb | .vc => !(decide (sel = 0x2D ∨ sel = 0x30 ∨ sel = 0x31 ∨ sel = 0x33))
  | .sf => true
  | .ns => decide (sel = 1 ∨ sel = 2 ∨ sel = 4)
  | .sv => decide (sel = 0 ∨ sel = 1 ∨ sel = 0x0C)
  | _ => false

end Sys2Proof
end

