-- ==== Sys2Proof/WellFormed.lean ====
section
/-!
DEFINITION. When an instruction is well formed: an event names a site, slot, die, stack, port or index that exists, and a
portable instruction's fields keep the limits that the loader checks (spec/18 R342); a slot's source is one the encoding admits.
-/
namespace Sys2Proof

/-- A tile site of the module: 8 dies of 33 × 32 (spec/01 R7). -/
def siteOk (n : Nat) : Bool := n < 8448

/-- A domain slot, or a die in boot state (spec/15 R278). -/
def slotOk (n : Nat) : Bool := n < 24

/-- Well-formedness, constructor by constructor. -/
def WellFormed : Instr → Bool
  | .bundleIssue site => siteOk site
  | .idleRun site => siteOk site
  | .holdWaitIssue site => siteOk site
  | .dataLockedFire site _ => siteOk site
  | .resultLanding site _ => siteOk site
  | .takenBranchRedirect site => siteOk site
  | .hardwareLoopEnd site => siteOk site
  | .forcedRealignment slot => slotOk slot
  | .userInterruptTaken site => siteOk site
  | .ctJmp => true
  | .ctJmpa => true
  | .ctJmpx => true
  | .ctCall => true
  | .ctCalla => true
  | .ctRet => true
  | .ctLoop => true
  | .ctLbrk => true
  | .ctMode => true
  | .ctLoose => true
  | .ctPier => true
  | .ctRealign => true
  | .ctFence => true
  | .ctHalt => true
  | .ctBkpt => true
  | .ctEcall => true
  | .ctUiret => true
  | .ctUimask => true
  | .tmAt => true
  | .tmAtmin => true
  | .tmAtmax => true
  | .tmSnap => true
  | .iaAdd => true
  | .iaSub => true
  | .iaAnd => true
  | .iaOr => true
  | .iaXor => true
  | .iaShl => true
  | .iaShr => true
  | .iaSra => true
  | .iaMin => true
  | .iaMax => true
  | .iaMinu => true
  | .iaMaxu => true
  | .iaAdds => true
  | .iaSubs => true
  | .iaAddus => true
  | .iaSubus => true
  | .iaMul => true
  | .iaMulh => true
  | .iaMulhu => true
  | .iaDiv => true
  | .iaDivu => true
  | .iaRem => true
  | .iaRemu => true
  | .iaCeq => true
  | .iaCne => true
  | .iaClt => true
  | .iaCltu => true
  | .iaClz => true
  | .iaPop => true
  | .iaExt => true
  | .agInc => true
  | .agMod => true
  | .agBrev => true
  | .agCirc => true
  | .agMkptr => true
  | .agMkcl => true
  | .agMkdom => true
  | .agCoord => true
  | .agSetb => true
  | .agSets => true
  | .agSetl => true
  | .agLea => true
  | .laLd8 => true
  | .laLd16 => true
  | .laLd32 => true
  | .laLd64 => true
  | .laLdv => true
  | .laLdvs => true
  | .laLdvx => true
  | .laSt8 => true
  | .laSt16 => true
  | .laSt32 => true
  | .laSt64 => true
  | .laStv => true
  | .laStvs => true
  | .laStvx => true
  | .laAmoadd => true
  | .laAmomin => true
  | .laAmomax => true
  | .laAmoswap => true
  | .laAmocas => true
  | .laTblw => true
  | .accessPerform site _ => siteOk site
  | .reachNetworkHop slot _ => slotOk slot
  | .tableWritePerform site _ => siteOk site
  | .vaFadd => true
  | .vaFsub => true
  | .vaFmul => true
  | .vaFfma => true
  | .vaFfms => true
  | .vaFmin => true
  | .vaFmax => true
  | .vaFabs => true
  | .vaFneg => true
  | .vaFceq => true
  | .vaFclt => true
  | .vaFcle => true
  | .vaFcun => true
  | .vaIadd => true
  | .vaIsub => true
  | .vaImul => true
  | .vaImulh => true
  | .vaImin => true
  | .vaImax => true
  | .vaIminu => true
  | .vaImaxu => true
  | .vaIadds => true
  | .vaIsubs => true
  | .vaIaddus => true
  | .vaIsubus => true
  | .vaIand => true
  | .vaIor => true
  | .vaIxor => true
  | .vaIshl => true
  | .vaIshr => true
  | .vaIsra => true
  | .vaIceq => true
  | .vaIclt => true
  | .vaIcltu => true
  | .vaSel => true
  | .vaMrg => true
  | .vaCvt => true
  | .vaDec => true
  | .vaEnc => true
  | .vaAmax => true
  | .vaQscale => true
  | .vaRsum => true
  | .vaPerm => true
  | .vaBcast => true
  | .vaShuf => true
  | .vaIota => true
  | .sfExp2 => true
  | .sfLog2 => true
  | .sfExp => true
  | .sfRcp => true
  | .sfRsqrt => true
  | .sfSqrt => true
  | .sfTanh => true
  | .sfSigm => true
  | .sfSin => true
  | .sfCos => true
  | .mxMm => true
  | .mxMma => true
  | .mxMmt => true
  | .mxMmta => true
  | .mxMmb => true
  | .mxMmba => true
  | .mxMmg => true
  | .mxMmga => true
  | .mxMmgb => true
  | .mxMmgba => true
  | .mxMmgt => true
  | .mxMmgta => true
  | .mxMv => true
  | .mxMva => true
  | .mxOuter => true
  | .mxOutera => true
  | .mxPgRoutine => true
  | .mxCalx => true
  | .mxRhead => true
  | .mxRtail => true
  | .mxClr => true
  | .mxMread => true
  | .mxMwrite => true
  | .mxLineFetch site _ => siteOk site
  | .mxSlotReady site => siteOk site
  | .epDrain => true
  | .epDrtr => true
  | .epDrsum => true
  | .epDrnet => true
  | .epDrrow => true
  | .epDrop => true
  | .epRowWrite site _ => siteOk site
  | .gnKey => true
  | .gnStream => true
  | .gnMember => true
  | .gnDraw => true
  | .gnRegen => true
  | .gnBits => true
  | .gnNext => true
  | .nsSends => true
  | .nsSend => true
  | .nsSendv => true
  | .nsDep => true
  | .nsDepv => true
  | .nsFwd => true
  | .nsTag => true
  | .nsLclr => true
  | .meshLinkHop slot _ => slotOk slot
  | .meshItemLanding slot _ => slotOk slot
  | .depositPerform slot _ => slotOk slot
  | .svMsg => true
  | .svMcast => true
  | .svQset => true
  | .svQpop => true
  | .svQstat => true
  | .svWreq => true
  | .svCnt => true
  | .svCntw => true
  | .svCancel => true
  | .svFire => true
  | .svArm => true
  | .svStop => true
  | .svDisc => true
  | .svDbg => true
  | .sendBufferRelease site => siteOk site
  | .catwalkMessageArrival _ => true
  | .installMessage _ => true
  | .dmCopy => true
  | .dmCopy2 => true
  | .dmGath => true
  | .dmGathl => true
  | .dmWalk => true
  | .dmRadd => true
  | .dmRmin => true
  | .dmRmax => true
  | .dmConv => true
  | .dmOvl => true
  | .dmUcopy => true
  | .dmBset => true
  | .dmBarr => true
  | .dmBchk => true
  | .dmPoolget => true
  | .dmPoolrel => true
  | .dmCommandAcceptance slot _ => slotOk slot
  | .timedCommandStart slot _ => slotOk slot
  | .windowAllocation slot stack => slotOk slot && decide (stack < 32)
  | .hbmSectorPerform slot _ _ => slotOk slot
  | .engineSramLinePerform slot _ _ => slotOk slot
  | .looseReplyLanding site => siteOk site
  | .ucopyCompletion site _ => siteOk site
  | .syEret => true
  | .syRngw => true
  | .syRngr => true
  | .syRngi => true
  | .syAccx => true
  | .syAccr => true
  | .syArcw => true
  | .syThr => true
  | .syCfgr => true
  | .syCfgw => true
  | .syHgrp => true
  | .syXtrig => true
  | .syWdog => true
  | .syFusr => true
  | .shRd => true
  | .shWr => true
  | .shInj => true
  | .shClr => true
  | .pierRelease slot => slotOk slot
  | .pierWatchdogExpiry slot => slotOk slot
  | .quantumMark slot _ => slotOk slot
  | .deskStep slot => slotOk slot
  | .freeze slot => slotOk slot
  | .resumption slot => slotOk slot
  | .hostFirePortWrite slot _ => slotOk slot
  | .hostCancelPortWrite slot _ => slotOk slot
  | .armingEntryWrite slot tag index _ _ => slotOk slot && decide (tag < 256) && decide (index < 4)
  | .hostRegisterWrite _ _ _ => true
  | .mmcMailboxCommand _ => true
  | .launchFire slot tag _ => slotOk slot && decide (tag < 256)
  | .entryArm slot tag _ _ => slotOk slot && decide (tag < 256)
  | .counterReadRequest slot _ site => slotOk slot && siteOk site
  | .counterWriteRequest slot _ _ site => slotOk slot && siteOk site
  | .cancel slot _ _ => slotOk slot
  | .cancelDrainComplete slot => slotOk slot
  | .launchSelection slot => slotOk slot
  | .launchStart slot => slotOk slot
  | .launchCompletion slot => slotOk slot
  | .counterZeroPropagation slot _ => slotOk slot
  | .priorityPromotion slot tag => slotOk slot && decide (tag < 256)
  | .preemption slot => slotOk slot
  | .stopForInspection slot _ => slotOk slot
  | .preemptStop slot _ => slotOk slot
  | .preemptionDrainEnd slot => slotOk slot
  | .saveComplete slot => slotOk slot
  | .preemptedResume slot => slotOk slot
  | .debugHalt slot _ => slotOk slot
  | .debugStep slot _ _ => slotOk slot
  | .debugStepExpiry slot => slotOk slot
  | .debugRelease slot _ => slotOk slot
  | .haltGroupHalt site => siteOk site
  | .throttleChange slot => slotOk slot
  | .fabricScheduleLoad slot port _ => slotOk slot && decide (port < 16)
  | .fabricFrameSend slot port => slotOk slot && decide (port < 16)
  | .fabricFrameReceive slot port _ _ => slotOk slot && decide (port < 16)
  | .frameRetry slot port _ => slotOk slot && decide (port < 16)
  | .fabricHoldAnnounce hold => slotOk hold.slot
  | .fabricHold slot => slotOk slot
  | .fabricHoldEnd slot => slotOk slot
  | .timeBeacon slot _ => slotOk slot
  | .launchMessageComplete slot tag => slotOk slot && decide (tag < 256)
  | .collectiveCombine slot _ => slotOk slot
  | .partitionConfigure index _ => decide (index < 16)
  | .islandScrub island => decide (island < 16)
  | .keySlotWrite index _ => decide (index < 16)
  | .lifecycleAdvance _ _ _ => true
  | .debugUnlock _ _ => true
  | .getVersion _ => true
  | .getCapabilities _ => true
  | .negotiateAlgorithms _ => true
  | .getDigests _ => true
  | .getCertificate _ _ _ _ => true
  | .challenge _ _ => true
  | .getMeasurements _ _ _ => true
  | .powerOnVerification _ _ _ => true
  | .firmwareUpdateWrite _ _ _ => true
  | .coreReset die => decide (die < 8)
  | .uncoreReset die => decide (die < 8)
  | .thermalCritical stack _ => decide (stack < 32)
  | .thermalRecovery stack _ => decide (stack < 32)
  | .linkRetrain _ _ => true
  | .patrolScrub die _ _ => decide (die < 8)
  | .archiveEntryWrite die => decide (die < 8)
  | .reducedServiceStart => true
  | .reducedServiceEnd => true
  | .bootStateEntry die => decide (die < 8)
  | .bootStateEnd die => decide (die < 8)
  | .objectLoad slot _ _ => slotOk slot
  | .rosnilAdd _ _ _ => true
  | .rosnilSub _ _ _ => true
  | .rosnilAnd _ _ _ => true
  | .rosnilOr _ _ _ => true
  | .rosnilXor _ _ _ => true
  | .rosnilShl _ _ _ => true
  | .rosnilShr _ _ _ => true
  | .rosnilSra _ _ _ => true
  | .rosnilMul _ _ _ => true
  | .rosnilSlt _ _ _ => true
  | .rosnilSltu _ _ _ => true
  | .rosnilAddi _ _ _ => true
  | .rosnilLi _ _ => true
  | .rosnilLio _ _ _ => true
  | .rosnilLd _ _ _ => true
  | .rosnilSt _ _ => true
  | .rosnilBne _ _ _ => true
  | .rosnilBlt _ _ _ => true
  | .rosnilJ _ => true
  | .rosnilHalt => true
  | .rosnilGvl _ => true
  | .rosnilVld _ _ _ _ => true
  | .rosnilVst _ _ _ => true
  | .rosnilVfadd _ _ _ _ => true
  | .rosnilVfsub _ _ _ _ => true
  | .rosnilVfmul _ _ _ _ => true
  | .rosnilVfma _ _ _ _ => true
  | .rosnilVfmax _ _ _ _ => true
  | .rosnilVfmin _ _ _ _ => true
  | .rosnilVwid _ _ _ h s => h.toNat < 2 && s.toNat < 2
  | .rosnilVrsum _ _ _ => true
  | .rosnilVbcast _ _ => true
  | .rosnilVwhile d _ _ => d != 0
  | .rosnilVmovs _ _ => true
  | .rosnilMtile _ _ _ K _ => K != 0
  | .rosnilMtilea _ _ _ K _ => K != 0
  | .rosnilMdrain _ => true
  | .rosnilGkey _ => true
  | .rosnilGsm _ _ => true
  | .rosnilGdraw _ _ => true
  | .domainFormation slot _ => slotOk slot
  | .standbyPowerRemoval die => decide (die < 8)

end Sys2Proof
end

