-- ==== Sys2Proof/Decode.lean ====
section
/-!
DEFINITION. Reading and writing encodings: the 32-bit words of the portable form (spec/18 R334 to R338), the 40-bit move
slots and 128-byte bundles (spec/02 R29 to R36, R43 to R47). Reserved encodings are refused; nothing falls through.
-/
namespace Sys2Proof

/-! ### Portable words -/

/-- Bits [hi : hi − n + 1] of a portable word. -/
def pfield (w : BitVec 32) (lo n : Nat) : BitVec n := w.extractLsb' lo n

/-- The instruction of a portable word; none where the word breaks a fixed bit or names no operation (spec/18 R336 to R338). -/
def decodePortable (w : BitVec 32) : Option Instr :=
  if w &&& 0xfc003fff#32 = 0x04000000#32 then some (.rosnilAdd (pfield w 22 4) (pfield w 18 4) (pfield w 14 4))
  else if w &&& 0xfc003fff#32 = 0x08000000#32 then some (.rosnilSub (pfield w 22 4) (pfield w 18 4) (pfield w 14 4))
  else if w &&& 0xfc003fff#32 = 0x0c000000#32 then some (.rosnilAnd (pfield w 22 4) (pfield w 18 4) (pfield w 14 4))
  else if w &&& 0xfc003fff#32 = 0x10000000#32 then some (.rosnilOr (pfield w 22 4) (pfield w 18 4) (pfield w 14 4))
  else if w &&& 0xfc003fff#32 = 0x14000000#32 then some (.rosnilXor (pfield w 22 4) (pfield w 18 4) (pfield w 14 4))
  else if w &&& 0xfc003fff#32 = 0x18000000#32 then some (.rosnilShl (pfield w 22 4) (pfield w 18 4) (pfield w 14 4))
  else if w &&& 0xfc003fff#32 = 0x1c000000#32 then some (.rosnilShr (pfield w 22 4) (pfield w 18 4) (pfield w 14 4))
  else if w &&& 0xfc003fff#32 = 0x20000000#32 then some (.rosnilSra (pfield w 22 4) (pfield w 18 4) (pfield w 14 4))
  else if w &&& 0xfc003fff#32 = 0x24000000#32 then some (.rosnilMul (pfield w 22 4) (pfield w 18 4) (pfield w 14 4))
  else if w &&& 0xfc003fff#32 = 0x28000000#32 then some (.rosnilSlt (pfield w 22 4) (pfield w 18 4) (pfield w 14 4))
  else if w &&& 0xfc003fff#32 = 0x2c000000#32 then some (.rosnilSltu (pfield w 22 4) (pfield w 18 4) (pfield w 14 4))
  else if w &&& 0xfc000000#32 = 0x30000000#32 then some (.rosnilAddi (pfield w 22 4) (pfield w 18 4) (pfield w 0 18))
  else if w &&& 0xfc3c0000#32 = 0x34000000#32 then some (.rosnilLi (pfield w 22 4) (pfield w 0 18))
  else if w &&& 0xfc000000#32 = 0x38000000#32 then some (.rosnilLio (pfield w 22 4) (pfield w 18 4) (pfield w 0 18))
  else if w &&& 0xfc000000#32 = 0x3c000000#32 then some (.rosnilLd (pfield w 22 4) (pfield w 18 4) (pfield w 0 18))
  else if w &&& 0xffc03fff#32 = 0x40000000#32 then some (.rosnilSt (pfield w 18 4) (pfield w 14 4))
  else if w &&& 0xfc000000#32 = 0x44000000#32 then some (.rosnilBne (pfield w 22 4) (pfield w 18 4) (pfield w 0 18))
  else if w &&& 0xfc000000#32 = 0x48000000#32 then some (.rosnilBlt (pfield w 22 4) (pfield w 18 4) (pfield w 0 18))
  else if w &&& 0xfffc0000#32 = 0x4c000000#32 then some (.rosnilJ (pfield w 0 18))
  else if w &&& 0xffffffff#32 = 0x50000000#32 then some (.rosnilHalt)
  else if w &&& 0xfc3fffff#32 = 0x60000000#32 then some (.rosnilGvl (pfield w 22 4))
  else if w &&& 0xfc000000#32 = 0x64000000#32 then some (.rosnilVld (pfield w 22 4) (pfield w 18 4) (pfield w 16 2) (pfield w 0 16))
  else if w &&& 0xffc00fff#32 = 0x68000000#32 then some (.rosnilVst (pfield w 18 4) (pfield w 14 4) (pfield w 12 2))
  else if w &&& 0xfc000fff#32 = 0x6c000000#32 then some (.rosnilVfadd (pfield w 22 4) (pfield w 18 4) (pfield w 14 4) (pfield w 12 2))
  else if w &&& 0xfc000fff#32 = 0x70000000#32 then some (.rosnilVfsub (pfield w 22 4) (pfield w 18 4) (pfield w 14 4) (pfield w 12 2))
  else if w &&& 0xfc000fff#32 = 0x74000000#32 then some (.rosnilVfmul (pfield w 22 4) (pfield w 18 4) (pfield w 14 4) (pfield w 12 2))
  else if w &&& 0xfc000fff#32 = 0x78000000#32 then some (.rosnilVfma (pfield w 22 4) (pfield w 18 4) (pfield w 14 4) (pfield w 12 2))
  else if w &&& 0xfc000fff#32 = 0x7c000000#32 then some (.rosnilVfmax (pfield w 22 4) (pfield w 18 4) (pfield w 14 4) (pfield w 12 2))
  else if w &&& 0xfc000fff#32 = 0x80000000#32 then some (.rosnilVfmin (pfield w 22 4) (pfield w 18 4) (pfield w 14 4) (pfield w 12 2))
  else if w &&& 0xfc3c00ff#32 = 0x84000000#32 then some (.rosnilVwid (pfield w 22 4) (pfield w 14 4) (pfield w 12 2) (pfield w 10 2) (pfield w 8 2))
  else if w &&& 0xfc3c0fff#32 = 0x88000000#32 then some (.rosnilVrsum (pfield w 22 4) (pfield w 14 4) (pfield w 12 2))
  else if w &&& 0xfc03ffff#32 = 0x8c000000#32 then some (.rosnilVbcast (pfield w 22 4) (pfield w 18 4))
  else if w &&& 0xff003fff#32 = 0x90000000#32 then some (.rosnilVwhile (pfield w 22 2) (pfield w 18 4) (pfield w 14 4))
  else if w &&& 0xfc3c3fff#32 = 0x94000000#32 then some (.rosnilVmovs (pfield w 22 4) (pfield w 14 4))
  else if w &&& 0xfc00003c#32 = 0xa0000000#32 then some (.rosnilMtile (pfield w 22 4) (pfield w 18 4) (pfield w 14 4) (pfield w 6 8) (pfield w 0 2))
  else if w &&& 0xfc00003c#32 = 0xa4000000#32 then some (.rosnilMtilea (pfield w 22 4) (pfield w 18 4) (pfield w 14 4) (pfield w 6 8) (pfield w 0 2))
  else if w &&& 0xffc3ffff#32 = 0xa8000000#32 then some (.rosnilMdrain (pfield w 18 4))
  else if w &&& 0xffc3ffff#32 = 0xb0000000#32 then some (.rosnilGkey (pfield w 18 4))
  else if w &&& 0xffc03fff#32 = 0xb4000000#32 then some (.rosnilGsm (pfield w 18 4) (pfield w 14 4))
  else if w &&& 0xfc03ffff#32 = 0xb8000000#32 then some (.rosnilGdraw (pfield w 22 4) (pfield w 18 4))
  else none

/-- A field placed at bit lo of a portable word. -/
def pput (lo : Nat) {n : Nat} (x : BitVec n) : BitVec 32 := x.setWidth 32 <<< lo

/-- The portable word of an instruction; none for a row that is no portable instruction. -/
def encodePortable : Instr → Option (BitVec 32)
  | .rosnilAdd d a b => some (0x04000000#32 ||| pput 22 d ||| pput 18 a ||| pput 14 b)
  | .rosnilSub d a b => some (0x08000000#32 ||| pput 22 d ||| pput 18 a ||| pput 14 b)
  | .rosnilAnd d a b => some (0x0c000000#32 ||| pput 22 d ||| pput 18 a ||| pput 14 b)
  | .rosnilOr d a b => some (0x10000000#32 ||| pput 22 d ||| pput 18 a ||| pput 14 b)
  | .rosnilXor d a b => some (0x14000000#32 ||| pput 22 d ||| pput 18 a ||| pput 14 b)
  | .rosnilShl d a b => some (0x18000000#32 ||| pput 22 d ||| pput 18 a ||| pput 14 b)
  | .rosnilShr d a b => some (0x1c000000#32 ||| pput 22 d ||| pput 18 a ||| pput 14 b)
  | .rosnilSra d a b => some (0x20000000#32 ||| pput 22 d ||| pput 18 a ||| pput 14 b)
  | .rosnilMul d a b => some (0x24000000#32 ||| pput 22 d ||| pput 18 a ||| pput 14 b)
  | .rosnilSlt d a b => some (0x28000000#32 ||| pput 22 d ||| pput 18 a ||| pput 14 b)
  | .rosnilSltu d a b => some (0x2c000000#32 ||| pput 22 d ||| pput 18 a ||| pput 14 b)
  | .rosnilAddi d a i => some (0x30000000#32 ||| pput 22 d ||| pput 18 a ||| pput 0 i)
  | .rosnilLi d i => some (0x34000000#32 ||| pput 22 d ||| pput 0 i)
  | .rosnilLio d a i => some (0x38000000#32 ||| pput 22 d ||| pput 18 a ||| pput 0 i)
  | .rosnilLd d a i => some (0x3c000000#32 ||| pput 22 d ||| pput 18 a ||| pput 0 i)
  | .rosnilSt a b => some (0x40000000#32 ||| pput 18 a ||| pput 14 b)
  | .rosnilBne a b o => some (0x44000000#32 ||| pput 22 a ||| pput 18 b ||| pput 0 o)
  | .rosnilBlt a b o => some (0x48000000#32 ||| pput 22 a ||| pput 18 b ||| pput 0 o)
  | .rosnilJ o => some (0x4c000000#32 ||| pput 0 o)
  | .rosnilHalt => some (0x50000000#32)
  | .rosnilGvl d => some (0x60000000#32 ||| pput 22 d)
  | .rosnilVld d a k i => some (0x64000000#32 ||| pput 22 d ||| pput 18 a ||| pput 16 k ||| pput 0 i)
  | .rosnilVst a b k => some (0x68000000#32 ||| pput 18 a ||| pput 14 b ||| pput 12 k)
  | .rosnilVfadd d a b k => some (0x6c000000#32 ||| pput 22 d ||| pput 18 a ||| pput 14 b ||| pput 12 k)
  | .rosnilVfsub d a b k => some (0x70000000#32 ||| pput 22 d ||| pput 18 a ||| pput 14 b ||| pput 12 k)
  | .rosnilVfmul d a b k => some (0x74000000#32 ||| pput 22 d ||| pput 18 a ||| pput 14 b ||| pput 12 k)
  | .rosnilVfma d a b k => some (0x78000000#32 ||| pput 22 d ||| pput 18 a ||| pput 14 b ||| pput 12 k)
  | .rosnilVfmax d a b k => some (0x7c000000#32 ||| pput 22 d ||| pput 18 a ||| pput 14 b ||| pput 12 k)
  | .rosnilVfmin d a b k => some (0x80000000#32 ||| pput 22 d ||| pput 18 a ||| pput 14 b ||| pput 12 k)
  | .rosnilVwid d b k h s => some (0x84000000#32 ||| pput 22 d ||| pput 14 b ||| pput 12 k ||| pput 10 h ||| pput 8 s)
  | .rosnilVrsum d b k => some (0x88000000#32 ||| pput 22 d ||| pput 14 b ||| pput 12 k)
  | .rosnilVbcast d a => some (0x8c000000#32 ||| pput 22 d ||| pput 18 a)
  | .rosnilVwhile d a b => some (0x90000000#32 ||| pput 22 d ||| pput 18 a ||| pput 14 b)
  | .rosnilVmovs d b => some (0x94000000#32 ||| pput 22 d ||| pput 14 b)
  | .rosnilMtile a b c K f => some (0xa0000000#32 ||| pput 22 a ||| pput 18 b ||| pput 14 c ||| pput 6 K ||| pput 0 f)
  | .rosnilMtilea a b c K f => some (0xa4000000#32 ||| pput 22 a ||| pput 18 b ||| pput 14 c ||| pput 6 K ||| pput 0 f)
  | .rosnilMdrain a => some (0xa8000000#32 ||| pput 18 a)
  | .rosnilGkey a => some (0xb0000000#32 ||| pput 18 a)
  | .rosnilGsm a b => some (0xb4000000#32 ||| pput 18 a ||| pput 14 b)
  | .rosnilGdraw d a => some (0xb8000000#32 ||| pput 22 d ||| pput 18 a)
  | _ => none

/-! ### Move slots -/

/-- The source field [39:18] of a slot (spec/02 R32). -/
def decodeSource (x : BitVec 22) : Source :=
  if x.getLsbD 21 then .imm (x.extractLsb' 0 21)
  else .port (x.extractLsb' 16 5) (x.extractLsb' 14 2) (x.extractLsb' 7 7) (x.extractLsb' 0 7)

def encodeSource : Source → BitVec 22
  | .imm v => 1#1 ++ v
  | .port k kind sel tag => 0#1 ++ (k ++ (kind ++ (sel ++ tag)))

/-- A slot (spec/02 R32). -/
def decodeSlot (x : BitVec 40) : Slot where
  src := decodeSource (x.extractLsb' 18 22)
  sock := x.extractLsb' 13 5
  kind := x.extractLsb' 11 2
  sel := x.extractLsb' 4 7
  guard := { invert := x.getLsbD 3, index := x.extractLsb' 0 3 }

def encodeSlot (s : Slot) : BitVec 40 :=
  encodeSource s.src ++ (s.sock ++ (s.kind ++ (s.sel ++ (BitVec.ofBool s.guard.invert ++ s.guard.index))))

/-- The CT triggers (spec/02 R43 to R47). -/
def ctTrigger (sel : Nat) : Option Instr :=
  match sel with
  | 0x00 => some .ctJmp
  | 0x01 => some .ctJmpa
  | 0x02 => some .ctJmpx
  | 0x03 => some .ctCall
  | 0x04 => some .ctCalla
  | 0x05 => some .ctRet
  | 0x06 => some .ctLoop
  | 0x07 => some .ctLbrk
  | 0x08 => some .ctMode
  | 0x09 => some .ctLoose
  | 0x0A => some .ctPier
  | 0x0B => some .ctRealign
  | 0x0C => some .ctFence
  | 0x0D => some .ctHalt
  | 0x0E => some .ctBkpt
  | 0x0F => some .ctEcall
  | 0x10 => some .ctUiret
  | 0x11 => some .ctUimask
  | _ => none

/-- The TM triggers (spec/02 R43 to R47). -/
def tmTrigger (sel : Nat) : Option Instr :=
  match sel with
  | 0x00 => some .tmAt
  | 0x01 => some .tmAtmin
  | 0x02 => some .tmAtmax
  | 0x03 => some .tmSnap
  | _ => none

/-- The IA triggers (spec/02 R43 to R47). -/
def iaTrigger (sel : Nat) : Option Instr :=
  match sel with
  | 0x00 => some .iaAdd
  | 0x01 => some .iaSub
  | 0x02 => some .iaAnd
  | 0x03 => some .iaOr
  | 0x04 => some .iaXor
  | 0x05 => some .iaShl
  | 0x06 => some .iaShr
  | 0x07 => some .iaSra
  | 0x08 => some .iaMin
  | 0x09 => some .iaMax
  | 0x0A => some .iaMinu
  | 0x0B => some .iaMaxu
  | 0x0C => some .iaAdds
  | 0x0D => some .iaSubs
  | 0x0E => some .iaAddus
  | 0x0F => some .iaSubus
  | 0x10 => some .iaMul
  | 0x11 => some .iaMulh
  | 0x12 => some .iaMulhu
  | 0x13 => some .iaDiv
  | 0x14 => some .iaDivu
  | 0x15 => some .iaRem
  | 0x16 => some .iaRemu
  | 0x18 => some .iaCeq
  | 0x19 => some .iaCne
  | 0x1A => some .iaClt
  | 0x1B => some .iaCltu
  | 0x1C => some .iaClz
  | 0x1D => some .iaPop
  | 0x1E => some .iaExt
  | _ => none

/-- The AG triggers (spec/02 R43 to R47). -/
def agTrigger (sel : Nat) : Option Instr :=
  match sel with
  | 0x00 => some .agInc
  | 0x01 => some .agMod
  | 0x02 => some .agBrev
  | 0x03 => some .agCirc
  | 0x08 => some .agMkptr
  | 0x09 => some .agMkcl
  | 0x0A => some .agMkdom
  | 0x0B => some .agCoord
  | 0x0C => some .agSetb
  | 0x0D => some .agSets
  | 0x0E => some .agSetl
  | 0x0F => some .agLea
  | _ => none

/-- The LA triggers (spec/02 R43 to R47). -/
def laTrigger (sel : Nat) : Option Instr :=
  match sel with
  | 0x00 => some .laLd8
  | 0x01 => some .laLd16
  | 0x02 => some .laLd32
  | 0x03 => some .laLd64
  | 0x04 => some .laLdv
  | 0x05 => some .laLdvs
  | 0x06 => some .laLdvx
  | 0x08 => some .laSt8
  | 0x09 => some .laSt16
  | 0x0A => some .laSt32
  | 0x0B => some .laSt64
  | 0x0C => some .laStv
  | 0x0D => some .laStvs
  | 0x0E => some .laStvx
  | 0x10 => some .laAmoadd
  | 0x11 => some .laAmomin
  | 0x12 => some .laAmomax
  | 0x13 => some .laAmoswap
  | 0x14 => some .laAmocas
  | 0x18 => some .laTblw
  | _ => none

/-- The VA triggers (spec/02 R43 to R47). -/
def vaTrigger (sel : Nat) : Option Instr :=
  match sel with
  | 0x00 => some .vaFadd
  | 0x01 => some .vaFsub
  | 0x02 => some .vaFmul
  | 0x03 => some .vaFfma
  | 0x04 => some .vaFfms
  | 0x05 => some .vaFmin
  | 0x06 => some .vaFmax
  | 0x07 => some .vaFabs
  | 0x08 => some .vaFneg
  | 0x09 => some .vaFceq
  | 0x0A => some .vaFclt
  | 0x0B => some .vaFcle
  | 0x0C => some .vaFcun
  | 0x10 => some .vaIadd
  | 0x11 => some .vaIsub
  | 0x12 => some .vaImul
  | 0x13 => some .vaImulh
  | 0x14 => some .vaImin
  | 0x15 => some .vaImax
  | 0x16 => some .vaIminu
  | 0x17 => some .vaImaxu
  | 0x18 => some .vaIadds
  | 0x19 => some .vaIsubs
  | 0x1A => some .vaIaddus
  | 0x1B => some .vaIsubus
  | 0x1C => some .vaIand
  | 0x1D => some .vaIor
  | 0x1E => some .vaIxor
  | 0x1F => some .vaIshl
  | 0x20 => some .vaIshr
  | 0x21 => some .vaIsra
  | 0x22 => some .vaIceq
  | 0x23 => some .vaIclt
  | 0x24 => some .vaIcltu
  | 0x28 => some .vaSel
  | 0x29 => some .vaCvt
  | 0x2A => some .vaDec
  | 0x2B => some .vaEnc
  | 0x2C => some .vaAmax
  | 0x2D => some .vaQscale
  | 0x2E => some .vaRsum
  | 0x2F => some .vaPerm
  | 0x30 => some .vaBcast
  | 0x31 => some .vaShuf
  | 0x32 => some .vaMrg
  | 0x33 => some .vaIota
  | _ => none

/-- The SF triggers (spec/02 R43 to R47). -/
def sfTrigger (sel : Nat) : Option Instr :=
  match sel with
  | 0x00 => some .sfExp2
  | 0x01 => some .sfLog2
  | 0x02 => some .sfExp
  | 0x03 => some .sfRcp
  | 0x04 => some .sfRsqrt
  | 0x05 => some .sfSqrt
  | 0x06 => some .sfTanh
  | 0x07 => some .sfSigm
  | 0x08 => some .sfSin
  | 0x09 => some .sfCos
  | _ => none

/-- The MX triggers (spec/02 R43 to R47). -/
def mxTrigger (sel : Nat) : Option Instr :=
  match sel with
  | 0x00 => some .mxMm
  | 0x01 => some .mxMma
  | 0x02 => some .mxMmt
  | 0x03 => some .mxMmta
  | 0x04 => some .mxMmb
  | 0x05 => some .mxMmba
  | 0x06 => some .mxMmg
  | 0x07 => some .mxMmga
  | 0x08 => some .mxMmgb
  | 0x09 => some .mxMmgba
  | 0x0A => some .mxMmgt
  | 0x0B => some .mxMmgta
  | 0x0C => some .mxMv
  | 0x0D => some .mxMva
  | 0x0E => some .mxOuter
  | 0x0F => some .mxOutera
  | 0x40 => some .mxCalx
  | 0x41 => some .mxRhead
  | 0x42 => some .mxRtail
  | 0x43 => some .mxClr
  | 0x44 => some .mxMread
  | 0x45 => some .mxMwrite
  | n => if 0x10 ≤ n ∧ n ≤ 0x2F then some .mxPgRoutine else none

/-- The EP triggers (spec/02 R43 to R47). -/
def epTrigger (sel : Nat) : Option Instr :=
  match sel with
  | 0x00 => some .epDrain
  | 0x01 => some .epDrtr
  | 0x02 => some .epDrsum
  | 0x03 => some .epDrnet
  | 0x04 => some .epDrrow
  | 0x05 => some .epDrop
  | _ => none

/-- The GN triggers (spec/02 R43 to R47). -/
def gnTrigger (sel : Nat) : Option Instr :=
  match sel with
  | 0x00 => some .gnKey
  | 0x01 => some .gnStream
  | 0x02 => some .gnMember
  | 0x03 => some .gnDraw
  | 0x04 => some .gnRegen
  | 0x05 => some .gnBits
  | 0x06 => some .gnNext
  | _ => none

/-- The NS triggers (spec/02 R43 to R47). -/
def nsTrigger (sel : Nat) : Option Instr :=
  match sel with
  | 0x00 => some .nsSends
  | 0x01 => some .nsSend
  | 0x02 => some .nsSendv
  | 0x03 => some .nsDep
  | 0x04 => some .nsDepv
  | 0x05 => some .nsFwd
  | 0x06 => some .nsTag
  | 0x07 => some .nsLclr
  | _ => none

/-- The SV triggers (spec/02 R43 to R47). -/
def svTrigger (sel : Nat) : Option Instr :=
  match sel with
  | 0x00 => some .svMsg
  | 0x01 => some .svMcast
  | 0x02 => some .svQset
  | 0x03 => some .svQpop
  | 0x04 => some .svQstat
  | 0x05 => some .svWreq
  | 0x06 => some .svCnt
  | 0x07 => some .svCntw
  | 0x08 => some .svCancel
  | 0x09 => some .svFire
  | 0x0A => some .svArm
  | 0x0B => some .svStop
  | 0x0C => some .svDisc
  | 0x0D => some .svDbg
  | _ => none

/-- The DM triggers (spec/02 R43 to R47). -/
def dmTrigger (sel : Nat) : Option Instr :=
  match sel with
  | 0x00 => some .dmCopy
  | 0x01 => some .dmCopy2
  | 0x02 => some .dmGath
  | 0x03 => some .dmGathl
  | 0x04 => some .dmWalk
  | 0x05 => some .dmRadd
  | 0x06 => some .dmRmin
  | 0x07 => some .dmRmax
  | 0x08 => some .dmConv
  | 0x09 => some .dmOvl
  | 0x10 => some .dmUcopy
  | 0x11 => some .dmBset
  | 0x12 => some .dmBarr
  | 0x13 => some .dmBchk
  | 0x14 => some .dmPoolget
  | 0x15 => some .dmPoolrel
  | _ => none

/-- The SY triggers (spec/02 R43 to R47). -/
def syTrigger (sel : Nat) : Option Instr :=
  match sel with
  | 0x00 => some .syEret
  | 0x01 => some .syRngw
  | 0x02 => some .syRngr
  | 0x03 => some .syRngi
  | 0x04 => some .syAccx
  | 0x05 => some .syAccr
  | 0x06 => some .syArcw
  | 0x07 => some .syThr
  | 0x08 => some .syCfgr
  | 0x09 => some .syCfgw
  | 0x0A => some .syHgrp
  | 0x0B => some .syXtrig
  | 0x0C => some .syWdog
  | 0x0D => some .syFusr
  | _ => none

/-- The SH triggers (spec/02 R43 to R47). -/
def shTrigger (sel : Nat) : Option Instr :=
  match sel with
  | 0x00 => some .shRd
  | 0x01 => some .shWr
  | 0x02 => some .shInj
  | 0x03 => some .shClr
  | _ => none

/-- The instruction a trigger of a socket starts (spec/02 R39, R43 to R47). -/
def triggerInstr (q : Sock) (sel : Nat) : Option Instr :=
  match q with
  | .ct => ctTrigger sel
  | .tm => tmTrigger sel
  | .ia | .ib => iaTrigger sel
  | .ag => agTrigger sel
  | .la | .lb => laTrigger sel
  | .va | .vb | .vc => vaTrigger sel
  | .sf => sfTrigger sel
  | .mx => mxTrigger sel
  | .ep => epTrigger sel
  | .gn => gnTrigger sel
  | .ns => nsTrigger sel
  | .sv => svTrigger sel
  | .dm => dmTrigger sel
  | .sy => syTrigger sel
  | .sh => shTrigger sel
  | _ => none

/-- The instruction of a slot whose destination is a trigger port. -/
def Slot.trigger (s : Slot) : Option Instr :=
  if s.kind = 2 then
    match Sock.ofNum s.sock.toNat with
    | some q => triggerInstr q s.sel.toNat
    | none => none
  else none

/-- The slot of the unguarded move `0 -> SOCK.op` (spec/02 R34, spec/03 R55). -/
def trigSlot (sock : BitVec 5) (sel : BitVec 7) : Slot := ⟨.imm 0, sock, 2, sel, ⟨false, 0⟩⟩

/-- The slot that writes a trigger instruction with an immediate 0, in the first socket that has the operation; none for rows
that are no trigger. -/
def encodeTrigger : Instr → Option Slot
  | .ctJmp => some (trigSlot 1 0x00)
  | .ctJmpa => some (trigSlot 1 0x01)
  | .ctJmpx => some (trigSlot 1 0x02)
  | .ctCall => some (trigSlot 1 0x03)
  | .ctCalla => some (trigSlot 1 0x04)
  | .ctRet => some (trigSlot 1 0x05)
  | .ctLoop => some (trigSlot 1 0x06)
  | .ctLbrk => some (trigSlot 1 0x07)
  | .ctMode => some (trigSlot 1 0x08)
  | .ctLoose => some (trigSlot 1 0x09)
  | .ctPier => some (trigSlot 1 0x0A)
  | .ctRealign => some (trigSlot 1 0x0B)
  | .ctFence => some (trigSlot 1 0x0C)
  | .ctHalt => some (trigSlot 1 0x0D)
  | .ctBkpt => some (trigSlot 1 0x0E)
  | .ctEcall => some (trigSlot 1 0x0F)
  | .ctUiret => some (trigSlot 1 0x10)
  | .ctUimask => some (trigSlot 1 0x11)
  | .tmAt => some (trigSlot 22 0x00)
  | .tmAtmin => some (trigSlot 22 0x01)
  | .tmAtmax => some (trigSlot 22 0x02)
  | .tmSnap => some (trigSlot 22 0x03)
  | .iaAdd => some (trigSlot 2 0x00)
  | .iaSub => some (trigSlot 2 0x01)
  | .iaAnd => some (trigSlot 2 0x02)
  | .iaOr => some (trigSlot 2 0x03)
  | .iaXor => some (trigSlot 2 0x04)
  | .iaShl => some (trigSlot 2 0x05)
  | .iaShr => some (trigSlot 2 0x06)
  | .iaSra => some (trigSlot 2 0x07)
  | .iaMin => some (trigSlot 2 0x08)
  | .iaMax => some (trigSlot 2 0x09)
  | .iaMinu => some (trigSlot 2 0x0A)
  | .iaMaxu => some (trigSlot 2 0x0B)
  | .iaAdds => some (trigSlot 2 0x0C)
  | .iaSubs => some (trigSlot 2 0x0D)
  | .iaAddus => some (trigSlot 2 0x0E)
  | .iaSubus => some (trigSlot 2 0x0F)
  | .iaMul => some (trigSlot 2 0x10)
  | .iaMulh => some (trigSlot 2 0x11)
  | .iaMulhu => some (trigSlot 2 0x12)
  | .iaDiv => some (trigSlot 2 0x13)
  | .iaDivu => some (trigSlot 2 0x14)
  | .iaRem => some (trigSlot 2 0x15)
  | .iaRemu => some (trigSlot 2 0x16)
  | .iaCeq => some (trigSlot 2 0x18)
  | .iaCne => some (trigSlot 2 0x19)
  | .iaClt => some (trigSlot 2 0x1A)
  | .iaCltu => some (trigSlot 2 0x1B)
  | .iaClz => some (trigSlot 2 0x1C)
  | .iaPop => some (trigSlot 2 0x1D)
  | .iaExt => some (trigSlot 2 0x1E)
  | .agInc => some (trigSlot 4 0x00)
  | .agMod => some (trigSlot 4 0x01)
  | .agBrev => some (trigSlot 4 0x02)
  | .agCirc => some (trigSlot 4 0x03)
  | .agMkptr => some (trigSlot 4 0x08)
  | .agMkcl => some (trigSlot 4 0x09)
  | .agMkdom => some (trigSlot 4 0x0A)
  | .agCoord => some (trigSlot 4 0x0B)
  | .agSetb => some (trigSlot 4 0x0C)
  | .agSets => some (trigSlot 4 0x0D)
  | .agSetl => some (trigSlot 4 0x0E)
  | .agLea => some (trigSlot 4 0x0F)
  | .laLd8 => some (trigSlot 12 0x00)
  | .laLd16 => some (trigSlot 12 0x01)
  | .laLd32 => some (trigSlot 12 0x02)
  | .laLd64 => some (trigSlot 12 0x03)
  | .laLdv => some (trigSlot 12 0x04)
  | .laLdvs => some (trigSlot 12 0x05)
  | .laLdvx => some (trigSlot 12 0x06)
  | .laSt8 => some (trigSlot 12 0x08)
  | .laSt16 => some (trigSlot 12 0x09)
  | .laSt32 => some (trigSlot 12 0x0A)
  | .laSt64 => some (trigSlot 12 0x0B)
  | .laStv => some (trigSlot 12 0x0C)
  | .laStvs => some (trigSlot 12 0x0D)
  | .laStvx => some (trigSlot 12 0x0E)
  | .laAmoadd => some (trigSlot 12 0x10)
  | .laAmomin => some (trigSlot 12 0x11)
  | .laAmomax => some (trigSlot 12 0x12)
  | .laAmoswap => some (trigSlot 12 0x13)
  | .laAmocas => some (trigSlot 12 0x14)
  | .laTblw => some (trigSlot 12 0x18)
  | .vaFadd => some (trigSlot 8 0x00)
  | .vaFsub => some (trigSlot 8 0x01)
  | .vaFmul => some (trigSlot 8 0x02)
  | .vaFfma => some (trigSlot 8 0x03)
  | .vaFfms => some (trigSlot 8 0x04)
  | .vaFmin => some (trigSlot 8 0x05)
  | .vaFmax => some (trigSlot 8 0x06)
  | .vaFabs => some (trigSlot 8 0x07)
  | .vaFneg => some (trigSlot 8 0x08)
  | .vaFceq => some (trigSlot 8 0x09)
  | .vaFclt => some (trigSlot 8 0x0A)
  | .vaFcle => some (trigSlot 8 0x0B)
  | .vaFcun => some (trigSlot 8 0x0C)
  | .vaIadd => some (trigSlot 8 0x10)
  | .vaIsub => some (trigSlot 8 0x11)
  | .vaImul => some (trigSlot 8 0x12)
  | .vaImulh => some (trigSlot 8 0x13)
  | .vaImin => some (trigSlot 8 0x14)
  | .vaImax => some (trigSlot 8 0x15)
  | .vaIminu => some (trigSlot 8 0x16)
  | .vaImaxu => some (trigSlot 8 0x17)
  | .vaIadds => some (trigSlot 8 0x18)
  | .vaIsubs => some (trigSlot 8 0x19)
  | .vaIaddus => some (trigSlot 8 0x1A)
  | .vaIsubus => some (trigSlot 8 0x1B)
  | .vaIand => some (trigSlot 8 0x1C)
  | .vaIor => some (trigSlot 8 0x1D)
  | .vaIxor => some (trigSlot 8 0x1E)
  | .vaIshl => some (trigSlot 8 0x1F)
  | .vaIshr => some (trigSlot 8 0x20)
  | .vaIsra => some (trigSlot 8 0x21)
  | .vaIceq => some (trigSlot 8 0x22)
  | .vaIclt => some (trigSlot 8 0x23)
  | .vaIcltu => some (trigSlot 8 0x24)
  | .vaSel => some (trigSlot 8 0x28)
  | .vaCvt => some (trigSlot 8 0x29)
  | .vaDec => some (trigSlot 8 0x2A)
  | .vaEnc => some (trigSlot 8 0x2B)
  | .vaAmax => some (trigSlot 8 0x2C)
  | .vaQscale => some (trigSlot 8 0x2D)
  | .vaRsum => some (trigSlot 8 0x2E)
  | .vaPerm => some (trigSlot 8 0x2F)
  | .vaBcast => some (trigSlot 8 0x30)
  | .vaShuf => some (trigSlot 8 0x31)
  | .vaMrg => some (trigSlot 8 0x32)
  | .vaIota => some (trigSlot 8 0x33)
  | .sfExp2 => some (trigSlot 11 0x00)
  | .sfLog2 => some (trigSlot 11 0x01)
  | .sfExp => some (trigSlot 11 0x02)
  | .sfRcp => some (trigSlot 11 0x03)
  | .sfRsqrt => some (trigSlot 11 0x04)
  | .sfSqrt => some (trigSlot 11 0x05)
  | .sfTanh => some (trigSlot 11 0x06)
  | .sfSigm => some (trigSlot 11 0x07)
  | .sfSin => some (trigSlot 11 0x08)
  | .sfCos => some (trigSlot 11 0x09)
  | .mxMm => some (trigSlot 14 0x00)
  | .mxMma => some (trigSlot 14 0x01)
  | .mxMmt => some (trigSlot 14 0x02)
  | .mxMmta => some (trigSlot 14 0x03)
  | .mxMmb => some (trigSlot 14 0x04)
  | .mxMmba => some (trigSlot 14 0x05)
  | .mxMmg => some (trigSlot 14 0x06)
  | .mxMmga => some (trigSlot 14 0x07)
  | .mxMmgb => some (trigSlot 14 0x08)
  | .mxMmgba => some (trigSlot 14 0x09)
  | .mxMmgt => some (trigSlot 14 0x0A)
  | .mxMmgta => some (trigSlot 14 0x0B)
  | .mxMv => some (trigSlot 14 0x0C)
  | .mxMva => some (trigSlot 14 0x0D)
  | .mxOuter => some (trigSlot 14 0x0E)
  | .mxOutera => some (trigSlot 14 0x0F)
  | .mxCalx => some (trigSlot 14 0x40)
  | .mxRhead => some (trigSlot 14 0x41)
  | .mxRtail => some (trigSlot 14 0x42)
  | .mxClr => some (trigSlot 14 0x43)
  | .mxMread => some (trigSlot 14 0x44)
  | .mxMwrite => some (trigSlot 14 0x45)
  | .mxPgRoutine => some (trigSlot 14 0x10)
  | .epDrain => some (trigSlot 15 0x00)
  | .epDrtr => some (trigSlot 15 0x01)
  | .epDrsum => some (trigSlot 15 0x02)
  | .epDrnet => some (trigSlot 15 0x03)
  | .epDrrow => some (trigSlot 15 0x04)
  | .epDrop => some (trigSlot 15 0x05)
  | .gnKey => some (trigSlot 16 0x00)
  | .gnStream => some (trigSlot 16 0x01)
  | .gnMember => some (trigSlot 16 0x02)
  | .gnDraw => some (trigSlot 16 0x03)
  | .gnRegen => some (trigSlot 16 0x04)
  | .gnBits => some (trigSlot 16 0x05)
  | .gnNext => some (trigSlot 16 0x06)
  | .nsSends => some (trigSlot 17 0x00)
  | .nsSend => some (trigSlot 17 0x01)
  | .nsSendv => some (trigSlot 17 0x02)
  | .nsDep => some (trigSlot 17 0x03)
  | .nsDepv => some (trigSlot 17 0x04)
  | .nsFwd => some (trigSlot 17 0x05)
  | .nsTag => some (trigSlot 17 0x06)
  | .nsLclr => some (trigSlot 17 0x07)
  | .svMsg => some (trigSlot 18 0x00)
  | .svMcast => some (trigSlot 18 0x01)
  | .svQset => some (trigSlot 18 0x02)
  | .svQpop => some (trigSlot 18 0x03)
  | .svQstat => some (trigSlot 18 0x04)
  | .svWreq => some (trigSlot 18 0x05)
  | .svCnt => some (trigSlot 18 0x06)
  | .svCntw => some (trigSlot 18 0x07)
  | .svCancel => some (trigSlot 18 0x08)
  | .svFire => some (trigSlot 18 0x09)
  | .svArm => some (trigSlot 18 0x0A)
  | .svStop => some (trigSlot 18 0x0B)
  | .svDisc => some (trigSlot 18 0x0C)
  | .svDbg => some (trigSlot 18 0x0D)
  | .dmCopy => some (trigSlot 19 0x00)
  | .dmCopy2 => some (trigSlot 19 0x01)
  | .dmGath => some (trigSlot 19 0x02)
  | .dmGathl => some (trigSlot 19 0x03)
  | .dmWalk => some (trigSlot 19 0x04)
  | .dmRadd => some (trigSlot 19 0x05)
  | .dmRmin => some (trigSlot 19 0x06)
  | .dmRmax => some (trigSlot 19 0x07)
  | .dmConv => some (trigSlot 19 0x08)
  | .dmOvl => some (trigSlot 19 0x09)
  | .dmUcopy => some (trigSlot 19 0x10)
  | .dmBset => some (trigSlot 19 0x11)
  | .dmBarr => some (trigSlot 19 0x12)
  | .dmBchk => some (trigSlot 19 0x13)
  | .dmPoolget => some (trigSlot 19 0x14)
  | .dmPoolrel => some (trigSlot 19 0x15)
  | .syEret => some (trigSlot 21 0x00)
  | .syRngw => some (trigSlot 21 0x01)
  | .syRngr => some (trigSlot 21 0x02)
  | .syRngi => some (trigSlot 21 0x03)
  | .syAccx => some (trigSlot 21 0x04)
  | .syAccr => some (trigSlot 21 0x05)
  | .syArcw => some (trigSlot 21 0x06)
  | .syThr => some (trigSlot 21 0x07)
  | .syCfgr => some (trigSlot 21 0x08)
  | .syCfgw => some (trigSlot 21 0x09)
  | .syHgrp => some (trigSlot 21 0x0A)
  | .syXtrig => some (trigSlot 21 0x0B)
  | .syWdog => some (trigSlot 21 0x0C)
  | .syFusr => some (trigSlot 21 0x0D)
  | .shRd => some (trigSlot 23 0x00)
  | .shWr => some (trigSlot 23 0x01)
  | .shInj => some (trigSlot 23 0x02)
  | .shClr => some (trigSlot 23 0x03)
  | _ => none

/-! ### Encodings of instructions -/

/-- The two encodings of the machine: a portable word and a move slot. -/
inductive Code where
  | word (w : BitVec 32)
  | move (x : BitVec 40)
  deriving DecidableEq, Repr

/-- The words of an instruction: its portable word, or its move slot; none for an event. -/
def encode (i : Instr) : Option Code :=
  match encodePortable i with
  | some w => some (.word w)
  | none => (encodeTrigger i).map fun s => .move (encodeSlot s)

/-- The instruction of an encoding; none where the manual assigns none. -/
def decode : Code → Option Instr
  | .word w => decodePortable w
  | .move x => if sourceLegal (decodeSlot x).src then (decodeSlot x).trigger else none

/-- The first four bytes of a portable word at its lowest address first (spec/18 R334). -/
def portableBytes (w : BitVec 32) : List Byte :=
  [w.extractLsb' 0 8, w.extractLsb' 8 8, w.extractLsb' 16 8, w.extractLsb' 24 8]

/-- Decode a portable instruction from its bytes, with the rest of the list. -/
def decodeBytes : List Byte → Option (Instr × List Byte)
  | b0 :: b1 :: b2 :: b3 :: rest => (decodePortable (b3 ++ (b2 ++ (b1 ++ b0)))).map fun i => (i, rest)
  | _ => none

/-- The decoder on a row of the table: a 32-bit portable word laid out as stored, or a 40-bit slot. -/
def decodeTableWord (nbits w : Nat) : Option Instr :=
  if nbits = 32 then (decodeBytes (portableBytes (BitVec.ofNat 32 w))).map (·.1)
  else if nbits = 40 then decode (.move (BitVec.ofNat 40 w))
  else none

/-! ### Bundles -/

/-- A bundle as fetched: header fields and slots (spec/02 R29). -/
structure Bundle where
  header : BitVec 64
  slots : List (BitVec 40)
  deriving DecidableEq, Repr

/-- The bundle of 128 bytes, bit 0 first (spec/02 R29). -/
def Bundle.ofBits (x : BitVec 1024) : Bundle where
  header := x.extractLsb' 0 64
  slots := (List.range 24).map fun k => x.extractLsb' (64 + 40 * k) 40

/-- The 1024 bits of 128 bytes in address order. -/
def bitsOfBytes (bs : List Byte) : BitVec 1024 :=
  bs.reverse.foldl (fun acc b => (acc <<< 8) ||| b.setWidth 1024) 0

def Bundle.kind (b : Bundle) : Nat := (b.header.extractLsb' 0 4).toNat
def Bundle.hold (b : Bundle) : Bool := b.header.getLsbD 4
def Bundle.lim (b : Bundle) : BitVec 32 := b.header.extractLsb' 16 32
/-- The idle count of a kind-1 bundle (spec/02 R30). -/
def Bundle.idleCount (b : Bundle) : Nat := (b.header.extractLsb' 16 16).toNat

/-- The 128 bytes of a bundle in address order (spec/02 R29). -/
def Bundle.bytes (b : Bundle) : List Byte :=
  let x : BitVec 1024 := (List.range 24).foldl
    (fun acc k => acc ||| ((b.slots.getD k 0).setWidth 1024 <<< (64 + 40 * k))) (b.header.setWidth 1024)
  (List.range 128).map fun i => x.extractLsb' (8 * i) 8

end Sys2Proof
end

