-- ==== Sys2Proof/Config.lean ====
section
/-!
DEFINITION. What is fixed for the machine, and the free values: constants without a body for what the manual leaves open, so
that a statement holds whatever they are.
-/
namespace Sys2Proof.Config

/-! ### The model's own address map of the module's memories (design choice, notes/assumptions/2.md) -/

/-- Bytes of HBM: physical addresses of 41 bits (spec/10 R202). -/
def hbmSize : Nat := 2 ^ 41

/-- First address of tile SRAM: site σ holds 1 MiB at sramBase + σ × 2^20 (spec/10 R197). -/
def sramBase : Nat := 2 ^ 41

/-- First address of the instruction stores: site σ holds 128 KiB (spec/01 R14). -/
def istoreBase : Nat := 2 ^ 42

/-- The 1 MiB staging store of reduced service (spec/22 R400). -/
def stagingBase : Nat := 2 ^ 43

/-- Where a portable code image stands for the portable machine. -/
def portableBase : Nat := 2 ^ 44

/-! ### Free values -/

/-- The numbered free values: what the manual leaves open where the machine goes on (notes/assumptions/1.md). -/
opaque freeNat : Nat → Nat

/-- A free 64-bit value. -/
opaque freeWord : Nat → Word

/-- A byte of the part of a stack's status window that holds the engine slots, of what it reports: the stated end cycle of each slot that
is busy (spec/17 R326 gives the contents, not their layout; notes/assumptions/88.md). -/
opaque slotWindow : List (Option Nat) → Nat → Byte

/-- A byte of the part that holds the ECC counts, of the corrected and uncorrected counts of the 64 pseudo-channels. -/
opaque errorWindow : List Nat → List Nat → Nat → Byte

/-- Input bytes 4 to 7 of an arcw that writes a checkpoint entry (spec/22 R391; notes/assumptions/89.md). -/
opaque checkpointMark : Nat → Bool

/-- The rounded value of a special function whose interval the model's refinement does not settle: selector and operand
(notes/assumptions/5.md). -/
opaque sfValue : Nat → Lane → Lane

/-- The public key, root and seed, whose digest is fused (spec/17 R325, R328): the manual does not say where the MMC holds it. -/
opaque authorityKey : List Word → List Byte

/-- The three secrets of the device identity: of its one-time keys, of its message hashes, and its public seed (spec/17 R328). -/
opaque identitySecret : Nat → Nat

/-- An image of the MMC's firmware store, as the part was made, with its signature; and one that the words of the firmware update window
hold, if they hold it: the manual gives no format (notes/assumptions/90.md). -/
opaque factoryImage : Nat → List Byte × List Byte
opaque updateImage : List (Nat × Word) → Nat → Option (List Byte × List Byte)

/-- A catwalk message between two dies crosses a third: the manual does not give the routes (spec/22 R394). -/
opaque catwalkCrosses : Nat → Nat → Nat → Bool

/-- The device's X.509 chain (spec/17 R328). -/
opaque certificateChain : List Byte

/-- What the manual leaves to DSP0274 in the SPDM responses (spec/17 R331): the timeout exponent and the two sizes of CAPABILITIES, and the
code of the extended algorithm in ALGORITHMS. -/
opaque spdmTimeout : Byte
opaque spdmSizes : Word
opaque spdmExtended : BitVec 32

/-- The second-stage boot image, byte by byte (spec/23 R402). -/
opaque secondStage : Nat → Byte

end Sys2Proof.Config
end

