-- ==== Sys2Proof/Machine/Num.lean ====
section
/-!
DEFINITION. The number formats, rounding and conversions of spec/05 (R104 to R124): every value exact until the one
rounding the manual names. A value read from a format is a NaN, an infinity or an exact dyadic number.
-/
namespace Sys2Proof.Machine

/-! ### The sticky flags (spec/04 R96) -/

def flagNx : Flags := 0b000001#6
def flagUf : Flags := 0b000010#6
def flagOf : Flags := 0b000100#6
def flagDz : Flags := 0b001000#6
def flagNv : Flags := 0b010000#6
def flagQc : Flags := 0b100000#6

/-! ### Formats (spec/02 R42, spec/05 R104, R107) -/

/-- The assigned format codes of R42. -/
inductive Fmt where
  | f32 | f16 | bf16 | f19 | c8 | l8
  | i8 | i16 | i32 | i64 | n8 | n16 | n32 | n64
  deriving DecidableEq, Repr

/-- The format a 5-bit code names; none for the reserved codes (R42). -/
def Fmt.ofCode : Nat → Option Fmt
  | 0x00 => some .f32 | 0x01 => some .f16 | 0x02 => some .bf16 | 0x03 => some .f19
  | 0x04 => some .c8 | 0x05 => some .l8
  | 0x08 => some .i8 | 0x09 => some .i16 | 0x0A => some .i32 | 0x0B => some .i64
  | 0x0C => some .n8 | 0x0D => some .n16 | 0x0E => some .n32 | 0x0F => some .n64
  | _ => none

/-- The 5-bit code of a format (R42). -/
def Fmt.code : Fmt → Nat
  | .f32 => 0x00 | .f16 => 0x01 | .bf16 => 0x02 | .f19 => 0x03 | .c8 => 0x04 | .l8 => 0x05
  | .i8 => 0x08 | .i16 => 0x09 | .i32 => 0x0A | .i64 => 0x0B
  | .n8 => 0x0C | .n16 => 0x0D | .n32 => 0x0E | .n64 => 0x0F

/-- Width of one stored element in bits (R104, R107, R108; an f19 stands in a 32-bit word, R105). -/
def Fmt.width : Fmt → Nat
  | .f32 | .f19 | .i32 | .n32 => 32
  | .f16 | .bf16 | .i16 | .n16 => 16
  | .c8 | .l8 | .i8 | .n8 => 8
  | .i64 | .n64 => 64

/-- Parts of a vector in this format: 64 elements each (spec/06 R126). -/
def Fmt.parts (f : Fmt) : Nat := 32 / f.width

/-- A signed integer format (R107). -/
def Fmt.isSigned : Fmt → Bool
  | .i8 | .i16 | .i32 | .i64 => true
  | _ => false

/-- An integer format (R107). -/
def Fmt.isInt : Fmt → Bool
  | .i8 | .i16 | .i32 | .i64 | .n8 | .n16 | .n32 | .n64 => true
  | _ => false

/-- A format word of fmt or ofmt (R42), its fields still raw. -/
structure FmtWord where
  f1 : Nat
  f2 : Nat
  g : Nat
  table : Nat
  reserved : Nat
  deriving DecidableEq, Repr

def FmtWord.ofWord (w : Word) : FmtWord :=
  { f1 := w.toNat % 32, f2 := w.toNat / 32 % 32, g := w.toNat / 1024 % 32,
    table := w.toNat / 2 ^ 15 % 4, reserved := w.toNat / 2 ^ 17 }

/-- Exponent width, mantissa width and bias of a floating-point layout (R104). -/
structure FloatFmt where
  ebits : Nat
  mbits : Nat
  bias : Nat
  deriving DecidableEq, Repr

def F32 : FloatFmt := { ebits := 8, mbits := 23, bias := 127 }
def F16 : FloatFmt := { ebits := 5, mbits := 10, bias := 15 }
def BF16 : FloatFmt := { ebits := 8, mbits := 7, bias := 127 }
/-- f19 as its 19 significant bits [31:13]; the word is these bits shifted left by 13 (R105). -/
def F19 : FloatFmt := { ebits := 8, mbits := 10, bias := 127 }

def FloatFmt.expMask (f : FloatFmt) : Nat := 2 ^ f.ebits - 1
/-- The bit pattern of +∞ (R104). -/
def FloatFmt.inf (f : FloatFmt) : Nat := f.expMask * 2 ^ f.mbits
/-- The canonical NaN (R104, R106). -/
def FloatFmt.nan (f : FloatFmt) : Nat := f.inf + 2 ^ (f.mbits - 1)
def FloatFmt.signBit (f : FloatFmt) : Nat := 2 ^ (f.ebits + f.mbits)

/-! ### Exact values -/

/-- An exact number (−1)^neg × m × 2^e; m = 0 is a zero that keeps its sign. -/
structure Dy where
  neg : Bool
  m : Nat
  e : Int
  deriving DecidableEq, Repr

/-- What a unit reads from a format: a NaN, an infinity, or an exact value (R104, R106). -/
inductive Val where
  | nan
  | inf (neg : Bool)
  | fin (d : Dy)
  deriving DecidableEq, Repr

def Dy.zero (neg : Bool) : Dy := ⟨neg, 0, 0⟩
def Dy.negate (d : Dy) : Dy := { d with neg := !d.neg }
def Dy.isZero (d : Dy) : Bool := d.m == 0

/-- The signed numerator over the scale 2^e0, for e0 ≤ e. -/
def Dy.scaled (d : Dy) (e0 : Int) : Int :=
  let v : Int := (d.m * 2 ^ (d.e - e0).toNat : Nat)
  if d.neg then -v else v

/-- Exact product. -/
def Dy.mul (a b : Dy) : Dy := ⟨a.neg != b.neg, a.m * b.m, a.e + b.e⟩

/-- Exact sum; a zero sum is −0 only when both addends are −0 (spec/06 R134). -/
def Dy.add (a b : Dy) : Dy :=
  if a.m = 0 ∧ b.m = 0 then Dy.zero (a.neg && b.neg)
  else if a.m = 0 then b
  else if b.m = 0 then a
  else
    let e0 := min a.e b.e
    let v := a.scaled e0 + b.scaled e0
    if v = 0 then Dy.zero false else ⟨decide (v < 0), v.natAbs, e0⟩

/-- Exact order of two numbers (zeros equal). -/
def Dy.lt (a b : Dy) : Bool :=
  let e0 := min a.e b.e
  decide (a.scaled e0 < b.scaled e0)

def Dy.le (a b : Dy) : Bool :=
  let e0 := min a.e b.e
  decide (a.scaled e0 ≤ b.scaled e0)

def Dy.eq (a b : Dy) : Bool :=
  let e0 := min a.e b.e
  decide (a.scaled e0 = b.scaled e0)

/-- Exact order with infinities; false when either is a NaN (R113). -/
def Val.lt : Val → Val → Bool
  | .nan, _ => false
  | _, .nan => false
  | .inf a, .inf b => a && !b
  | .inf a, .fin _ => a
  | .fin _, .inf b => !b
  | .fin a, .fin b => a.lt b

def Val.le : Val → Val → Bool
  | .nan, _ => false
  | _, .nan => false
  | .inf a, .inf b => a || !b
  | .inf a, .fin _ => a
  | .fin _, .inf b => !b
  | .fin a, .fin b => a.le b

def Val.eq : Val → Val → Bool
  | .nan, _ => false
  | _, .nan => false
  | .inf a, .inf b => a == b
  | .inf _, .fin _ => false
  | .fin _, .inf _ => false
  | .fin a, .fin b => a.eq b

def Val.isNan : Val → Bool
  | .nan => true
  | _ => false

def Val.isZero : Val → Bool
  | .fin d => d.isZero
  | _ => false

def Val.isNeg : Val → Bool
  | .nan => false
  | .inf n => n
  | .fin d => d.neg

def Val.abs : Val → Val
  | .nan => .nan
  | .inf _ => .inf false
  | .fin d => .fin { d with neg := false }

def Val.negate : Val → Val
  | .nan => .nan
  | .inf n => .inf (!n)
  | .fin d => .fin d.negate

/-- The difference a − b of R113: none when it has no order (a NaN, or equal infinities). -/
def Val.sub : Val → Val → Option Val
  | .nan, _ => none
  | _, .nan => none
  | .inf a, .inf b => if a = b then none else some (.inf a)
  | .inf a, .fin _ => some (.inf a)
  | .fin _, .inf b => some (.inf (!b))
  | .fin a, .fin b => some (.fin (a.add b.negate))

/-- Read a bit pattern in a floating-point layout (R104). -/
def FloatFmt.read (f : FloatFmt) (bits : Nat) : Val :=
  let neg := bits / f.signBit % 2 == 1
  let ex := bits / 2 ^ f.mbits % 2 ^ f.ebits
  let mant := bits % 2 ^ f.mbits
  if ex = f.expMask then (if mant = 0 then .inf neg else .nan)
  else if ex = 0 then .fin ⟨neg, mant, 1 - (f.bias : Int) - f.mbits⟩
  else .fin ⟨neg, 2 ^ f.mbits + mant, (ex : Int) - f.bias - f.mbits⟩

/-- Read an f32 word. -/
def readF32 (w : Lane) : Val := F32.read w.toNat

/-- Read an f19 word: bits [31:13] only (R105). -/
def readF19 (w : Lane) : Val := F19.read (w.toNat / 2 ^ 13)

/-! ### Rounding (R114 to R117) -/

/-- The rounding modes of R114. -/
inductive RMode where
  | rne | rtz | rup | rdn | stoch
  deriving DecidableEq, Repr

def RMode.ofCode : Nat → Option RMode
  | 0 => some .rne | 1 => some .rtz | 2 => some .rup | 3 => some .rdn | 4 => some .stoch
  | _ => none

/-- Round the magnitude r/d (a remainder over its divisor above the quotient `lo`) up to lo + 1? (R115) -/
def roundUp (mode : RMode) (neg : Bool) (lo r d draw : Nat) : Bool :=
  if r = 0 then false
  else match mode with
    | .rne => if 2 * r < d then false else if d < 2 * r then true else lo % 2 = 1
    | .rtz => false
    | .rup => !neg
    | .rdn => neg
    | .stoch => draw < r * 2 ^ 24 / d

/-- The result of a rounding: its bit pattern in the target layout, and the flags it sets. -/
structure Rounded where
  bits : Nat
  flags : Flags
  deriving DecidableEq, Repr

def Rounded.lane (r : Rounded) : Lane := BitVec.ofNat 32 r.bits

/-- floor(log2(n/d)) for positive n and d. -/
def floorLog2 (n d : Nat) : Int :=
  let l : Int := (Nat.log2 n : Int) - Nat.log2 d
  let fits : Bool := if 0 ≤ l then d * 2 ^ l.toNat ≤ n else d ≤ n * 2 ^ (-l).toNat
  if fits then l else l - 1

/-- The overflow results of R116. -/
def overflowBits (f : FloatFmt) (neg : Bool) (mode : RMode) : Nat :=
  let mag := match mode with
    | .rne | .stoch => f.inf
    | .rtz => f.inf - 1
    | .rup => if neg then f.inf - 1 else f.inf
    | .rdn => if neg then f.inf else f.inf - 1
  if neg then f.signBit + mag else mag

/-- Round the exact value (−1)^neg × (n/d) × 2^e to the layout f (R115, R116). n = 0 keeps the sign of the zero. -/
def roundRat (f : FloatFmt) (mode : RMode) (draw : Nat) (neg : Bool) (n d : Nat) (e : Int) : Rounded :=
  if n = 0 then ⟨if neg then f.signBit else 0, 0⟩
  else
    let emin : Int := 1 - (f.bias : Int)
    let k := max (floorLog2 n d + e) emin
    let sh := e - (k - f.mbits)
    let n' := n * 2 ^ sh.toNat
    let d' := d * 2 ^ (-sh).toNat
    let lo := n' / d'
    let r := n' % d'
    let m := if roundUp mode neg lo r d' draw then lo + 1 else lo
    let bits := if m < 2 ^ f.mbits then m else (k - emin + 1).toNat * 2 ^ f.mbits + (m - 2 ^ f.mbits)
    let nx : Flags := if r = 0 then 0 else flagNx
    if f.inf ≤ bits then ⟨overflowBits f neg mode, nx ||| flagOf ||| flagNx⟩
    else
      let uf : Flags := if r ≠ 0 ∧ bits < 2 ^ f.mbits then flagUf else 0
      ⟨if neg then f.signBit + bits else bits, nx ||| uf⟩

/-- Round an exact number. -/
def roundDy (f : FloatFmt) (mode : RMode) (draw : Nat) (x : Dy) : Rounded :=
  roundRat f mode draw x.neg x.m 1 x.e

/-- Round a value: NaN to the canonical NaN and infinities to themselves, without a flag (R106, R119). -/
def roundVal (f : FloatFmt) (mode : RMode) (draw : Nat) : Val → Rounded
  | .nan => ⟨f.nan, 0⟩
  | .inf neg => ⟨if neg then f.signBit + f.inf else f.inf, 0⟩
  | .fin d => roundDy f mode draw d

/-- round_rne32 (R115). -/
def rne32 (v : Val) : Rounded := roundVal F32 .rne 0 v

/-- round_rne19 (R115), as the 32-bit word of R105. -/
def rne19 (v : Val) : Rounded :=
  let r := roundVal F19 .rne 0 v
  ⟨r.bits * 2 ^ 13, r.flags⟩

/-! ### Code tables (R109, R110) -/

/-- One code table: 256 words, each an f19 value (R109). -/
abbrev CodeTable := Vector Lane 256

/-- Entry i of sets A and B: a small float of eb exponent bits above mb mantissa bits, bias b (R110). -/
def setEntry (mb b i : Nat) : Val :=
  let e := i / 2 ^ mb
  let m := i % 2 ^ mb
  if e = 0 then .fin ⟨false, m, 1 - (b : Int) - mb⟩
  else .fin ⟨false, 2 ^ mb + m, (e : Int) - b - mb⟩

/-- The magnitude of entry i (0–127) of tables 0–2 at reset (R110). -/
def resetMagnitude (t i : Nat) : Val :=
  if t = 0 then setEntry 3 7 i
  else if t = 1 then setEntry 2 15 i
  else .fin ⟨false, i, 0⟩

/-- The reset contents of code table t (R110). -/
def resetCodeTable (t : Nat) : CodeTable :=
  if t = 3 then Vector.replicate 256 0
  else Vector.ofFn fun (k : Fin 256) =>
    let w := (rne19 (resetMagnitude t (k.val % 128))).lane
    if k.val < 128 then w else w ||| 0x80000000#32

/-- Decode a c8 code (R109): the stored entry; a NaN entry reads as the canonical NaN. -/
def decodeC8 (tab : CodeTable) (k : Nat) : Lane :=
  let w := tab.getD (k % 256) 0
  if (readF19 w).isNan then 0x7FC00000#32 else w

/-! ### Encoding into a code table (R113, R124) -/

/-- Binary search of R113: the largest lo with e(lo) ≤ a reached by halving; `fuel` 7 covers 128 entries. -/
def encodeSearch (le : Nat → Bool) : Nat → Nat → Nat → Nat
  | 0, lo, _ => lo
  | fuel + 1, lo, hi =>
    if hi - lo ≤ 1 then lo
    else
      let mid := (lo + hi) / 2
      if le mid then encodeSearch le fuel mid hi else encodeSearch le fuel lo mid

/-- Multiply an entry by the exact scale. -/
def scaleVal (s : Dy) : Val → Val
  | .nan => .nan
  | .inf n => .inf n
  | .fin d => .fin (d.mul s)

/-- encode(x / s, t) of R113 and R124: x is compared with s × entry exactly. The scale s is positive. -/
def encodeVal (tab : CodeTable) (s : Dy) (x : Val) : Nat × Flags :=
  if x.isNan then (0, flagNv)
  else if x.isZero then (0, 0)
  else
    let a := x.abs
    let ent (i : Nat) : Val := scaleVal s (readF19 (tab.getD i 0))
    let sgn := if x.isNeg then 128 else 0
    let pick : Nat × Flags :=
      if !((ent 0).le a) then (0, 0)
      else
        let lo := encodeSearch (fun i => (ent i).le a) 7 0 128
        if lo = 127 then (127, if a.le (ent 127) then 0 else flagOf)
        else
          match a.sub (ent lo), (ent (lo + 1)).sub a with
          | some dl, some dh =>
            if dl.lt dh then (lo, 0)
            else if dh.lt dl then (lo + 1, 0)
            else if lo % 2 = 0 then (lo, 0) else (lo + 1, 0)
          | _, _ => if lo % 2 = 0 then (lo, 0) else (lo + 1, 0)
    let nx : Flags := if (ent pick.1).eq a then 0 else flagNx
    (sgn + pick.1, pick.2 ||| nx)

/-! ### Conversions (R118, R119) -/

/-- The element read in a format as an exact value: integers exactly, l8 as k/16, c8 through the table (R118). -/
def readElem (f : Fmt) (tab : CodeTable) (bits : Nat) : Val :=
  match f with
  | .f32 => F32.read bits
  | .f16 => F16.read bits
  | .bf16 => BF16.read bits
  | .f19 => F19.read (bits / 2 ^ 13)
  | .c8 => readF19 (decodeC8 tab bits)
  | .l8 =>
    if bits % 256 = 0x80 then .inf true
    else
      let k : Int := (BitVec.ofNat 8 bits).toInt
      .fin ⟨decide (k < 0), k.natAbs, -4⟩
  | _ =>
    let w := f.width
    let n := bits % 2 ^ w
    if f.isSigned ∧ 2 ^ (w - 1) ≤ n then .fin ⟨true, 2 ^ w - n, 0⟩ else .fin ⟨false, n, 0⟩

/-- Round an exact number to an integer under a mode (R118): the integer and whether it is inexact. -/
def roundInt (mode : RMode) (draw : Nat) (x : Dy) : Int × Bool :=
  let n := x.m * 2 ^ x.e.toNat
  let d := 2 ^ (-x.e).toNat
  let lo := n / d
  let r := n % d
  let m := if roundUp mode x.neg lo r d draw then lo + 1 else lo
  ((if x.neg then -(m : Int) else m), r ≠ 0)

/-- Least and greatest value of an integer format (R107). -/
def Fmt.least (f : Fmt) : Int := if f.isSigned then -(2 ^ (f.width - 1) : Nat) else 0
def Fmt.greatest (f : Fmt) : Int := if f.isSigned then (2 ^ (f.width - 1) : Nat) - 1 else (2 ^ f.width : Nat) - 1

/-- The low w bits of an integer. -/
def lowBits (w : Nat) (k : Int) : Nat := (k % (2 ^ w : Nat)).toNat

/-- A float to an integer format (R119). -/
def toIntFmt (g : Fmt) (mode : RMode) (draw : Nat) : Val → Nat × Flags
  | .nan => (0, flagNv)
  | .inf neg => (lowBits g.width (if neg then g.least else g.greatest), flagNv)
  | .fin d =>
    let (k, inexact) := roundInt mode draw d
    if k < g.least then (lowBits g.width g.least, flagNv)
    else if g.greatest < k then (lowBits g.width g.greatest, flagNv)
    else (lowBits g.width k, if inexact then flagNx else 0)

/-- A float or an integer to l8 (R118, R119): 16 times the value rounded, saturated to −127 to 127. -/
def toL8 (mode : RMode) (draw : Nat) : Val → Nat × Flags
  | .nan => (0, flagNv)
  | .inf neg => if neg then (0x80, 0) else (0x7F, flagNv)
  | .fin d =>
    let (k, inexact) := roundInt mode draw { d with e := d.e + 4 }
    if k < -127 then (0x81, flagNv)
    else if 127 < k then (0x7F, flagNv)
    else (lowBits 8 k, if inexact then flagNx else 0)

/-- An integer to an integer format (R119): widening extends, narrowing saturates or wraps; no flag. -/
def intToInt (f g : Fmt) (sat : Bool) (bits : Nat) : Nat :=
  match readElem f (Vector.replicate 256 0) bits with
  | .fin d =>
    let k : Int := if d.neg then -(d.m : Int) else d.m
    if f.width < g.width then lowBits g.width k
    else if sat ∧ k < g.least then lowBits g.width g.least
    else if sat ∧ g.greatest < k then lowBits g.width g.greatest
    else lowBits g.width k
  | _ => 0

/-- One element from format f to format g (R118, R119): bits of the result element, and flags. An l8 value is the exact k / 16 also where
the target is l8 or c8 (notes/assumptions/21.md). -/
def convertElem (f g : Fmt) (tab : CodeTable) (mode : RMode) (sat : Bool) (draw bits : Nat) : Nat × Flags :=
  if f.isInt ∧ g.isInt then (intToInt f g sat bits, 0)
  else
    let v := readElem f tab bits
    match g with
    | .f32 => let r := roundVal F32 mode draw v; (r.bits, r.flags)
    | .f16 => let r := roundVal F16 mode draw v; (r.bits, r.flags)
    | .bf16 => let r := roundVal BF16 mode draw v; (r.bits, r.flags)
    | .f19 => let r := roundVal F19 mode draw v; (r.bits * 2 ^ 13, r.flags)
    | .c8 => encodeVal tab ⟨false, 1, 0⟩ v
    | .l8 => toL8 mode draw v
    | _ => toIntFmt g mode draw v

/-! ### Block scales (R122, R123) -/

/-- A valid scale word: a positive finite f32 (R122). -/
def scaleValid (w : Lane) : Bool := 1 ≤ w.toNat ∧ w.toNat ≤ 0x7F7FFFFF

/-- The exact value of a valid scale word. -/
def scaleDy (w : Lane) : Dy :=
  match readF32 w with
  | .fin d => d
  | _ => Dy.zero false

/-- qscale_value of R123. -/
def qscaleValue (amax qmax : Lane) : Lane × Flags :=
  if ¬ (0x00800000 ≤ qmax.toNat ∧ qmax.toNat ≤ 0x7F7FFFFF) then (0x3F800000#32, flagNv)
  else
    match readF32 amax, readF32 qmax with
    | .fin a, .fin q =>
      if a.m = 0 then (0x3F800000#32, 0)
      else
        let tiny : Bool := Dy.lt ⟨false, a.m, a.e⟩ ⟨false, q.m, q.e - 126⟩
        if tiny then (0x00800000#32, flagQc)
        else
          let r := roundRat F32 .rne 0 false a.m q.m (a.e - q.e)
          if r.bits = F32.inf then (0x7F7FFFFF#32, flagQc)
          else (r.lane, r.flags &&& flagNx)
    | _, _ => (0x7F000000#32, flagNv)

/-! ### Lane arithmetic (spec/06 R133, R134): specials first, then one rounding -/

/-- Exact sum with the specials of R134. -/
def addVal (a d : Val) : Val × Flags :=
  match a, d with
  | .nan, _ => (.nan, 0)
  | _, .nan => (.nan, 0)
  | .inf s, .inf t => if s = t then (.inf s, 0) else (.nan, flagNv)
  | .inf s, .fin _ => (.inf s, 0)
  | .fin _, .inf t => (.inf t, 0)
  | .fin x, .fin y => (.fin (x.add y), 0)

/-- Exact product with the specials of R134: 0 × ∞ is invalid. -/
def mulVal (a d : Val) : Val × Flags :=
  match a, d with
  | .nan, _ => (.nan, 0)
  | _, .nan => (.nan, 0)
  | .inf s, .inf t => (.inf (s != t), 0)
  | .inf s, .fin y => if y.m = 0 then (.nan, flagNv) else (.inf (s != y.neg), 0)
  | .fin x, .inf t => if x.m = 0 then (.nan, flagNv) else (.inf (x.neg != t), 0)
  | .fin x, .fin y => (.fin (x.mul y), 0)

/-- a × m + d with one rounding to come; the product of 0 and ∞ is invalid whatever the addend (R134). -/
def fmaVal (a m d : Val) : Val × Flags :=
  let (p, fl) := mulVal a m
  if fl ≠ 0 then (.nan, fl) else addVal p d

/-- fmin: (d < a) ? d : a, with −0 below +0 (R133, R134). -/
def minVal (a d : Val) : Val :=
  if a.isNan || d.isNan then .nan
  else if d.lt a then d
  else if a.isZero && d.isZero && d.isNeg then d
  else a

/-- fmax: (d > a) ? d : a, with +0 above −0 (R133, R134). -/
def maxVal (a d : Val) : Val :=
  if a.isNan || d.isNan then .nan
  else if a.lt d then d
  else if a.isZero && d.isZero && !d.isNeg then d
  else a

/-- round_rne32 of a sum of two f32 words, specials as fadd (R134). -/
def addF32 (a b : Lane) : Lane × Flags :=
  let (v, fl) := addVal (readF32 a) (readF32 b)
  let r := rne32 v
  (r.lane, fl ||| r.flags)

/-- round_rne32 of a product of two f32 words, specials as fmul (R134). -/
def mulF32 (a b : Lane) : Lane × Flags :=
  let (v, fl) := mulVal (readF32 a) (readF32 b)
  let r := rne32 v
  (r.lane, fl ||| r.flags)

/-- One pass of a pairwise tree: adjacent pairs added with round_rne32 (spec/06 R143, spec/07 R169). -/
def pairSum : List Lane → List Lane × Flags
  | a :: b :: rest =>
    let (s, f) := addF32 a b
    let (t, g) := pairSum rest
    (s :: t, f ||| g)
  | [a] => ([a], 0)
  | [] => ([], 0)

/-- The pairwise tree of `levels` passes (R143: six levels; R169: five). -/
def treeSum : Nat → List Lane → Lane × Flags
  | 0, l => (l.headD 0, 0)
  | n + 1, l =>
    let (t, f) := pairSum l
    let (r, g) := treeSum n t
    (r, f ||| g)

end Sys2Proof.Machine
end

