-- ==== Sys2Proof/Machine/Mixer.lean ====
section
/-!
DEFINITION. The mixer and the Gaussian draws of spec/08 (R172 to R182) and the weight perturbation of R176.
-/
namespace Sys2Proof.Machine

/-- The words of T of R172, 2^(j/16) in f19. -/
def sigmaWord (j : Nat) : Lane :=
  [0x3F800000#32, 0x3F85A000#32, 0x3F8BA000#32, 0x3F91C000#32, 0x3F984000#32, 0x3F9F0000#32, 0x3FA60000#32,
    0x3FAD6000#32, 0x3FB50000#32, 0x3FBD0000#32, 0x3FC56000#32, 0x3FCE2000#32, 0x3FD74000#32, 0x3FE0C000#32,
    0x3FEAC000#32, 0x3FF52000#32].getD j 0

/-- The deviation coded by an l8 byte (R172): 2^(k >> 4) × T[k AND 0xF], zero for 0x80. -/
def sigma (lam : Nat) : Dy :=
  if lam % 256 = 0x80 then Dy.zero false
  else
    match readF19 (sigmaWord (lam % 16)) with
    | .fin t => { t with e := t.e + ((BitVec.ofNat 8 lam).sshiftRight 4).toInt }
    | _ => Dy.zero false

/-- rc(r) of R174. -/
def mixRc (r : Nat) : BitVec 32 := BitVec.ofNat 32 (0x9E3779B9 * (r + 1))

/-- The four words of the mixer (R174). -/
structure MixState where
  x0 : BitVec 32
  x1 : BitVec 32
  x2 : BitVec 32
  x3 : BitVec 32
  deriving DecidableEq, Repr

/-- One round of R174. -/
def mixRound (k0 k1 : BitVec 32) (s : MixState) (r : Nat) : MixState :=
  let x0 := s.x0 + k0
  let x2 := s.x2 + (k1 ^^^ mixRc r)
  let x0 := x0 + s.x1
  let x3 := (s.x3 ^^^ x0).rotateLeft 16
  let x2 := x2 + x3
  let x1 := (s.x1 ^^^ x2).rotateLeft 12
  let x0 := x0 + x1
  let x3 := (x3 ^^^ x0).rotateLeft 8
  let x2 := x2 + x3
  let x1 := (x1 ^^^ x2).rotateLeft 7
  { x0 := x1, x1 := x2, x2 := x3, x3 := x0 }

/-- The mixer: a keyed permutation of 128-bit blocks (R174; notes/assumptions/22.md). -/
def mix (key : Word) (blk : BitVec 128) : BitVec 128 :=
  let k0 := key.extractLsb' 0 32
  let k1 := key.extractLsb' 32 32
  let s := (List.range 12).foldl (mixRound k0 k1)
    { x0 := blk.extractLsb' 0 32, x1 := blk.extractLsb' 32 32, x2 := blk.extractLsb' 64 32, x3 := blk.extractLsb' 96 32 }
  (s.x3 ++ s.x2 ++ (s.x1 + k0) ++ (s.x0 + k1) : BitVec 128)

/-- The indices of a draw beside its element (R173, R177). -/
structure DrawKey where
  key : Word
  stream : BitVec 24
  member : BitVec 24
  deriving DecidableEq, Repr

/-- The input block of R173: purpose, stream, member, element, 32 zeros. -/
def mixBlock (purpose : BitVec 8) (stream member : BitVec 24) (element : BitVec 40) : BitVec 128 :=
  (purpose ++ stream ++ member ++ element ++ 0#32 : BitVec 128)

/-- One mixer call (R173, R174). -/
def DrawKey.call (k : DrawKey) (purpose element : Nat) : BitVec 128 :=
  mix k.key (mixBlock (BitVec.ofNat 8 purpose) k.stream k.member (BitVec.ofNat 40 element))

/-- Output byte n (R174). -/
def mixByte (out : BitVec 128) (n : Nat) : Nat := (out.extractLsb' (8 * n) 8).toNat

/-- draw24 of R117: bytes 0–2. -/
def draw24 (out : BitVec 128) : Nat := (out.extractLsb' 0 24).toNat

/-- The Gaussian draw of R175: (b0 + … + b11 − 1530) / 256, zero as +0. -/
def epsilon (out : BitVec 128) : Dy :=
  let sum := ((List.range 12).map (mixByte out)).sum
  if sum < 1530 then ⟨true, 1530 - sum, -8⟩ else ⟨false, sum - 1530, -8⟩

/-- The draw as an f32 word (R182), exact. -/
def epsilonWord (out : BitVec 128) : Lane := (rne32 (.fin (epsilon out))).lane

/-- The perturbation term d: round_rne19(σ × ε), +0 for deviation code 0x80 (R176, R182). -/
def deviation (lam : Nat) (out : BitVec 128) : Lane :=
  if lam % 256 = 0x80 then 0 else (rne19 (.fin ((sigma lam).mul (epsilon out)))).lane

/-- The perturbed weight of R176, from the mean's f19 word. -/
def perturb (mu : Lane) (lam : Nat) (out : BitVec 128) : Lane :=
  match readF19 mu with
  | .nan => 0x7FC00000#32
  | .inf _ => mu
  | .fin m =>
    if lam % 256 = 0x80 then mu
    else
      match readF19 (deviation lam out) with
      | .fin d =>
        let s := m.add d
        if s.m = 0 then 0 else (rne19 (.fin s)).lane
      | _ => mu

end Sys2Proof.Machine
end

