-- ==== Sys2Proof/Machine/VecMath.lean ====
section
/-!
DEFINITION. What each vector operation computes from its operands (spec/06 R126 to R144): formats of R128, lane arithmetic
of R133 to R137, conversions of R138 to R140, reductions of R141 to R143, permutations of R144. No state is read here.
-/
namespace Sys2Proof.Machine

/-- The operations of VA, VB and VC (spec/02 R44, spec/06 R132). -/
inductive VecOp where
  | fadd | fsub | fmul | ffma | ffms | fmin | fmax | fabs | fneg | fceq | fclt | fcle | fcun
  | iadd | isub | imul | imulh | imin | imax | iminu | imaxu | iadds | isubs | iaddus | isubus
  | iand | ior | ixor | ishl | ishr | isra | iceq | iclt | icltu
  | sel | cvt | dec | enc | amax | qscale | rsum | perm | bcast | shuf | mrg | iota
  deriving DecidableEq, Repr

/-- Trigger class of an operation: qscale, bcast, shuf and iota take a scalar (R132). -/
def VecOp.scalarTrigger : VecOp → Bool
  | .qscale | .bcast | .shuf | .iota => true
  | _ => false

/-- The operation reads o1 (R132). -/
def VecOp.usesO1 : VecOp → Bool
  | .fabs | .fneg | .cvt | .dec | .amax | .rsum | .iota => false
  | _ => true

/-- The operation reads o2 (R132). -/
def VecOp.usesO2 : VecOp → Bool
  | .ffma | .ffms | .sel | .cvt | .dec | .enc => true
  | _ => false

/-- The operation lands q1 as well (R132). -/
def VecOp.landsQ1 : VecOp → Bool
  | .fceq | .fclt | .fcle | .fcun | .iceq | .iclt | .icltu | .amax | .rsum => true
  | _ => false

/-- The latency column L of R132. -/
def VecOp.latency : VecOp → Nat
  | .fadd | .fsub | .fmul | .fmin | .fmax | .fceq | .fclt | .fcle | .fcun => 4
  | .ffma | .ffms => 5
  | .enc | .amax | .qscale => 6
  | .rsum => 16
  | .cvt | .perm | .bcast | .shuf => 3
  | _ => 2

/-- The formats in force at a trigger: first operand, second operand, result, code table (R128). -/
structure VecFmt where
  f1 : Fmt
  f2 : Fmt
  g : Fmt
  table : Nat
  deriving DecidableEq, Repr

/-- A format that fadd and its kin accept. -/
def Fmt.isLane : Fmt → Bool
  | .f32 | .f19 => true
  | _ => false

/-- The fields used hold codes the operation accepts (R132). -/
def VecOp.accepts (op : VecOp) (w : VecFmt) : Bool :=
  match op with
  | .fadd | .fsub | .fmul | .ffma | .ffms | .fmin | .fmax => w.f1.isLane && w.f2.isLane && w.g.isLane
  | .fabs | .fneg | .rsum => w.f2.isLane && w.g.isLane
  | .fceq | .fclt | .fcle | .fcun => w.f1.isLane && w.f2.isLane
  | .dec => w.f2 == .c8 && w.g.isLane
  | .enc => w.f2.isLane && w.g == .c8
  | .amax => w.f2.isLane
  | _ => true

/-- A vector format code: i64 and n64 count as reserved in VA, VB and VC (R128). -/
def vecFmtCode (k : Nat) : Option Fmt :=
  match Fmt.ofCode k with
  | some .i64 => none
  | some .n64 => none
  | r => r

/-- The formats of a trigger from its pending word or the defaults; none is reason 0x0E (R128, R42). -/
def vecFormats (op : VecOp) (pending : Option Word) (tbl : Word) : Option VecFmt :=
  match pending with
  | none =>
    let t := tbl.toNat % 4
    some (match op with
      | .dec => ⟨.f32, .c8, .f32, t⟩
      | .enc => ⟨.f32, .f32, .c8, t⟩
      | _ => ⟨.f32, .f32, .f32, t⟩)
  | some w =>
    let q := FmtWord.ofWord w
    if q.reserved ≠ 0 then none
    else match vecFmtCode q.f1, vecFmtCode q.f2, vecFmtCode q.g with
      | some a, some b, some g =>
        let v : VecFmt := ⟨a, b, g, q.table⟩
        if op.accepts v then some v else none
      | _, _, _ => none

/-- The rounding word of R114, its fields raw. -/
structure RndWord where
  elem : Nat
  reserved : Nat
  sat : Bool
  mode : Nat
  deriving DecidableEq, Repr

def RndWord.ofWord (w : Word) : RndWord :=
  { elem := w.toNat / 2 ^ 24, reserved := w.toNat / 16 % 2 ^ 20, sat := w.getLsbD 3, mode := w.toNat % 8 }

/-- The mode a rounding word names, when it has no reserved mode or bit (R114). -/
def RndWord.check (r : RndWord) : Option RMode := if r.reserved = 0 then RMode.ofCode r.mode else none

/-- Everything a vector operation reads. `draw i` is draw24 of lane i (R117). -/
structure VecArgs where
  x : Vec
  y : Vec
  z : Vec
  zs : Word
  msk : Word
  tbl : Word
  fmt : VecFmt
  mode : RMode
  sat : Bool
  table : CodeTable

/-- What an operation lands: q0, q1 when it writes it, and its flags. -/
structure VecResult where
  q0 : Vec
  q1 : Option Word
  flags : Flags
  deriving DecidableEq, Repr

/-- Read a lane as f32 or f19 (R105, R128). -/
def readLane (f : Fmt) (w : Lane) : Val := if f = .f19 then readF19 w else readF32 w

/-- Round to the result format, to nearest even (R133). -/
def roundLane (g : Fmt) (v : Val) : Rounded := if g = .f19 then rne19 v else rne32 v

/-- The exact value of one floating-point lane (R133, R134) and its flags before rounding. -/
def floatLane (op : VecOp) (a m d : Val) : Val × Flags :=
  match op with
  | .fadd => addVal a d
  | .fsub => addVal a d.negate
  | .fmul => mulVal a d
  | .ffma => fmaVal a m d
  | .ffms => fmaVal a m d.negate
  | .fmin => (minVal a d, 0)
  | .fmax => (maxVal a d, 0)
  | .fabs => (d.abs, 0)
  | .fneg => (d.negate, 0)
  | _ => (.nan, 0)

/-- One rounded lane with its flags. -/
def floatLaneRounded (op : VecOp) (f : VecFmt) (x y z : Lane) : Lane × Flags :=
  let (v, fl) := floatLane op (readLane f.f1 x) (readLane f.f1 y) (readLane f.f2 z)
  let r := roundLane f.g v
  (r.lane, fl ||| r.flags)

/-- A compare of R135: its truth and its flag. -/
def floatCompare (op : VecOp) (a d : Val) : Bool × Flags :=
  let anyNan := a.isNan || d.isNan
  match op with
  | .fceq => (a.eq d, 0)
  | .fclt => (a.lt d, if anyNan then flagNv else 0)
  | .fcle => (a.le d, if anyNan then flagNv else 0)
  | .fcun => (anyNan, 0)
  | _ => (false, 0)

/-- Clamp an exact integer to an interval and wrap it into a lane. -/
def satLane (lo hi k : Int) : Lane := BitVec.ofInt 32 (if k < lo then lo else if hi < k then hi else k)

/-- The integer lane operations of R136 that write q0 only. -/
def intLane (op : VecOp) (x z : Lane) : Lane :=
  match op with
  | .iadd => x + z
  | .isub => x - z
  | .imul => x * z
  | .imulh => BitVec.ofInt 32 (x.toInt * z.toInt / 2 ^ 32)
  | .imin => if x.toInt ≤ z.toInt then x else z
  | .imax => if x.toInt ≤ z.toInt then z else x
  | .iminu => if x.toNat ≤ z.toNat then x else z
  | .imaxu => if x.toNat ≤ z.toNat then z else x
  | .iadds => satLane (-(2 ^ 31)) (2 ^ 31 - 1) (x.toInt + z.toInt)
  | .isubs => satLane (-(2 ^ 31)) (2 ^ 31 - 1) (x.toInt - z.toInt)
  | .iaddus => satLane 0 (2 ^ 32 - 1) (x.toNat + z.toNat : Nat)
  | .isubus => satLane 0 (2 ^ 32 - 1) ((x.toNat : Int) - z.toNat)
  | .iand => x &&& z
  | .ior => x ||| z
  | .ixor => x ^^^ z
  | .ishl => x <<< (z.toNat % 32)
  | .ishr => x >>> (z.toNat % 32)
  | .isra => x.sshiftRight (z.toNat % 32)
  | _ => 0

/-- The integer compares of R136. -/
def intCompare (op : VecOp) (x z : Lane) : Bool :=
  match op with
  | .iceq => x == z
  | .iclt => decide (x.toInt < z.toInt)
  | .icltu => decide (x.toNat < z.toNat)
  | _ => false

/-- Lane i is enabled (R130). -/
def enabled (msk : Word) (i : Nat) : Bool := msk.getLsbD i

/-- A lane-wise result from a per-lane function; disabled lanes land zero and set no flag (R130). -/
def laneWise (msk : Word) (f : Nat → Lane × Flags) : VecResult :=
  let r : Vector (Lane × Flags) 64 := Vector.ofFn fun i => if enabled msk i.val then f i.val else (0, 0)
  { q0 := r.map (·.1), q1 := none, flags := r.toList.foldl (fun a p => a ||| p.2) 0 }

/-- The word whose bit i is `b i`. -/
def maskOf (b : Nat → Bool) : Word := BitVec.ofBoolListLE ((List.range 64).map b) |>.setWidth 64

/-- A compare's result: all ones in q0 and a bit of q1 for each enabled true lane (R135, R136). -/
def compareWise (msk : Word) (f : Nat → Bool × Flags) : VecResult :=
  let r := laneWise msk fun i => (if (f i).1 then 0xFFFFFFFF#32 else 0, (f i).2)
  { r with q1 := some (maskOf fun i => enabled msk i && (f i).1) }

/-- Element j of width w packed in a vector (R126). -/
def elemBits (w : Nat) (v : Vec) (j : Nat) : Nat := (v.lane (j * w / 32)).toNat / 2 ^ (j * w % 32) % 2 ^ w

/-- The vector with element j of width w replaced (R126). -/
def setElem (w : Nat) (v : Vec) (j bits : Nat) : Vec :=
  let k := j * w / 32
  let sh := j * w % 32
  let old := (v.lane k).toNat
  let cleared := old - (old / 2 ^ sh % 2 ^ w) * 2 ^ sh
  v.setIfInBounds k (BitVec.ofNat 32 (cleared + bits % 2 ^ w * 2 ^ sh))

/-- Write the enabled elements of one result part into a copy of the merge base (R138). -/
def mergePart (g : Fmt) (hr : Nat) (msk : Word) (y : Vec) (f : Nat → Nat × Flags) : VecResult :=
  let r := (List.range 64).foldl (init := (y, (0 : Flags))) fun st i =>
    if enabled msk i then (setElem g.width st.1 (64 * hr + i) (f i).1, st.2 ||| (f i).2) else st
  { q0 := r.1, q1 := none, flags := r.2 }

/-- hs and hr of the table word, modulo the parts of the formats (R127). -/
def partOf (f : Fmt) (raw : Nat) : Nat := raw % f.parts

/-- cvt and dec (R138, R139). -/
def convertVec (a : VecArgs) (draw : Nat → Nat) : VecResult :=
  let hs := partOf a.fmt.f2 (a.tbl.toNat / 4 % 4)
  let hr := partOf a.fmt.g (a.tbl.toNat / 16 % 4)
  mergePart a.fmt.g hr a.msk a.y fun i =>
    convertElem a.fmt.f2 a.fmt.g a.table a.mode a.sat (draw i) (elemBits a.fmt.f2.width a.z (64 * hs + i))

/-- dec copies the entry as it is (R139). -/
def decodeVec (a : VecArgs) : VecResult :=
  let hs := partOf .c8 (a.tbl.toNat / 4 % 4)
  mergePart .f32 0 a.msk a.y fun i => ((decodeC8 a.table (elemBits 8 a.z (64 * hs + i))).toNat, 0)

/-- An enabled lane of x holds an invalid scale word (R140). -/
def encScaleBad (a : VecArgs) : Bool := (List.range 64).any fun i => enabled a.msk i && !scaleValid (a.x.lane i)

/-- enc (R140). -/
def encodeVec (a : VecArgs) : VecResult :=
  let hr := partOf .c8 (a.tbl.toNat / 16 % 4)
  mergePart .c8 hr a.msk a.y fun i =>
    encodeVal a.table (scaleDy (a.x.lane i)) (readLane a.fmt.f2 (a.z.lane i))

/-- The largest magnitude of one 32-lane block (R141). -/
def blockAmax (f2 : Fmt) (msk : Word) (z : Vec) (k : Nat) : Lane :=
  let vs := ((List.range 32).filter fun i => enabled msk (32 * k + i)).map fun i => readLane f2 (z.lane (32 * k + i))
  let m := vs.foldl (init := Val.fin (Dy.zero false)) fun m v =>
    if v.isNan || m.isNan then .nan else if m.lt v.abs then v.abs else m
  (rne32 m).lane

/-- amax (R141). -/
def amaxVec (a : VecArgs) : VecResult :=
  let w0 := blockAmax a.fmt.f2 a.msk a.z 0
  let w1 := blockAmax a.fmt.f2 a.msk a.z 1
  { q0 := Vec.gen fun i => if i < 32 then w0 else w1, q1 := some (w1 ++ w0 : BitVec 64), flags := 0 }

/-- rsum (R143): six levels of pairwise sums; a disabled lane enters as −0. -/
def rsumVec (a : VecArgs) : VecResult :=
  let t0 := (List.range 64).map fun i =>
    if enabled a.msk i then (if a.fmt.f2 = .f19 then a.z.lane i &&& 0xFFFFE000#32 else a.z.lane i) else 0x80000000#32
  let (s, fl) := treeSum 6 t0
  let r : Lane × Flags := if a.fmt.g = .f19 then let q := rne19 (readF32 s); (q.lane, q.flags) else (s, 0)
  { q0 := Vec.fill r.1, q1 := some (r.1.setWidth 64), flags := fl ||| r.2 }

/-- The source lane of perm, bcast and shuf (R144). -/
def permLane (op : VecOp) (a : VecArgs) (i : Nat) : Nat :=
  match op with
  | .perm => (a.z.lane i).toNat % 64
  | .bcast => a.zs.toNat % 64
  | _ =>
    let k := a.zs.toNat % 64
    if a.zs.getLsbD 6 then (i + k) % 64 else Nat.xor i k

/-- The result of a vector operation (R133 to R144). -/
def vecEval (op : VecOp) (a : VecArgs) (draw : Nat → Nat) : VecResult :=
  match op with
  | .fadd | .fsub | .fmul | .ffma | .ffms | .fmin | .fmax | .fabs | .fneg =>
    laneWise a.msk fun i => floatLaneRounded op a.fmt (a.x.lane i) (a.y.lane i) (a.z.lane i)
  | .fceq | .fclt | .fcle | .fcun =>
    compareWise a.msk fun i => floatCompare op (readLane a.fmt.f1 (a.x.lane i)) (readLane a.fmt.f2 (a.z.lane i))
  | .iceq | .iclt | .icltu => compareWise a.msk fun i => (intCompare op (a.x.lane i) (a.z.lane i), 0)
  | .sel => laneWise a.msk fun i => (if a.y.lane i ≠ 0 then a.x.lane i else a.z.lane i, 0)
  | .mrg => { q0 := Vec.gen fun i => if enabled a.msk i then a.z.lane i else a.x.lane i, q1 := none, flags := 0 }
  | .cvt => convertVec a draw
  | .dec => decodeVec a
  | .enc => encodeVec a
  | .amax => amaxVec a
  | .qscale => laneWise a.msk fun i => qscaleValue (a.x.lane i) (a.zs.setWidth 32)
  | .rsum => rsumVec a
  | .perm | .bcast | .shuf => laneWise a.msk fun i => (a.x.lane (permLane op a i), 0)
  | .iota => laneWise a.msk fun i => (a.zs.setWidth 32 + BitVec.ofNat 32 i, 0)
  | .iadd | .isub | .imul | .imulh | .imin | .imax | .iminu | .imaxu | .iadds | .isubs | .iaddus | .isubus
  | .iand | .ior | .ixor | .ishl | .ishr | .isra => laneWise a.msk fun i => (intLane op (a.x.lane i) (a.z.lane i), 0)

end Sys2Proof.Machine
end

