-- ==== Sys2Proof/Machine/State.lean ====
section
/-!
DEFINITION. The state of the module as plain data: every register, queue, table and item in flight that the manual names,
and the bookkeeping a one-step-at-a-time model needs (which step comes next). Cycles, indices and counts are numbers;
register contents are bit vectors of the manual's widths. A `site` is a physical tile position, die × 1056 + row × 33 + column
(spec/01 R7); a `slot` is a domain slot 0–15 (spec/15 R278), and 16 + d is die d in boot state (spec/23 R403).
-/
namespace Sys2Proof.Machine

/-! ### Reasons a step can stop -/

/-- The machine stops for want of a next state. Raised by no meaning: every fault the manual describes is TAKEN (spec/20 R361). -/
inductive Fault where
  /-- Raised by nobody; it keeps the type inhabited. Safe. -/
  | stuck
  deriving DecidableEq, Repr

/-- A step for which the model gives no meaning. -/
inductive Refusal where
  /-- Raised by the dispatch alone, for a constructor without a meaning. Safe. -/
  | notModelled (mnemonic : String)
  /-- Raised by `step` when the portable machine is at a word that no rule assigns: the loader rejects such a word, so no
  code that runs holds it (spec/18 R342). Safe. -/
  | unassignedPortableWord (word : BitVec 32)
  deriving DecidableEq, Repr

/-! ### Accesses that releases wait for (spec/12 R253 to R256) -/

/-- An access that has been issued, as a release knows it: its identifier, the site that issued it, whether an engine makes it, and
the places of its locations: a site for SRAM, 8448 + k for stack k, 8480 for the barrier pool. With no place it stands for a loose
reply that an acquire fence waits for. -/
structure Outstanding where
  id : Nat
  issuer : Nat
  engine : Bool
  places : List Nat
  deriving DecidableEq, Repr

/-- A release whose signal has performed: the releasing site, its scope, and the accesses of its release set that lie outside that
scope, which whoever acquires from it takes over (R254, R256). -/
structure Release where
  site : Nat
  scope : Nat
  rest : List Outstanding
  deriving DecidableEq, Repr

/-! ### Results in a pipeline, waiting triggers, the control part of a socket -/

/-- What lands in a result port: a scalar or a vector (spec/02 R37). -/
inductive Res where
  | s (w : Word)
  | v (x : Vec)
  deriving DecidableEq, Repr

/-- A vector operation that reads a code table in the cycle after its firing (spec/05 R112): that cycle, and what it has read besides. -/
structure TableRead where
  due : Nat
  op : VecOp
  o1 : Vec
  o2 : Vec
  data : Res
  msk : Word
  tbl : Word
  fmt : Option Word
  rnd : Word
  draw : DrawKey
  deriving DecidableEq, Repr

/-- A result in a socket's pipeline: its landing cycle, what lands in q0 and q1, its flags (spec/06 R129, spec/21 R376), whether its
trigger fired in data-locked mode (spec/15 R301), and the table read that is still to settle it. -/
structure InFlight where
  due : Nat
  q0 : Option Res
  q1 : Option Word
  flags : Flags
  locked : Bool
  late : Option TableRead
  deriving DecidableEq, Repr

/-- Where a trigger was issued: what a fault record names (spec/20 R363). -/
structure Origin where
  bundle : Nat
  slot : Nat
  cycle : Nat
  bay : Nat
  offset : Nat
  slotValue : BitVec 40
  sup : Bool
  deriving DecidableEq, Repr

/-- A trigger that waits in a data-locked socket: selector, data and origin (spec/04 R70). -/
structure Waiting where
  sel : Nat
  data : Res
  from_ : Origin
  deriving DecidableEq, Repr

/-- The control part of a function socket (spec/02 R50, spec/04 R69, R70): operand-written marks, the full mark of q0, the
waiting trigger, the first cycle at which the interval of the previous firing allows another, and the pipeline. -/
structure Pipe where
  o1w : Bool
  o2w : Bool
  full : Bool
  waiting : Option Waiting
  readyAt : Nat
  flight : List InFlight
  /-- Entries that the supervisor has made invalid in the shadow (spec/21 R377), by their number. -/
  invalid : List Nat
  deriving DecidableEq, Repr

def Pipe.empty : Pipe := ⟨false, false, false, none, 0, [], []⟩

/-- IA or IB (spec/04 R72, R73): the division interval stands apart. -/
structure IntState where
  o1 : Word
  o2 : Word
  q0 : Word
  divReadyAt : Nat
  pipe : Pipe
  deriving DecidableEq, Repr

def IntState.reset : IntState := ⟨0, 0, 0, 0, .empty⟩

/-- AG (spec/04 R75 to R80). -/
structure AgState where
  o1 : Word
  q0 : Word
  base : Vector Word 4
  step : Vector Word 4
  bnd : Vector Word 4
  pipe : Pipe
  deriving DecidableEq, Repr

def AgState.reset : AgState := ⟨0, 0, .replicate 4 0, .replicate 4 0, .replicate 4 0, .empty⟩

/-- VA, VB or VC (spec/06 R125). -/
structure VecState where
  o1 : Vec
  o2 : Vec
  q0 : Vec
  q1 : Word
  /-- A format word that waits for the next trigger, and the word that the port holds (spec/06 R125, spec/21 R376). -/
  fmt : Option Word
  fmtWord : Word
  rnd : Word
  msk : Word
  tbl : Word
  pipe : Pipe
  deriving DecidableEq, Repr

def VecState.reset : VecState := ⟨.zero, .zero, .zero, 0, none, 0, 0, .allOnes 64, 0, .empty⟩

/-- SF (spec/06 R145). -/
structure SfState where
  q0 : Vec
  pipe : Pipe
  deriving DecidableEq, Repr

def SfState.reset : SfState := ⟨.zero, .empty⟩

/-- What an access of LA or LB does (spec/04 R97). -/
inductive AccessOp where
  | load (width : Nat)
  | loadV
  | gatherV
  | store (width : Nat)
  | storeV
  | scatterV
  | amo (sel : Nat)
  deriving DecidableEq, Repr

/-- An access of LA or LB on its way (spec/04 R98): its pointer, mask, per-lane offsets, data to store or loaded so far, the
next perform cycle and group, the landing cycle, and whether its bytes are still to perform. -/
structure Access where
  id : Nat
  op : AccessOp
  site : Nat
  port : LsPort
  owner : Nat
  pointer : Word
  off : Nat
  mask : Word
  offsets : Vec
  data : Vec
  performAt : Nat
  group : Nat
  groups : Nat
  pending : Bool
  landAt : Option Nat
  /-- Flags that reach fflags at the landing: none but those SH.wr gives (spec/21 R376). -/
  flags : Flags
  /-- Its trigger fired in data-locked mode (spec/15 R301). -/
  locked : Bool
  from_ : Origin
  deriving DecidableEq, Repr

/-- A code-table write on its way (spec/04 R103): its perform cycle and entry. -/
structure TableWrite where
  id : Nat
  due : Nat
  table : Nat
  entry : Nat
  value : Lane
  deriving DecidableEq, Repr

/-- LA or LB (spec/04 R97). Local accesses and table writes are held with the socket (spec/21 R372). -/
structure LsState where
  o1 : Word
  q0 : Vec
  strd : Vec
  msk : Word
  pipe : Pipe
  local_ : List Access
  tableWrites : List TableWrite
  deriving DecidableEq, Repr

def LsState.reset : LsState := ⟨0, .zero, .zero, .allOnes 64, .empty, [], []⟩

/-- CT (spec/04 R81 to R91): lnk, the loop registers, the mode mask, user interrupts. -/
structure CtState where
  o1 : Word
  lnk : Word
  lcnt : Nat
  lend : Nat
  start : Nat
  mmask : BitVec 17
  /-- The mask of a CT.mode that takes effect at the next cycle (spec/04 R85). -/
  maskNext : Option (BitVec 17)
  uipc : Word
  masked : Bool
  /-- Cycle at which a CT.uiret clears the mask (spec/04 R91). -/
  unmaskAt : Option Nat
  deriving DecidableEq, Repr

def CtState.reset : CtState := ⟨0, 0, 0, 0, 0, 0, none, 0, false, none⟩

/-- The sockets that a freeze captures into a shadow (spec/21 R372). -/
structure Captured where
  ct : CtState
  ia : IntState
  ib : IntState
  ag : AgState
  va : VecState
  vb : VecState
  vc : VecState
  sf : SfState
  la : LsState
  lb : LsState
  deriving DecidableEq, Repr

def Captured.reset : Captured :=
  ⟨.reset, .reset, .reset, .reset, .reset, .reset, .reset, .reset, .reset, .reset⟩

/-! ### The matrix unit, the epilogue, GN -/

/-- One slot of the result ring: 32 rows of 64 f32 (spec/01 R14). -/
abbrev RingSlot := Vector Vec 32

def RingSlot.zero : RingSlot := .replicate 32 .zero

/-- The shape of a routine (spec/07 R156). -/
structure RoutineForm where
  rowMajor : Bool
  vectorA : Bool
  scaled : Bool
  perturbed : Bool
  accumulates : Bool
  outer : Bool
  /-- A microprogram's start address (spec/07 R165). -/
  micro : Option Nat
  deriving DecidableEq, Repr

/-- One group of a running product: the elements fetched so far as f19 words (spec/07 R150, R153). `a` holds line t of a K-major
form, segment i of a row-major one, or segment 0 of a vector; `b` holds line t. -/
structure GroupLines where
  a : List (Nat × List Lane)
  b : List (Nat × List Lane)
  sa : List Lane
  sb : List Lane
  deriving DecidableEq, Repr

def GroupLines.empty : GroupLines := ⟨[], [], [], []⟩

/-- A routine in flight (spec/07 R156 to R165): everything read at its firing cycle, and the lines fetched by group. -/
structure Routine where
  id : Nat
  form : RoutineForm
  fired : Nat
  k : Nat
  row : Nat
  pA : Word
  pB : Word
  pSA : Word
  pSB : Word
  pL : Word
  strideA : Int
  strideB : Int
  f1 : Fmt
  f2 : Fmt
  table : Nat
  draw : DrawKey
  e0 : Nat
  slot : Nat
  fetchEnd : Nat
  readyAt : Nat
  stated : Nat
  lines : List (Nat × GroupLines)
  dead : Bool
  copy : List Word
  mps : Vector Word 8
  /-- Microprogram cursor: current word, next word address, beats left, steps since the last commit and in all, the last
  commit's cycle, the end word's cycle. -/
  word : Word
  addr : Nat
  left : Nat
  kGroup : Nat
  kAll : Nat
  lastCommit : Option Nat
  ended : Option Nat
  from_ : Origin
  deriving DecidableEq, Repr

/-- A ring slot that becomes ready: what it is formed from, and the cycle (spec/07 R153, R158, R165). -/
structure SlotReady where
  slot : Nat
  due : Nat
  form : RoutineForm
  row : Nat
  lines : List (Nat × GroupLines)
  deriving DecidableEq, Repr

/-- MX (spec/07 R147, R160, R162). -/
structure MxState where
  o1 : Word
  o2 : Word
  mp : Vector Word 8
  fmt : Option Word
  fmtWord : Word
  head : Nat
  tail : Nat
  /-- Counter values that take effect at the next cycle (spec/07 R160, R163, R168). -/
  headNext : Option Nat
  tailNext : Option Nat
  ring : Vector RingSlot 8
  /-- Slots that hold no final contents, once for each completion they wait for: none has any since launch start until a routine
  completes it (spec/07 R160). -/
  notReady : List Nat
  routines : List Routine
  ready : List SlotReady
  fetchEnd : Nat
  o1w : Bool
  o2w : Bool
  waiting : Option Waiting
  /-- An mread on its way to mp7: landing cycle and word (spec/07 R163). -/
  mread : List (Nat × Word)
  store : Table Word
  directory : Table Word
  deriving DecidableEq, Repr

def MxState.reset : MxState :=
  ⟨0, 0, .replicate 8 0, none, 0, 0, 0, none, none, .replicate 8 .zero, List.range 8, [], [], 0, false, false, none, [], [], []⟩

/-- What an EP operation puts out (spec/07 R168). -/
inductive DrainKind where
  | rows | columns | sum | net | row (r : Nat)
  deriving DecidableEq, Repr

/-- An EP operation under way (spec/07 R168): the ports read at its firing cycle c, the ring slot, and, from c + 1, the slot's
copy and the code table. -/
structure Drain where
  id : Nat
  kind : DrainKind
  number : Nat
  slot : Option RingSlot
  scl : Vec
  bias : Vec
  act : Nat
  g : Fmt
  table : Nat
  codeTable : CodeTable
  dst : Word
  stride : Word
  fired : Nat
  /-- It fired in data-locked mode (spec/15 R301). -/
  locked : Bool
  from_ : Origin
  deriving DecidableEq, Repr

/-- EP (spec/07 R166). -/
structure EpState where
  o1 : Word
  q0 : Vec
  scl : Vec
  bias : Vec
  act : Word
  ofmt : Word
  dst : Word
  pipe : Pipe
  drains : List Drain
  /-- Cycles in which drnets hand rows to NS: [from, to] each (spec/07 R168). -/
  net : List (Nat × Nat)
  deriving DecidableEq, Repr

/-- EP at launch start: scl is 1.0 in every lane (spec/07 R166). -/
def EpState.reset : EpState := ⟨0, .zero, .fill 0x3F800000#32, .zero, 0, 0, 0, .empty, [], []⟩

/-- GN (spec/08 R180). -/
structure GnState where
  o1 : Word
  o2 : Vec
  q0 : Vec
  q1 : Word
  elem : Word
  key : Word
  stream : BitVec 24
  member : BitVec 24
  /-- Key, stream and member that take effect at the next cycle (spec/08 R177, R181). -/
  next : Option (Word × BitVec 24 × BitVec 24)
  pipe : Pipe
  deriving DecidableEq, Repr

def GnState.reset : GnState := ⟨0, .zero, .zero, 0, 0, 0, 0, 0, none, .empty⟩

/-! ### NS, SV, DM, SY, TM, SH -/

/-- A landing register: 256 bytes and a tag; tag 0 is empty (spec/11 R215). -/
structure Landing where
  data : Vec
  tag : BitVec 7
  deriving DecidableEq, Repr

/-- NS (spec/11 R215). -/
structure NsState where
  o1 : Word
  dst : Word
  ln : Vector Landing 16
  counter : BitVec 7
  deriving DecidableEq, Repr

def NsState.reset : NsState := ⟨0, 0, .replicate 16 ⟨.zero, 0⟩, 1⟩

/-- A message allocated in a receive queue (spec/11 R222). -/
structure Queued where
  line : Nat
  lines : Nat
  arrived : Bool
  header : Word
  id : Nat
  /-- What its release carries to the tile that pops it (spec/12 R256). -/
  rest : List Outstanding
  deriving DecidableEq, Repr

/-- A receive queue (spec/11 R222): base offset, size exponent, the line after the last allocated, its messages in order. -/
structure RxQueue where
  base : Nat
  z : Nat
  tail : Nat
  messages : List Queued
  deriving DecidableEq, Repr

def RxQueue.reset : RxQueue := ⟨0, 0, 0, []⟩

/-- SV (spec/11 R224 to R230). -/
structure SvState where
  o1 : Word
  o2 : Word
  q0 : Word
  flight : List InFlight
  queues : Vector RxQueue 3
  current : Nat
  /-- Messages in the send buffer: identifiers of what the catwalk has not yet taken (spec/11 R227). -/
  sendBuffer : List Nat
  deriving DecidableEq, Repr

def SvState.reset : SvState := ⟨0, 0, 0, [], .replicate 3 .reset, 2, []⟩

/-- A loose reply a tile awaits (spec/11 R237): its command, whether every write has performed, what lands. -/
structure LooseReply where
  id : Nat
  done : Bool
  /-- The earliest cycle at which it may land, once done (spec/15 R302). -/
  due : Nat
  q0 : Option Word
  pred : Option (Nat × Bool)
  /-- The reply of a bchk: its landing is the observation of an acquire, which takes these over (spec/12 R255, R256). -/
  acquires : Bool
  acquired : List Outstanding
  deriving DecidableEq, Repr

/-- DM (spec/11 R231, R237, R245). -/
structure DmState where
  o1 : Word
  o2 : Word
  q0 : Word
  dp : Vector Word 4
  flight : List InFlight
  replies : List LooseReply
  copies : List Nat
  nextXfer : Nat
  deriving DecidableEq, Repr

def DmState.reset : DmState := ⟨0, 0, 0, .replicate 4 0, [], [], [], 1⟩

/-- SY (spec/17 R319). -/
structure SyState where
  o1 : Word
  o2 : Word
  q0 : Word
  accxReadyAt : Nat
  flight : List InFlight
  deriving DecidableEq, Repr

def SyState.reset : SyState := ⟨0, 0, 0, 0, []⟩

/-- TM (spec/04 R92, R93). -/
structure TmState where
  q0 : Word
  q1 : Word
  flight : List InFlight
  deriving DecidableEq, Repr

def TmState.reset : TmState := ⟨0, 0, []⟩

/-- SH (spec/21 R377). -/
structure ShState where
  o1 : Word
  q0 : Word
  idx : Word
  flight : List InFlight
  deriving DecidableEq, Repr

def ShState.reset : ShState := ⟨0, 0, 0, []⟩

/-- ID's launch-written values (spec/04 R94 to R96). -/
structure IdState where
  org : Vector Word 4
  ext : Vector Word 4
  fflags : Flags
  /-- Flags that landed in the present cycle and join fflags at its end (spec/04 R96), and those of the cycle of a capture, which join
  it in that cycle once the user context goes on (spec/21 R378). -/
  landed : Flags
  landedAtF : Flags
  xfer : Word
  deriving DecidableEq, Repr

def IdState.reset : IdState := ⟨.replicate 4 0, .replicate 4 0, 0, 0, 0, 0⟩

/-- What a timed read of accx, arcw, SV.arm or ucopy's block is for (spec/10 R213, spec/11 R245). -/
inductive BlockUse where
  | accx (n : Nat)
  | arcw
  | arm (message : Nat)
  | ucopy (id : Nat)
  deriving DecidableEq, Repr

/-- A timed local read outside LA and LB, ranked as LA (spec/10 R213). Its cycle is a DCC for SV.arm and ucopy, and a pulse of the
domain for SY, whose latencies count service cycles (spec/21 R374). -/
structure BlockRead where
  id : Nat
  due : Nat
  off : Nat
  len : Nat
  use : BlockUse
  from_ : Origin
  deriving DecidableEq, Repr

/-! ### Threads and tiles -/

/-- A taken branch whose target has not yet been reached: delay bundles still to issue, and the target (spec/04 R82). -/
structure Redirect where
  left : Nat
  target : Nat
  deriving DecidableEq, Repr

/-- One context's issue state (spec/01 R15, spec/02 R30). -/
structure Thread where
  /-- Index of the next bundle; while an idle run is in progress, of the bundle after the run. -/
  pc : Nat
  /-- Remaining cycles of an idle run in progress, and the run's bundle index. -/
  idle : Nat
  idleAt : Nat
  redirects : List Redirect
  deriving DecidableEq, Repr

def Thread.reset : Thread := ⟨0, 0, 0, []⟩

/-- An event a tile has detected and keeps until the freeze (spec/20 R362, R363). -/
structure Event where
  cause : Nat
  slot : Nat
  due : Nat
  bundle : Nat
  sup : Bool
  timed : Bool
  issue : Nat
  bay : Nat
  offset : Nat
  value : Word
  detail : Word
  copy : List Word
  detail2 : Word
  deriving DecidableEq, Repr

/-- An item that landed during a pre-emption drain (spec/21 R382). -/
structure LogEntry where
  reg : Nat
  whole : Bool
  plane : Nat
  tag : BitVec 7
  data : Vec
  delay : Nat
  deriving DecidableEq, Repr

/-- A user-level interrupt waiting to be taken (spec/04 R91, spec/11 R245). -/
structure PendingIrq where
  xfer : Nat
  handler : Nat
  deriving DecidableEq, Repr

/-- A tile (spec/01 R14 to R16). -/
structure Tile where
  s : Vector Word 64
  v : Vector Vec 32
  p : Vector Bool 8
  m : Vector Word 8
  z : Vector Word 16
  user : Thread
  sup : Thread
  /-- The supervisor context issues (frozen domain, halt-group halt, boot state). -/
  inSup : Bool
  /-- The launched kernel runs with supervisor privilege (spec/17 R317). -/
  privileged : Bool
  /-- The sockets as the issuing context sees them, and the other context's copies (spec/21 R372). -/
  cap : Captured
  shadow : Captured
  mx : MxState
  ep : EpState
  gn : GnState
  ns : NsState
  sv : SvState
  dm : DmState
  sy : SyState
  tm : TmState
  sh : ShState
  id : IdState
  tables : Vector CodeTable 4
  blocks : List BlockRead
  /-- A launch runs on this tile and it has not halted. -/
  running : Bool
  halted : Bool
  loose : Bool
  /-- A CT.loose that takes effect at the next cycle (spec/04 R86). -/
  looseNext : Bool
  /-- Waiting at a pier since its arrival (spec/01 R24). -/
  arrived : Bool
  /-- Issues nothing until the freeze that its own detection fixed (spec/20 R361). -/
  stopped : Bool
  /-- Cycle of the detection that stopped it: the last in which it issues (spec/20 R361). -/
  stoppedAt : Nat
  wedged : Bool
  bay : Nat
  bayStart : Int
  retired : Nat
  irqs : List PendingIrq
  /-- First supervisor issue: pulse number of the domain (spec/21 R374). -/
  supFrom : Nat
  /-- SY.eret has issued (spec/21 R378). -/
  ready : Bool
  /-- The supervisor context issues no more before its next entry: it has issued CT.halt or CT.pier (spec/04 R87, R90). -/
  supHalted : Bool
  debugHeld : Bool
  broken : Bool
  /-- Halted alone by a halt group, and the cycle of a halt whose detection has just stopped the tile (spec/21 R386). -/
  groupHalted : Bool
  haltAt : Option Nat
  event : Option Event
  later : Nat
  record : Vector Word 16
  frozenAt : Nat
  frozenOfs : Nat
  landingLog : List LogEntry
  groups : BitVec 16
  /-- Halt-group halts on their way: arrival pulse (spec/21 R386). -/
  groupHaltAt : List Nat
  /-- Accesses and replies that a fence holds later untimed operations for (spec/12 R254, R255). -/
  holds : List Outstanding
  /-- Accesses of others still to perform that happen before what the tile does next, and those of acquires observed from the next
  cycle on (spec/12 R256). -/
  known : List Outstanding
  knownNext : List Outstanding
  /-- The latest issued of its timed accesses that have performed: what it issued before that happens before the timed accesses of the domain
  that perform later (spec/12 R250, R256). -/
  timedId : Nat
  deriving DecidableEq, Repr

def resetTables : Vector CodeTable 4 := Vector.ofFn fun t => resetCodeTable t.val

/-- A tile after its core reset: everything zero but the constants the manual names (spec/22 R394, spec/05 R110). -/
def Tile.reset : Tile where
  s := .replicate 64 0
  v := .replicate 32 .zero
  p := .replicate 8 false
  m := .replicate 8 0
  z := .replicate 16 0
  user := .reset
  sup := { Thread.reset with pc := 960 }
  inSup := false
  privileged := false
  cap := .reset
  shadow := .reset
  mx := .reset
  ep := .reset
  gn := .reset
  ns := .reset
  sv := .reset
  dm := .reset
  sy := .reset
  tm := .reset
  sh := .reset
  id := .reset
  tables := resetTables
  blocks := []
  running := false
  halted := false
  loose := false
  looseNext := false
  arrived := false
  stopped := false
  stoppedAt := 0
  wedged := false
  bay := 0
  bayStart := 0
  retired := 0
  irqs := []
  supFrom := 0
  ready := false
  supHalted := false
  debugHeld := false
  broken := false
  groupHalted := false
  haltAt := none
  event := none
  later := 0
  record := .replicate 16 0
  frozenAt := 0
  frozenOfs := 0
  landingLog := []
  groups := 0
  groupHaltAt := []
  holds := []
  known := []
  knownNext := []
  timedId := 0

/-! ### Items on the networks -/

/-- What a timed-mesh item carries (spec/11 R217). -/
inductive MeshPayload where
  | scalar (reg plane : Nat) (w : Word)
  | part (reg plane : Nat) (v : Vec)
  | whole (reg : Nat) (v : Vec)
  | deposit (off : Nat) (w : Word)
  | depositV (off : Nat) (v : Vec)
  deriving DecidableEq, Repr

/-- A deposit, which performs at bytes of SRAM. -/
def MeshPayload.isDeposit : MeshPayload → Bool
  | .deposit _ _ | .depositV _ _ => true
  | _ => false

/-- An item on the timed mesh (spec/11 R218): sender, target, firing cycle, hops already made. -/
structure MeshItem where
  id : Nat
  /-- The drnet that handed it over, or itself (spec/12 R254). -/
  cause : Nat
  src : Nat
  dst : Nat
  fired : Nat
  hop : Nat
  tag : BitVec 7
  payload : MeshPayload
  /-- Flags that reach the sender's fflags when the item performs (spec/07 R167). -/
  flags : Flags
  from_ : Origin
  deriving DecidableEq, Repr

/-- A request or a reply on the reach network (spec/04 R99). -/
structure ReachItem where
  id : Nat
  reply : Bool
  hop : Nat
  /-- Cycle from which its hops are counted: the firing cycle, one later for a store, or the read-perform cycle of a reply. -/
  from0 : Nat
  access : Access
  deriving DecidableEq, Repr

/-- A catwalk message (spec/11 R222 to R229): source site, destination site and queue, header and payload. -/
structure Message where
  id : Nat
  /-- The message that holds the send-buffer place: itself, or the first copy of a multicast. -/
  head : Nat
  src : Nat
  dst : Nat
  channel : Nat
  header : Word
  flits : List Word
  /-- The message holds one of the sender's send-buffer places until the catwalk takes it. -/
  buffered : Bool
  taken : Bool
  held : Bool
  /-- Its header has reached the interface and its lines are allocated (spec/11 R222). -/
  placed : Bool
  /-- Accesses that must perform before the message departs, and those its release carries on (spec/12 R254). -/
  waits : List Outstanding
  rest : List Outstanding
  /-- Ticks before it is taken, before its header arrives, and before its next line is written: free values (spec/01 R19). -/
  takeAt : Nat
  arriveAt : Nat
  writeAt : Nat
  /-- Lines written so far. -/
  written : Nat
  deriving DecidableEq, Repr

/-- A launch-unit request on its way (spec/15 R296, spec/21 R380). -/
inductive UnitRequest where
  | cnt (handle : Word)
  | cntw (handle word : Word)
  | cancel (handle : Word)
  | fire (tag : Nat) (user : Bool) (argument : Word)
  | arm (tag : Nat) (image : List Word)
  | stop (kind : Nat)
  | dbg (op n : Nat)
  | desk (mark : DeskMark)
  deriving DecidableEq, Repr

/-- A request message of a tile to a launch unit. -/
structure UnitMessage where
  id : Nat
  site : Nat
  slot : Nat
  request : UnitRequest
  buffered : Bool
  taken : Bool
  waits : List Outstanding
  rest : List Outstanding
  takeAt : Nat
  arriveAt : Nat
  deriving DecidableEq, Repr

/-- A reply that a launch unit owes a tile, or a grant that a desk owes it, in the order of the tile's requests; once it is made, its
label, its flit and what popping it acquires (spec/15 R297). -/
structure OwedReply where
  id : Nat
  site : Nat
  slot : Nat
  desk : Bool
  reply : Option (BitVec 32 × Word × List Outstanding)
  deriving DecidableEq, Repr

/-! ### Engine work -/

/-- The DM forms (spec/11 R232), and the frames of a fabric schedule, whose windows the fabric interface claims (spec/13 R262). -/
inductive DmForm where
  | copy | copy2 | gath | gathl | walk | radd | rmin | rmax | conv | ovl | ucopy | bset | barr | bchk | poolget | poolrel | fabric
  deriving DecidableEq, Repr

/-- How far a command has come: held by a release, on its way, accepted with its start ahead, started, in loose or untimed
progress. -/
inductive CmdPhase where
  | waiting | delivery | accepted | started | untimed
  deriving DecidableEq, Repr

/-- One 256-byte HBM block: its physical address in its aperture and its location as a row-major address (spec/10 R202, R203), the
bytes [lo, hi) in range, its window and its place in the sequence (spec/11 R238), and where byte `lo` stands in the SRAM end or in
the command's own stream. -/
structure Block where
  phys : Nat
  loc : Nat
  lo : Nat
  hi : Nat
  window : Nat
  u : Nat
  place : Nat
  deriving DecidableEq, Repr

/-- What a loose or untimed command does next: nothing yet, a slot of the fabric that takes what it has read, an SRAM access of its own,
an HBM block in an unclaimed window, or its end from a cycle on. -/
inductive Need where
  | nothing
  | frame
  | line (write : Bool) (site off len : Nat)
  | block (b : Block) (granted : Bool)
  | ending (due : Nat)
  deriving DecidableEq, Repr

/-- A DM command (spec/11 R231 to R247): everything read at c, what acceptance fixed, and its progress. -/
structure Command where
  id : Nat
  form : DmForm
  site : Nat
  slot : Nat
  supTable : Bool
  word : Word
  o1 : Word
  o2 : Word
  dp : Vector Word 4
  loose : Bool
  /-- The launch whose task issued it, and the start of its bay. -/
  launch : Nat
  bayStart : Nat
  fired : Nat
  /-- The stack it travels to, whether the domain owns it, and the delivery latencies Di and Dt (spec/11 R233, R238). -/
  stack : Nat
  owned : Bool
  di : Nat
  dt : Nat
  /-- The SRAM end; for ovl the tiles of the rectangle. -/
  owner : Nat
  off : Nat
  targets : List Nat
  phase : CmdPhase
  acceptAt : Nat
  startAt : Nat
  busyUntil : Nat
  /-- The block sequence; the first `split` are read, the others written (spec/11 R244). -/
  blocks : List Block
  split : Nat
  /-- First claimed rotation and their number (spec/11 R241). -/
  rot0 : Nat
  rotCount : Nat
  table : Vector (Word × Word) 64
  /-- Physical bases of the translated operands. -/
  p0 : Nat
  p1 : Nat
  index : Table Nat
  /-- Data between a read and the write derived from it: by sector, line or element. -/
  buffer : Table (List Byte)
  /-- Lines or sectors whose data must not be written (spec/20 R366, R367). -/
  bad : List Nat
  /-- Cycles of the sector accesses of gath and of timed reductions. -/
  sched : Table Nat
  work : List Nat
  need : Need
  progress : Nat
  draw : DrawKey
  codeTable : CodeTable
  block : List Word
  waits : List Outstanding
  /-- The release that a bset or barr makes, and the places the command writes, as a release knows them (spec/12 R254, R255). -/
  release : Option Release
  places : List Nat
  /-- Place in the order of acceptance (spec/10 R208, spec/17 R322). -/
  rank : Nat
  from_ : Origin
  deriving DecidableEq, Repr

/-! ### Domains, launches, the desk -/

/-- A request at the desk (spec/15 R303). -/
structure DeskRequest where
  tile : Nat
  bay : Nat
  quantum : Nat
  items : Nat
  deriving DecidableEq, Repr

/-- The circulation desk (spec/15 R303 to R305). -/
structure Desk where
  pool : Nat
  next : Nat
  requests : List DeskRequest
  marks : List DeskMark
  /-- What the requests it has taken carry to the tiles that pop its grants (spec/12 R255, R256). -/
  carried : List Outstanding
  deriving DecidableEq, Repr

def Desk.reset : Desk := ⟨0, 0, [], [], []⟩

/-- A launch descriptor as read (spec/15 R284). -/
structure Descriptor where
  image : Nat
  quantum : Nat
  folio : Nat
  entry : Nat
  n : Vector Word 4
  g : Vector Word 4
  pool : Nat
  save : Nat
  args : List Word
  deriving DecidableEq, Repr

/-- The launch that starts or runs on a domain (spec/15 R285, R287). -/
structure Launch where
  tag : Nat
  selectedAt : Nat
  startAt : Nat
  classAtStart : Nat
  desc : Option Descriptor
  started : Bool
  /-- Cycle of the last CT.halt, when every tile has halted (spec/15 R294). -/
  lastHalt : Option Int
  lastWrite : Nat
  lastReply : Nat
  restoring : Bool
  /-- What its tasks' untimed copies are known by. -/
  id : Nat
  deriving DecidableEq, Repr

/-- Why a domain is frozen, as far as what follows depends on it (spec/21 R380 to R385, spec/13 R265, spec/22 R395). -/
inductive FreezeUse where
  | fault | inspect | preempt | cancel | debug | thermal (stack : Nat) | hold
  deriving DecidableEq, Repr

/-- A freeze that is fixed but not yet in force (spec/20 R361): its detection, its cycle, the flat number of the tile that fixed
it, the first cause, the stops merged into it (spec/21 R381), and what it is for. -/
structure FreezePlan where
  detected : Nat
  due : Nat
  tile : Nat
  cause : Nat
  stops : Nat
  use : FreezeUse
  deriving DecidableEq, Repr

/-- The drain of a pre-emption or a cancel (spec/21 R382, spec/15 R416). -/
structure DrainState where
  from0 : Nat
  cancel : Bool
  saveEnd : Option Nat
  /-- Timed commands that have not started at F: saved with the context (spec/21 R382). -/
  held : List Command
  /-- The cycle in which the drain has ended, and the freeze that an event of the drain has fixed, taken when the context resumes
  (spec/20 R361). -/
  doneAt : Option Nat
  plan : Option FreezePlan
  deriving DecidableEq, Repr

/-- The pier network of one domain (spec/01 R24, spec/15 R306). -/
structure PierState where
  firstArrival : Option Int
  releaseAt : Option Nat
  watchdog : Nat
  /-- Cycle at which the last tile of this module has arrived, and that of every other module that has been heard of, by rank
  (spec/13 R263). -/
  allArrived : Option Nat
  others : List (Nat × Nat)
  deriving DecidableEq, Repr

/-- A write of SY that takes effect at the next cycle (spec/17 R318, R320). -/
inductive SlotWrite where
  | range (sup : Bool) (entry : Nat) (w0 w1 : Word)
  | invalidate (sup : Bool) (mask : Word)
  | config (addr : Nat) (value : Word)
  | watchdog (limit : Nat)
  | group (site group : Nat) (join : Bool)
  deriving DecidableEq, Repr

/-- An accession extension on its way: the pulse from which it is visible, the register, its order, its data (spec/17 R322). -/
structure Extension where
  due : Nat
  user : Bool
  order : Nat
  data : List Byte
  deriving DecidableEq, Repr

/-- A timing domain (spec/01 R10 to R13), or a die in boot state. -/
structure Domain where
  spec : DomainSpec
  boot : Bool
  dcc : Nat
  /-- Pulses delivered to its tiles, service cycles among them (spec/21 R374). -/
  pulses : Nat
  sigma : Nat
  throttle : Nat
  throttleNext : Option (Nat × Nat)
  /-- Cycle from which the forced-realignment interval counts (spec/01 R25). -/
  realignFrom : Int
  pausedUntil : Nat
  pier : PierState
  plan : Option FreezePlan
  use : FreezeUse
  frozen : Bool
  frozenPulse : Nat
  mergedPreempt : Bool
  mergedDebug : Bool
  stepUntil : Option Nat
  draining : Option DrainState
  /-- Stops that came while the domain was frozen: their detection falls at the resume cycle (spec/21 R381). -/
  stopNext : List FreezeUse
  /-- First cycle at which the domain is idle (spec/15 R288). -/
  idleFrom : Nat
  launch : Option Launch
  desk : Desk
  mesh : List MeshItem
  reach : List ReachItem
  commands : List Command
  writes : List SlotWrite
  extensions : List Extension
  brokenSince : Option Nat
  /-- Fabric: pending hold (announced at a, in force at h, reference cycles left), and, while an owned stack is critical, the reference
  cycles to the next announcement (spec/22 R395). -/
  hold : Option (Nat × Nat × Nat)
  announceIn : Option Nat
  deriving DecidableEq, Repr

/-! ### Launch units -/

/-- States of an arming entry (spec/15 R282). -/
inductive EntryState where
  | free | armed | waiting | starting | running | preempted
  deriving DecidableEq, Repr

/-- An arming entry (spec/15 R282, R285, R291). -/
structure ArmEntry where
  w0 : Word
  w1 : Word
  w2 : Word
  w3 : Word
  state : EntryState
  fireDcc : Nat
  argument : Word
  cls : Nat
  passes : Nat
  /-- Physical address of the receive region, translated at arming (spec/15 R283). -/
  region : Nat
  /-- The descriptor that the launch was started with, for its resumption (spec/21 R382). -/
  desc : Option Descriptor
  deriving DecidableEq, Repr

def ArmEntry.reset : ArmEntry := ⟨0, 0, 0, 0, .free, 0, 0, 0, 0, 0, none⟩

/-- A copy of a pre-empted context that runs on (spec/12 R259): its command, the flat number of its tile, and whether the tile's task has
ended. -/
structure AwayCopy where
  id : Nat
  tile : Nat
  halted : Bool
  deriving DecidableEq, Repr

/-- What is saved of a command that has not started: what its tile gave it (R382); acceptance makes the rest anew. Of the timed
forms conv alone uses a code table. -/
structure SavedCommand where
  form : Nat
  word : Word
  o1 : Word
  o2 : Word
  dp : Vector Word 4
  supTable : Bool
  bayStart : Nat
  fired : Nat
  acceptAt : Nat
  startAt : Nat
  codeTable : Option CodeTable
  from_ : Origin
  deriving DecidableEq, Repr

/-- What the machine keeps of a pre-empted context beside its save area (spec/21 R382): the commands that have not started, as a release
knows them, the copies that run on, those that have ended since (tile, transfer, control word), and saved commands, by flat number, for which
a block has no room (notes/assumptions/87.md). -/
structure AwayContext where
  tag : Nat
  held : List Outstanding
  copies : List AwayCopy
  ended : List (Nat × Nat × Word)
  extra : List (Nat × SavedCommand)
  deriving DecidableEq, Repr

/-- The launch unit of a domain slot (spec/15 R278, R282), with the slot's range tables and configuration (spec/17 R318, R324). -/
structure LaunchUnit where
  entries : Table ArmEntry
  /-- Counter words by handle bits [11:0] (spec/15 R279, R280). -/
  counters : Table Word
  userRange : Vector (Word × Word) 64
  supRange : Vector (Word × Word) 64
  limits : Word
  maxBeats : Word
  debugEnable : Word
  profile : Word
  supProfile : Word
  mailbox : Table Word
  accU : BitVec 512
  accS : BitVec 512
  /-- Counter propagation due at the next cycle (spec/15 R281), counters that reached 0 with their words, and decrements; and that
  due in the present cycle. -/
  zeroed : List (Word × Word)
  decrements : List (Word × Bool × Bool)
  zeroedNow : List (Word × Word)
  decrementsNow : List (Word × Bool × Bool)
  fires : List (Nat × FireSource)
  away : List AwayContext
  /-- First bundles of resident kernels loaded with the supervisor flag (spec/03 R62, spec/17 R317). -/
  supKernels : List Nat
  deriving DecidableEq, Repr

/-- Reset values of R324: message limits 16 each, 16 384 beats, base profile. -/
def LaunchUnit.reset : LaunchUnit where
  entries := []
  counters := []
  userRange := .replicate 64 (0, 0)
  supRange := .replicate 64 (0, 0)
  limits := 0x101010#64
  maxBeats := 16384
  debugEnable := 0
  profile := 1
  supProfile := 1
  mailbox := []
  accU := 0
  accS := 0
  zeroed := []
  decrements := []
  zeroedNow := []
  decrementsNow := []
  fires := []
  away := []
  supKernels := []

/-! ### Dies, stacks, pool, archive -/

/-- One archive entry (spec/22 R387). -/
structure ArchiveEntry where
  w0 : Word
  w1 : Word
  w2 : Word
  w3 : Word
  deriving DecidableEq, Repr

/-- An event on its way into the archive (spec/22 R389). -/
structure ArchiveEvent where
  dcc : Nat
  slot : Nat
  tile : Nat
  noDomain : Bool
  uncore : Bool
  kind : Nat
  code : Nat
  w2 : Word
  w3 : Word
  deriving DecidableEq, Repr

/-- A die's uncore (spec/01 R7, R8, spec/22 R387, spec/23 R402). -/
structure Die where
  /-- The left-out column of each physical row, 33 meaning none known (spec/01 R8, spec/23 R405). -/
  leftOut : List Nat
  /-- Sites that manufacturing test fused off, row × 33 + column: their tiles never issue (spec/01 R7). -/
  fusedOff : List Nat
  ring : Table ArchiveEntry
  written : Nat
  queue : List ArchiveEvent
  dropped : Nat
  booting : Bool
  leaderDone : Bool
  available : Bool
  debugOpen : Bool
  /-- Islands of the die, by their number in the module, that a degraded part lacks (spec/22 R397). -/
  absent : List Nat
  /-- Reference ticks until the uncore has come back from its reset; 0 when it runs (spec/22 R394). -/
  away : Nat
  corrected : Vector Nat 3
  refCycles : Nat
  deriving DecidableEq, Repr

/-- A die with no fused-off site, in the lifecycle state blank, whose debug port is open (spec/17 R327): physical column 32 is left out of every row (spec/01 R8). -/
def Die.reset : Die where
  leftOut := List.replicate 32 32
  fusedOff := []
  ring := []
  written := 0
  queue := []
  dropped := 0
  booting := false
  leaderDone := false
  available := false
  debugOpen := true
  absent := []
  away := 0
  corrected := .replicate 3 0
  refCycles := 0

/-- An HBM stack and its base die (spec/10 R201, spec/17 R326, spec/22 R395). -/
structure Stack where
  critical : Bool
  temperature : Nat
  /-- Errors met in each pseudo-channel. -/
  correctedCount : Vector Nat 64
  uncorrectedCount : Vector Nat 64
  untimedWindows : Nat
  /-- Live barrier words: location div 8 (spec/11 R246). -/
  live : List Nat
  absent : Bool
  /-- A domain that owns it has existed since its last scrub: its sectors are sealed under its partition's key (spec/17 R316). -/
  used : Bool
  deriving DecidableEq, Repr

def Stack.reset : Stack := ⟨false, 0, .replicate 64 0, .replicate 64 0, 0, [], false, false⟩

/-- A barrier of the pool (spec/11 R247). -/
structure PoolBarrier where
  count : Word
  refs : Nat
  owner : Nat
  /-- The releases written to it (spec/12 R256). -/
  releases : List Release
  deriving DecidableEq, Repr

/-! ### Management, host, fabric -/

/-- The management controller (spec/17 R313 to R332). -/
structure Mmc where
  partitions : Vector Word 16
  keySlots : Table (BitVec 512)
  /-- Partitions that are being formed: no domain of theirs has existed since they were configured (spec/17 R316). -/
  forming : List Nat
  /-- The partition an island last belonged to, and the islands scrubbed since (spec/17 R315). -/
  lastOwner : Table Nat
  scrubbed : List Nat
  fuses : Vector Word 64
  ap : BitVec 512
  af : Vector (BitVec 512) 4
  nonce : Option (List Byte)
  noncesIssued : Nat
  /-- The debug token whose unlock is in progress (spec/17 R332). -/
  unlocking : Option (List Byte)
  leafIndex : Nat
  recovery : Bool
  response : List Byte
  transcript : List Byte
  booted : List Nat
  /-- Images that updates have installed, with their signatures (spec/17 R329). -/
  installed : Table (List Byte × List Byte)
  deriving DecidableEq, Repr

/-- One Alaquezen port (spec/13 R260 to R266): its schedule, the entry a failed load names, the frames it has sent with their slots, the
received frames that await a retry with the holds that have served each, whether the slack slot serves the first of them, the frames to
send again in slack slots, the region that each entry's launch message in progress goes to, 0 for one that is discarded (R268), the last
beacon. -/
structure Port where
  schedule : List ScheduleEntry
  loadError : Option Nat
  sent : List (Nat × List Byte)
  retries : List (Nat × Nat)
  serving : Bool
  resends : List (Nat × List Byte)
  heard : Table Nat
  beacon : Option Beacon
  trained : Bool
  /-- The latency measured when the link trained, once one has been (spec/13 R263). -/
  latency : Option Nat
  deriving DecidableEq, Repr

def Port.reset : Port := ⟨[], none, [], [], false, [], [], none, true, none⟩

/-- A configured collective (spec/13 R269): operation, format, elements, tree of the tree form; the frames of the values received, by the
start of their bay, rank and frame, and the frames combined, by bay start and frame. -/
structure Collective where
  op : Nat
  fmt : Fmt
  count : Nat
  tree : Option RankTree
  contributions : Table (List Byte)
  combined : Table (List Byte)
  deriving DecidableEq, Repr

/-- How an access to BAR0 completes (spec/13 R271). -/
inductive Completion where
  | success | abort | unsupported
  deriving DecidableEq, Repr

/-- The PCIe function (spec/13 R271). -/
structure HostPort where
  mailbox : Table Word
  msix : Table Word
  unarmed : Nat
  firmware : Table Word
  /-- What the caller of the last load received: an error record (spec/03 R66), or, from a portable object, the table of spec/18 R349. -/
  loadError : Option (Word × Word)
  loadTable : List Nat
  /-- How the host's last write has completed. -/
  completion : Completion
  deriving DecidableEq, Repr

/-! ### The portable machine and the step's own bookkeeping -/

/-- A portable context (spec/18 R334, R335): its registers, its instruction pointer, and the tile it runs on. -/
structure Portable where
  running : Bool
  site : Nat
  g : Vector Word 16
  w : Vector Vec 16
  k : Vector Word 4
  /-- Byte address of the next word, and of the word being executed, in the unified memory. -/
  ip : Nat
  cur : Nat
  deriving DecidableEq, Repr

def Portable.reset (codeBase : Nat) : Portable where
  running := false
  site := 0
  g := .replicate 16 0
  w := .replicate 16 .zero
  k := .replicate 4 0
  ip := codeBase
  cur := codeBase

/-- The phases of one reference tick. -/
inductive Phase where
  | start | accept | land | perform | freeze | issue | fire | engines | cancels | counters | fires | writes | select | finish
  deriving DecidableEq, Repr

/-- One step due: the instruction or event, and what it is about. -/
structure Todo where
  site : Nat
  slot : Nat
  from_ : Origin
  instr : Instr
  deriving DecidableEq, Repr

/-- What the step in progress is about: site, domain slot, origin, the tile as it stood before the bundle
(spec/02 R38), and the bundle's header. -/
structure Focus where
  site : Nat
  slot : Nat
  from_ : Origin
  pre : Tile
  header : BitVec 64
  deriving DecidableEq, Repr

/-- An input from outside the module, due at a reference tick. -/
structure Input where
  due : Nat
  instr : Instr
  deriving DecidableEq, Repr

/-- The state of the module. -/
structure State where
  /-- Every byte: HBM, tile SRAM, instruction stores, staging store, portable code (canonical, spec/10 R195 to R202). -/
  mem : List Host.Cell
  /-- Places of memory with an uncorrectable error: 8-byte words of SRAM and instruction store, 32-byte sectors of HBM. -/
  badWords : List Nat
  /-- Register-file cells and ports with a parity error: site and cell code, `cellCode` (spec/20 R367). -/
  badRegs : List (Nat × Nat)
  tiles : Table Tile
  domains : Table Domain
  units : Table LaunchUnit
  dies : Table Die
  hbmStacks : Table Stack
  pool : Table PoolBarrier
  /-- The releases written to barrier words, by location div 8 (spec/12 R256). -/
  barriers : Table (List Release)
  messages : List Message
  requests : List UnitMessage
  owed : List OwedReply
  mmc : Mmc
  ports : Table Port
  collectives : Table Collective
  host : HostPort
  /-- Reduced service is active; training has completed and the service ends with the running launch (spec/22 R400, R401). -/
  reduced : Bool
  trained : Bool
  portable : Portable
  /-- Reference ticks of 600 MHz since power-on (spec/01 R1, spec/22 R387). -/
  tick : Nat
  phase : Phase
  /-- Domain slots that receive a pulse in this tick, and accesses that lose their bank in this cycle. -/
  pulsing : List Nat
  losers : List (Nat × Nat × Nat)
  /-- Banks (site, bank) in use in this cycle: by timed requesters, and by untimed accesses that have performed (spec/10 R197, R200). -/
  taken : List (Nat × Nat)
  /-- Lines of instruction stores that perform in this cycle: bundles issued in it do not hold them yet (spec/11 R240). -/
  arriving : List (Nat × Nat × List Byte)
  agenda : List Todo
  cur : Focus
  inputs : List Input
  nextId : Nat
  /-- The counter that free values are drawn with (the model's own field). -/
  draws : Nat
  deriving DecidableEq, Repr

def Origin.none : Origin := ⟨0, 0xFF, 0, 0, 0, 0, false⟩

/-- The fuses of a part in state blank with no fused-off site, a full grid and every port (spec/17 R325). -/
def Mmc.resetFuses : Vector Word 64 :=
  Vector.ofFn fun i =>
    if 14 ≤ i.val ∧ i.val < 38 then
      -- 32 six-bit fields of value 32 per die, in three words
      [0x0820820820820820#64, 0x2082082082082082#64, 0x8208208208208208#64].getD ((i.val - 14) % 3) 0
    else if i.val = 38 then 4
    else if i.val = 39 then 0xFFFF
    else 0

def Mmc.reset : Mmc where
  partitions := .replicate 16 0
  keySlots := []
  forming := []
  lastOwner := []
  scrubbed := []
  fuses := Mmc.resetFuses
  ap := 0
  af := .replicate 4 0
  nonce := none
  noncesIssued := 0
  unlocking := none
  leafIndex := 0
  recovery := false
  response := []
  transcript := []
  booted := []
  installed := []

def HostPort.reset : HostPort := ⟨[], [], 0, [], none, [], .success⟩

/-- The machine at power-on: nothing listed anywhere, every table at its reset value, no domain formed. -/
def State.reset : State where
  mem := []
  badWords := []
  badRegs := []
  tiles := []
  domains := []
  units := []
  dies := []
  hbmStacks := []
  pool := []
  barriers := []
  messages := []
  requests := []
  owed := []
  mmc := .reset
  ports := []
  collectives := []
  host := .reset
  reduced := false
  trained := false
  portable := Portable.reset Config.portableBase
  tick := 0
  phase := .start
  pulsing := []
  losers := []
  taken := []
  arriving := []
  agenda := []
  cur := ⟨0, 0, .none, .reset, 0⟩
  inputs := []
  nextId := 0
  draws := 0

end Sys2Proof.Machine
end

