-- ==== Sys2Proof/Machine/Memory.lean ====
section
/-!
DEFINITION. Memory as one sparse list of bytes in canonical form (addresses strictly rising, no zero byte listed; an unlisted
address reads zero), little-endian access to it, and the address map of the module's memories.
-/
namespace Sys2Proof.Machine

/-- The byte an unlisted address reads as (notes/assumptions/3.md). -/
def Memory.blank : Byte := 0

/-- The byte at an address. -/
def Memory.read : List Host.Cell → Nat → Byte
  | [], _ => Memory.blank
  | (k, b) :: t, a => if k = a then b else if a < k then Memory.blank else Memory.read t a

/-- Write one byte, keeping the canonical form. -/
def Memory.write : List Host.Cell → Nat → Byte → List Host.Cell
  | [], a, b => if b = Memory.blank then [] else [(a, b)]
  | (k, c) :: t, a, b =>
    if k = a then (if b = Memory.blank then t else (a, b) :: t)
    else if a < k then (if b = Memory.blank then (k, c) :: t else (a, b) :: (k, c) :: t)
    else (k, c) :: Memory.write t a b

/-- The listed addresses from `a` on are rising and no listed byte is blank. -/
def Memory.sortedFrom : Nat → List Host.Cell → Bool
  | _, [] => true
  | a, (k, b) :: t => decide (a ≤ k) && b != Memory.blank && Memory.sortedFrom (k + 1) t

/-- The canonical form. -/
def Memory.wf (m : List Host.Cell) : Bool := Memory.sortedFrom 0 m

/-- Bytes a, a+1, …, a+n−1. -/
def Memory.readBytes (m : List Host.Cell) (a : Nat) : Nat → List Byte
  | 0 => []
  | n + 1 => Memory.read m a :: Memory.readBytes m (a + 1) n

/-- Write bytes at a, a+1, …. -/
def Memory.writeBytes (m : List Host.Cell) (a : Nat) : List Byte → List Host.Cell
  | [] => m
  | b :: bs => Memory.writeBytes (Memory.write m a b) (a + 1) bs

/-- The little-endian number of a list of bytes (spec/01 R5). -/
def leNat : List Byte → Nat
  | [] => 0
  | b :: bs => b.toNat + 256 * leNat bs

/-- The n little-endian bytes of a number. -/
def leBytes : Nat → Nat → List Byte
  | 0, _ => []
  | n + 1, x => BitVec.ofNat 8 x :: leBytes n (x / 256)

def State.byte (s : State) (a : Nat) : Byte := Memory.read s.mem a
def State.readBytes (s : State) (a n : Nat) : List Byte := Memory.readBytes s.mem a n
def State.writeBytes (s : State) (a : Nat) (bs : List Byte) : State := { s with mem := Memory.writeBytes s.mem a bs }
def State.readNat (s : State) (a n : Nat) : Nat := leNat (s.readBytes a n)
def State.read64 (s : State) (a : Nat) : Word := BitVec.ofNat 64 (s.readNat a 8)
def State.write64 (s : State) (a : Nat) (w : Word) : State := s.writeBytes a (leBytes 8 w.toNat)

/-- Fill n bytes with zero. -/
def State.clearBytes (s : State) (a n : Nat) : State :=
  { s with mem := s.mem.filter fun c => decide (c.1 < a ∨ a + n ≤ c.1) }

/-- Bytes of tile SRAM, of an instruction store, of HBM, of the staging store. -/
def sramAddr (site off : Nat) : Nat := Config.sramBase + site * 2 ^ 20 + off
def istoreAddr (site off : Nat) : Nat := Config.istoreBase + site * 2 ^ 17 + off
def hbmAddr (p : Nat) : Nat := p
def stagingAddr (off : Nat) : Nat := Config.stagingBase + off

/-- The staging store stands where a site of this number would have its SRAM. -/
def stagingSite : Nat := (Config.stagingBase - Config.sramBase) / 2 ^ 20

/-- A vector from 256 bytes, lane i at byte 4i (spec/06 R126). -/
def vecOfBytes (bs : List Byte) : Vec := Vec.gen fun i => BitVec.ofNat 32 (leNat ((bs.drop (4 * i)).take 4))

/-- The 256 bytes of a vector (spec/06 R126). -/
def bytesOfVec (v : Vec) : List Byte := v.toList.flatMap fun x => leBytes 4 x.toNat

/-- The bundle at an index of a site's instruction store (spec/02 R29). -/
def State.bundleAt (s : State) (site index : Nat) : Bundle :=
  Bundle.ofBits (bitsOfBytes (s.readBytes (istoreAddr site (128 * index)) 128))

/-- Place a bundle in a site's instruction store. -/
def State.putBundle (s : State) (site index : Nat) (b : Bundle) : State :=
  s.writeBytes (istoreAddr site (128 * index)) b.bytes

end Sys2Proof.Machine
end

