-- ==== Sys2Proof/Machine/Place.lean ====
section
/-!
DEFINITION. Where things are: dies, physical and logical sites, domain coordinates, flat numbers, clusters and ranks, routes,
latencies, and the resolution of pointers (spec/01 R7 to R21, spec/04 R78 to R80, spec/10 R195, R196, R212, spec/22 R398).
-/
namespace Sys2Proof

/-! ### Domains and their grids (R11, R12, R21, R212, R398) -/

/-- Grid width W. -/
def DomainClass.width : DomainClass → Nat
  | .island | .die => 32
  | .pair => 64
  | .half | .whole | .multi => 128

/-- Grid height: 12-row domains supply 12 rows an island (R398). -/
def DomainSpec.height (d : DomainSpec) : Nat :=
  let r := if d.rows12 then 12 else 16
  match d.cls with
  | .island => r
  | .die | .pair | .half => 2 * r
  | .whole | .multi => 64

def DomainSpec.width (d : DomainSpec) : Nat := d.cls.width

def DomainSpec.tiles (d : DomainSpec) : Nat := d.width * d.height

def DomainSpec.clusters (d : DomainSpec) : Nat := d.tiles / 16

/-- The dies of a domain in ascending order. -/
def DomainSpec.dies (d : DomainSpec) : List Nat :=
  (List.range 8).filter fun k => d.islands.any fun i => i / 2 = k

/-- First die-local row of a domain's grid: rows 4 on in a 12-row domain, row 16 on for an odd island (R12, R398). -/
def DomainSpec.row0 (d : DomainSpec) : Nat :=
  let odd := d.cls = .island ∧ d.islands.headD 0 % 2 = 1
  if d.rows12 then (if odd then 16 else 4) else (if odd then 16 else 0)

/-- The die and die-local logical position of domain coordinates (R11, R12). -/
def DomainSpec.place (d : DomainSpec) (x y : Nat) : Option (Nat × Nat × Nat) :=
  if d.width ≤ x ∨ d.height ≤ y then none
  else
    let k := if d.cls = .whole ∨ d.cls = .multi then 4 * (y / 32) + x / 32 else d.dies.getD (x / 32) 0
    some (k, x % 32, if d.cls = .whole ∨ d.cls = .multi then y % 32 else y + d.row0)

/-- Domain coordinates of a die-local logical position; none outside the domain. -/
def DomainSpec.coords (d : DomainSpec) (die lx ly : Nat) : Option (Nat × Nat) :=
  let c := (d.dies.findIdx? (· = die)).getD 8
  if 8 ≤ c then none
  else if d.cls = .whole ∨ d.cls = .multi then some (32 * (die % 4) + lx, 32 * (die / 4) + ly)
  else
    if ly < d.row0 ∨ d.height ≤ ly - d.row0 then none else some (32 * c + lx, ly - d.row0)

/-- Padded causeway crossing P (R21). -/
def DomainSpec.crossing (d : DomainSpec) : Nat := if d.extended then 32 else 24

/-- Class pier latency (R21); between modules that of R263. -/
def DomainSpec.pierLatency (d : DomainSpec) : Nat :=
  if d.cls = .multi then (if d.longFabric then 1856 else 960) else if d.extended then 80 else 64

/-- Position of a stack's port tile in the same counting (R212). -/
def DomainSpec.portXY (d : DomainSpec) (stack : Nat) : Nat × Nat :=
  let die := stack / 4
  let col := 8 + 16 * (stack % 2)
  let row := if stack / 2 % 2 = 0 then 0 else 31
  if d.cls = .whole ∨ d.cls = .multi then (32 * (die % 4) + col, 32 * (die / 4) + row)
  else (32 * ((d.dies.findIdx? (· = die)).getD 0) + col, row)

/-- The stack belongs to an island of the domain. -/
def DomainSpec.owns (d : DomainSpec) (stack : Nat) : Bool := d.islands.any fun i => i = stack / 2

end Sys2Proof

namespace Sys2Proof.Machine

/-! ### Sites -/

def siteOf (die row col : Nat) : Nat := die * 1056 + row * 33 + col
def siteDie (site : Nat) : Nat := site / 1056
def siteRow (site : Nat) : Nat := site % 1056 / 33
def siteCol (site : Nat) : Nat := site % 33

/-- Die d. -/
def State.die (s : State) (d : Nat) : Die := Table.at s.dies Die.reset d
def State.setDie (s : State) (d : Nat) (x : Die) : State := { s with dies := Table.put s.dies d x }
def State.stack (s : State) (k : Nat) : Stack := Table.at s.hbmStacks Stack.reset k
def State.setStack (s : State) (k : Nat) (x : Stack) : State := { s with hbmStacks := Table.put s.hbmStacks k x }
def State.unit (s : State) (slot : Nat) : LaunchUnit := Table.at s.units LaunchUnit.reset slot
def State.setUnit (s : State) (slot : Nat) (u : LaunchUnit) : State := { s with units := Table.put s.units slot u }
def State.tile (s : State) (site : Nat) : Tile := Table.at s.tiles Tile.reset site
def State.setTile (s : State) (site : Nat) (t : Tile) : State := { s with tiles := Table.put s.tiles site t }
def State.mapTile (s : State) (site : Nat) (f : Tile → Tile) : State := s.setTile site (f (s.tile site))
def State.port (s : State) (p : Nat) : Port := Table.at s.ports Port.reset p
def State.setPort (s : State) (p : Nat) (x : Port) : State := { s with ports := Table.put s.ports p x }

/-- The domain a die in boot state counts as: every tile loose, no partition (spec/23 R403). -/
def bootSpec : DomainSpec := ⟨.die, [], false, false, false, 0, 1, false, 16⟩

def Domain.blank : Domain where
  spec := bootSpec
  boot := false
  dcc := 0
  pulses := 0
  sigma := 0
  throttle := 0
  throttleNext := none
  realignFrom := 0
  pausedUntil := 0
  pier := ⟨none, none, 0, none, []⟩
  plan := none
  use := .fault
  frozen := false
  frozenPulse := 0
  mergedPreempt := false
  mergedDebug := false
  stepUntil := none
  draining := none
  stopNext := []
  idleFrom := 0
  launch := none
  desk := .reset
  mesh := []
  reach := []
  commands := []
  writes := []
  extensions := []
  brokenSince := none
  hold := none
  announceIn := none

def State.domain (s : State) (slot : Nat) : Domain := Table.at s.domains Domain.blank slot
def State.hasDomain (s : State) (slot : Nat) : Bool := (Table.find s.domains slot).isSome
def State.setDomain (s : State) (slot : Nat) (d : Domain) : State := { s with domains := Table.put s.domains slot d }
def State.mapDomain (s : State) (slot : Nat) (f : Domain → Domain) : State := s.setDomain slot (f (s.domain slot))

/-- The left-out physical column of a row: the fused-off site's, else 32 (R8). -/
def Die.left (d : Die) (row : Nat) : Nat := d.leftOut.getD row 32

/-- The physical site of a die-local logical tile (R8); none in a row that is left out of the grid. -/
def State.logicalSite (s : State) (die x y : Nat) : Option Nat :=
  let l := (s.die die).left y
  if x < 32 ∧ y < 32 ∧ l ≤ 32 then some (siteOf die y (if x < l then x else x + 1)) else none

/-- The die-local logical column of a site; none for the left-out site (R8). -/
def State.logicalCol (s : State) (site : Nat) : Option Nat :=
  let l := (s.die (siteDie site)).left (siteRow site)
  let c := siteCol site
  if c = l ∨ 32 < l then none else if c < l then some c else some (c - 1)

/-- The fuse field of a row: the column of its one fused-off site, 32 when it has none, 63 when the row is left out (spec/17 R325). -/
def State.fusedCol (s : State) (die row : Nat) : Nat :=
  let w (i : Nat) : Nat := (s.mmc.fuses.getD (14 + 3 * die + i) 0).toNat
  (w 0 + w 1 * 2 ^ 64 + w 2 * 2 ^ 128) / 2 ^ (6 * row) % 64

/-- The tile at a site is live: its site is not fused off (R7). -/
def State.live (s : State) (site : Nat) : Bool := !(s.die (siteDie site)).fusedOff.contains (site % 1056)

/-! ### Domains and coordinates (R11, R12, R398) -/

/-- The site at domain coordinates; in boot state the physical column and row of the die (spec/23 R403). -/
def State.siteAt (s : State) (slot x y : Nat) : Option Nat :=
  let d := s.domain slot
  if d.boot then (if x < 33 ∧ y < 32 then some (siteOf (slot - 16) y x) else none)
  else match d.spec.place x y with
    | some (k, lx, ly) => s.logicalSite k lx ly
    | none => none

/-- Domain coordinates of a site. -/
def State.xy (s : State) (slot site : Nat) : Nat × Nat :=
  let d := s.domain slot
  if d.boot then (siteCol site, siteRow site)
  else
    match s.logicalCol site with
    | some lx => (d.spec.coords (siteDie site) lx (siteRow site)).getD (0, 0)
    | none => (0, 0)

/-- Width and height of the grid a tile's coordinates lie in; physical in boot state (spec/23 R403). -/
def State.grid (s : State) (slot : Nat) : Nat × Nat :=
  let d := s.domain slot
  if d.boot then (33, 32) else (d.spec.width, d.spec.height)

/-- Flat tile number within the module's grid (R12); with the module rank for a multi-module domain (spec/13 R267). -/
def State.flatLocal (s : State) (slot site : Nat) : Nat :=
  let (x, y) := s.xy slot site
  y * (s.grid slot).1 + x

def State.flat (s : State) (slot site : Nat) : Nat :=
  let d := s.domain slot
  s.flatLocal slot site + (if d.spec.cls = .multi then d.spec.rank * 8192 else 0)

/-- The site of a flat tile number of the module. -/
def State.siteOfFlat (s : State) (slot n : Nat) : Option Nat :=
  let w := (s.grid slot).1
  s.siteAt slot (n % w) (n / w)

def clusterOf (w x y : Nat) : Nat := y / 4 * (w / 4) + x / 4
def rankOf (x y : Nat) : Nat := y % 4 * 4 + x % 4

/-- Domain coordinates of a cluster number and rank (spec/10 R196). -/
def clusterXY (w n r : Nat) : Nat × Nat := (n % (w / 4) * 4 + r % 4, n / (w / 4) * 4 + r / 4)

/-- The sites of a domain in ascending flat order; in boot state the live sites of the die. -/
def State.domainSites (s : State) (slot : Nat) : List Nat :=
  let d := s.domain slot
  if d.boot then
    ((List.range 1056).map fun k => (slot - 16) * 1056 + k).filter s.live
  else (List.range d.spec.tiles).filterMap fun n => s.siteOfFlat slot n

/-- The domain slot of a site: the domain that holds its island, or its die in boot state. -/
def State.slotOf (s : State) (site : Nat) : Option Nat :=
  let die := siteDie site
  if (s.die die).booting then some (16 + die)
  else
    match s.logicalCol site with
    | none => none
    | some lx =>
      (s.domains.find? fun p => p.1 < 16 && ((p.2.spec.coords die lx (siteRow site)).isSome)).map (·.1)

/-! ### Routes (R17, R20, R21, spec/10 R211, R212) -/

def dist (a b : Nat) : Nat := (a - b) + (b - a)

/-- Hops and causeway crossings of the X-then-Y route between two positions (R17). Die edges stand every 32 columns and,
in a whole module, every 32 rows. -/
def routeCost (p q : Nat × Nat) : Nat × Nat :=
  (dist p.1 q.1 + dist p.2 q.2, dist (p.1 / 32) (q.1 / 32) + dist (p.2 / 32) (q.2 / 32))

/-- One step toward a coordinate. -/
def stepToward (a b : Nat) : Nat := if a < b then a + 1 else if b < a then a - 1 else a

/-- Position after k hops of the X-then-Y route. -/
def routeAt (p q : Nat × Nat) : Nat → Nat × Nat
  | 0 => p
  | k + 1 =>
    let r := routeAt p q k
    if r.1 ≠ q.1 then (stepToward r.1 q.1, r.2) else (r.1, stepToward r.2 q.2)

/-- Crossings among the first k hops. -/
def crossingsTo (p q : Nat × Nat) (k : Nat) : Nat := (routeCost p (routeAt p q k)).2

/-- Link direction of hop k + 1: 0 +X, 1 +Y, 2 −X, 3 −Y (spec/20 R364). -/
def hopDir (p q : Nat × Nat) (k : Nat) : Nat :=
  let a := routeAt p q k
  let b := routeAt p q (k + 1)
  if a.1 < b.1 then 0 else if b.1 < a.1 then 2 else if a.2 < b.2 then 1 else 3

/-- Positions as the networks count them: die-local logical rows, with the dies' rows stacked (R212, R398). -/
def State.netXY (s : State) (slot site : Nat) : Nat × Nat :=
  let d := s.domain slot
  let (x, _) := s.xy slot site
  (x, if d.spec.cls = .whole ∨ d.spec.cls = .multi then 32 * (siteDie site / 4) + siteRow site else siteRow site)

/-- Delivery latency D = 16 + 2h + P × j between a tile and a stack (R212). -/
def State.delivery (s : State) (slot site stack : Nat) : Nat :=
  let d := s.domain slot
  let (h, j) := routeCost (s.netXY slot site) (d.spec.portXY stack)
  16 + 2 * h + d.spec.crossing * j

/-- The partition that holds an island (spec/17 R314). -/
def State.partitionOfIsland (s : State) (island : Nat) : Option Nat :=
  (List.range 16).find? fun k =>
    let w := s.mmc.partitions.getD k 0
    decide (island < 16) && w.getLsbD 63 && w.getLsbD island

def State.partitionOf (s : State) (slot : Nat) : Option Nat :=
  s.partitionOfIsland ((s.domain slot).spec.islands.headD slot)

/-- The stack lies in the partition of the slot (R210) and is present (R397); none does in reduced service (R400). -/
def State.stackInPartition (s : State) (slot stack : Nat) : Bool :=
  decide (stack < 32) && !(s.stack stack).absent && !(s.reduced && slot == 0) &&
    (match s.partitionOf slot, s.partitionOfIsland (stack / 2) with
      | some a, some b => a == b
      | _, _ => false)

/-- Domain slots of the partition that holds a slot. -/
def State.slotInPartition (s : State) (slot other : Nat) : Bool :=
  s.hasDomain other &&
    (match s.partitionOf slot, s.partitionOf other with
      | some a, some b => a == b
      | none, none => slot == other
      | _, _ => false)

/-! ### Pointers (spec/04 R78 to R80, spec/10 R195, R196) -/

def ptrSpace (p : Word) : Nat := p.toNat / 2 ^ 60
def ptrOffset (p : Word) : Nat := p.toNat % 2 ^ 20

/-- Bits [hi:lo] of a word as a number. -/
def wbits (p : Word) (hi lo : Nat) : Nat := p.toNat / 2 ^ lo % 2 ^ (hi + 1 - lo)

/-- The must-be-zero bits of a pointer's space are zero (R79, R80); false in the spaces that always fault. -/
def ptrMbz (p : Word) : Bool :=
  match ptrSpace p with
  | 1 => wbits p 59 20 == 0
  | 2 => wbits p 59 24 == 0
  | 3 => wbits p 59 33 == 0
  | 4 | 5 | 6 | 8 | 15 => wbits p 59 48 == 0
  | 7 => wbits p 59 41 == 0 && wbits p 23 20 == 0
  | _ => false

/-- The spaces that R80 does not always fault. -/
def ptrSpaceValid (p : Word) : Bool :=
  match ptrSpace p with
  | 1 | 2 | 3 | 4 | 5 | 6 | 7 | 8 | 15 => true
  | _ => false

/-- Domain pointer to a position (R78). -/
def domainPointer (w x y off : Nat) : Word :=
  BitVec.ofNat 64 (3 * 2 ^ 60 + clusterOf w x y * 2 ^ 24 + rankOf x y * 2 ^ 20 + off)

/-- A signed byte. -/
def signed8 (n : Nat) : Int := (BitVec.ofNat 8 n).toInt

/-- Target of a coordinate-form pointer in a grid, from the issuing tile's position (R79); in boot state the grid is the
physical one and only absolute words name sites (spec/23 R403). -/
def coordTarget (grid : Nat × Nat) (me : Nat × Nat) (p : Word) : Option (Nat × Nat) :=
  let rel := p.getLsbD 40
  let fx := wbits p 39 32
  let fy := wbits p 31 24
  let x : Int := if rel then me.1 + signed8 fx else fx
  let y : Int := if rel then me.2 + signed8 fy else fy
  if 0 ≤ x ∧ x < grid.1 ∧ 0 ≤ y ∧ y < grid.2 then some (x.toNat, y.toNat) else none

/-- A resolved SRAM pointer, or the reason of R364 for its address fault. -/
inductive Resolved where
  | sram (site off : Nat)
  | bad (reason : Nat)
  deriving DecidableEq, Repr

/-- Resolve a pointer of spaces 0x1, 0x2, 0x3 or 0x7 from a tile (R79, R100, R196); `spaces` are those the socket reaches. -/
def State.resolve (s : State) (slot site : Nat) (spaces : List Nat) (p : Word) : Resolved :=
  let sp := ptrSpace p
  if !(spaces.contains sp) then .bad 1
  else if !ptrMbz p then .bad 2
  else
    let off := ptrOffset p
    let grid := s.grid slot
    let me := s.xy slot site
    let at' (q : Nat × Nat) : Resolved :=
      match s.siteAt slot q.1 q.2 with
      | some k => .sram k off
      | none => .bad 5
    match sp with
    | 1 => .sram site off
    | 2 => at' (me.1 / 4 * 4 + wbits p 23 20 % 4, me.2 / 4 * 4 + wbits p 23 20 / 4)
    | 3 =>
      let n := wbits p 32 24
      if (s.domain slot).spec.clusters ≤ n then .bad 5 else at' (clusterXY grid.1 n (wbits p 23 20))
    | 7 =>
      match coordTarget grid me p with
      | some q => at' q
      | none => .bad 5
    | _ => .bad 1

/-- The check of R80 on a pointer formed by an addition: reason 1 for a changed or invalid space, 2 for a must-be-zero bit. -/
def sumPointerReason (a t : Word) : Option Nat :=
  if ptrSpace t ≠ ptrSpace a ∨ !ptrSpaceValid t then some 1
  else if !ptrMbz t then some 2
  else none

end Sys2Proof.Machine
end

