-- ==== Sys2Proof/Machine/Flags.lean ====
section
/-!
DEFINITION. The sticky arithmetic flags (spec/04 R96, spec/05 R120): how they land, join fflags, and are written.
-/
namespace Sys2Proof.Machine

/-- Flags that land in the present cycle (R96, R120). -/
def Tile.landFlags (t : Tile) (f : Flags) : Tile :=
  { t with id := { t.id with landed := t.id.landed ||| f } }

/-- At the end of a cycle the flags that landed in it join fflags (R96). -/
def Tile.mergeFlags (t : Tile) : Tile :=
  { t with id := { t.id with fflags := t.id.fflags ||| t.id.landed, landed := 0 } }

/-- What ID.fflags reads: bits [63:6] are zero (R96). -/
def Tile.fflagsWord (t : Tile) : Word := t.id.fflags.setWidth 64

/-- A move to ID.fflags sets the six flags; flags landing in the same cycle are ORed in at its end (R96). -/
def Tile.writeFflags (t : Tile) (w : Word) : Tile :=
  { t with id := { t.id with fflags := w.setWidth 6 } }

end Sys2Proof.Machine
end

