-- ==== Sys2Proof/Machine/Operands.lean ====
section
/-!
DEFINITION. Operand forms: width conversion, guards, every source port and every destination port of the move buses
(spec/02 R33 to R41), landing a result in its port, and the control part of the function sockets (spec/02 R50, spec/04 R70).
-/
namespace Sys2Proof

/-- The sockets that CT.mode can place in data-locked mode (R26, R85). -/
def Sock.lockable : Sock → Bool
  | .ia | .ib | .ag | .va | .vb | .vc | .sf | .la | .lb | .mx | .ep | .gn => true
  | _ => false

def DomainClass.code : DomainClass → Nat
  | .island => 0 | .die => 1 | .pair => 2 | .half => 3 | .whole => 4 | .multi => 5

/-- ID.grid: height, width, latency class and grid class (R94). -/
def DomainSpec.gridWord (d : DomainSpec) : Word :=
  BitVec.ofNat 64 (d.height * 2 ^ 24 + d.width * 2 ^ 16 + (if d.extended then 2 ^ 8 else 0) + d.cls.code)

def LsPort.sock : LsPort → Sock
  | .la => .la | .lb => .lb

end Sys2Proof

namespace Sys2Proof.Machine

/-! ### Width conversion (R37) -/

/-- A value as a scalar: a vector gives lane 1 over lane 0. -/
def Res.scalar : Res → Word
  | .s w => w
  | .v x => x.lane 1 ++ x.lane 0

/-- A value as a vector: a scalar's bits [31:0] in every lane. -/
def Res.vector : Res → Vec
  | .s w => Vec.fill (w.setWidth 32)
  | .v x => x

/-- A value as a predicate: bit 0, or bit 0 of lane 0. -/
def Res.pred : Res → Bool
  | .s w => w.getLsbD 0
  | .v x => (x.lane 0).getLsbD 0

/-- A predicate as a scalar: zero-extended. -/
def predWord (b : Bool) : Word := if b then 1 else 0

/-! ### Registers (R16, R40) -/

/-- p0 always reads 1. -/
def Tile.pred (t : Tile) (i : Nat) : Bool := i == 0 || t.p.getD i false

/-- m0 always reads all ones. -/
def Tile.mask (t : Tile) (i : Nat) : Word := if i = 0 then .allOnes 64 else t.m.getD i 0

/-- Write p i; p0 keeps its value. -/
def Tile.setPred (t : Tile) (i : Nat) (b : Bool) : Tile := if i = 0 then t else { t with p := t.p.setIfInBounds i b }

/-- Write m i; m0 keeps its value. -/
def Tile.setMask (t : Tile) (i : Nat) (w : Word) : Tile := if i = 0 then t else { t with m := t.m.setIfInBounds i w }

def Tile.setS (t : Tile) (i : Nat) (w : Word) : Tile := { t with s := t.s.setIfInBounds i w }
def Tile.setV (t : Tile) (i : Nat) (x : Vec) : Tile := { t with v := t.v.setIfInBounds i x }
def Tile.setZ (t : Tile) (i : Nat) (w : Word) : Tile := { t with z := t.z.setIfInBounds i w }

/-- A guard is true when p[index] XOR invert = 1 (R33). -/
def Tile.guard (t : Tile) (g : Guard) : Bool := t.pred g.index.toNat != g.invert

/-! ### Cells that may hold a parity error (spec/20 R367) -/

/-- A storage cell of a tile: bits [6:0] selector and [12:8] socket, as a record gives them (spec/20 R364), and above them which
kind of cell: 0 register file, 1 q0, 2 q1, 3 auxiliary port, 4 o1, 5 o2. -/
def cellCode (place : Nat) (q : Sock) (sel : Nat) : Nat := place * 2 ^ 13 + q.num * 256 + sel

/-- The cells that an EP drain or an NS send reads beside its trigger data (spec/20 R367). -/
def operandCells (q : Sock) (sel : Nat) : List Nat :=
  match q with
  | .ep => if sel = 5 then [] else cellCode 4 q 0 :: (List.range 5).map (cellCode 3 q)
  | .ns => [cellCode 4 q 0, cellCode 3 q 0x10]
  | _ => []

/-! ### Sockets' control part -/

/-- The socket is data-locked (R26, R85). -/
def Tile.locked (t : Tile) (q : Sock) : Bool := q.lockable && t.cap.ct.mmask.getLsbD q.num

/-- The socket is data-locked for one of the tile's contexts: the mode that its triggers follow (R85, spec/21 R372). -/
def Tile.lockedFor (t : Tile) (sup : Bool) (q : Sock) : Bool :=
  q.lockable && (if sup == t.inSup then t.cap else t.shadow).ct.mmask.getLsbD q.num

/-- Control part of a captured socket. -/
def Captured.pipe (c : Captured) : Sock → Pipe
  | .ia => c.ia.pipe | .ib => c.ib.pipe | .ag => c.ag.pipe | .va => c.va.pipe | .vb => c.vb.pipe | .vc => c.vc.pipe
  | .sf => c.sf.pipe | .la => c.la.pipe | .lb => c.lb.pipe | _ => .empty

def Captured.setPipe (c : Captured) (q : Sock) (p : Pipe) : Captured :=
  match q with
  | .ia => { c with ia := { c.ia with pipe := p } }
  | .ib => { c with ib := { c.ib with pipe := p } }
  | .ag => { c with ag := { c.ag with pipe := p } }
  | .va => { c with va := { c.va with pipe := p } }
  | .vb => { c with vb := { c.vb with pipe := p } }
  | .vc => { c with vc := { c.vc with pipe := p } }
  | .sf => { c with sf := { c.sf with pipe := p } }
  | .la => { c with la := { c.la with pipe := p } }
  | .lb => { c with lb := { c.lb with pipe := p } }
  | _ => c

def Tile.pipe (t : Tile) : Sock → Pipe
  | .ep => t.ep.pipe
  | .gn => t.gn.pipe
  | q => t.cap.pipe q

def Tile.setPipe (t : Tile) (q : Sock) (p : Pipe) : Tile :=
  match q with
  | .ep => { t with ep := { t.ep with pipe := p } }
  | .gn => { t with gn := { t.gn with pipe := p } }
  | q => { t with cap := t.cap.setPipe q p }

def Tile.mapPipe (t : Tile) (q : Sock) (f : Pipe → Pipe) : Tile := t.setPipe q (f (t.pipe q))

/-- The two vector-socket and load-store accessors: VA, VB, VC and LA, LB by id. -/
def Captured.vec (c : Captured) : Sock → VecState
  | .vb => c.vb | .vc => c.vc | _ => c.va
def Captured.setVec (c : Captured) (q : Sock) (x : VecState) : Captured :=
  match q with
  | .va => { c with va := x } | .vb => { c with vb := x } | .vc => { c with vc := x } | _ => c
def Captured.int (c : Captured) : Sock → IntState
  | .ib => c.ib | _ => c.ia
def Captured.setInt (c : Captured) (q : Sock) (x : IntState) : Captured :=
  match q with
  | .ia => { c with ia := x } | .ib => { c with ib := x } | _ => c
def Captured.ls (c : Captured) : Sock → LsState
  | .lb => c.lb | _ => c.la
def Captured.setLs (c : Captured) (q : Sock) (x : LsState) : Captured :=
  match q with
  | .la => { c with la := x } | .lb => { c with lb := x } | _ => c
/-! ### Landing a result -/



/-- Put a landed result in the result ports of a captured socket; a data-locked socket's q0 is then full (R69, R70, R129). -/
def Captured.land (c : Captured) (q : Sock) (r : InFlight) : Captured :=
  let c := match q with
    | .ia => { c with ia := { c.ia with q0 := (r.q0.map Res.scalar).getD c.ia.q0 } }
    | .ib => { c with ib := { c.ib with q0 := (r.q0.map Res.scalar).getD c.ib.q0 } }
    | .ag => { c with ag := { c.ag with q0 := (r.q0.map Res.scalar).getD c.ag.q0 } }
    | .va => { c with va := { c.va with q0 := (r.q0.map Res.vector).getD c.va.q0, q1 := r.q1.getD c.va.q1 } }
    | .vb => { c with vb := { c.vb with q0 := (r.q0.map Res.vector).getD c.vb.q0, q1 := r.q1.getD c.vb.q1 } }
    | .vc => { c with vc := { c.vc with q0 := (r.q0.map Res.vector).getD c.vc.q0, q1 := r.q1.getD c.vc.q1 } }
    | .sf => { c with sf := { c.sf with q0 := (r.q0.map Res.vector).getD c.sf.q0 } }
    | .la => { c with la := { c.la with q0 := (r.q0.map Res.vector).getD c.la.q0 } }
    | .lb => { c with lb := { c.lb with q0 := (r.q0.map Res.vector).getD c.lb.q0 } }
    | _ => c
  let p := c.pipe q
  c.setPipe q { p with full := p.full || r.q0.isSome }

/-- A scalar as LA and LB hold it: lanes 0 and 1, the other lanes zero (R97). -/
def scalarVec (w : Word) : Vec :=
  Vec.gen fun i => if i = 0 then w.extractLsb' 0 32 else if i = 1 then w.extractLsb' 32 32 else 0

/-- Put a landed result in the ports of a socket of the tile. -/
def Tile.land (t : Tile) (q : Sock) (r : InFlight) : Tile :=
  let t := t.landFlags r.flags
  match q with
  | .ep =>
    let p := { t.ep.pipe with full := t.ep.pipe.full || r.q0.isSome }
    { t with ep := { t.ep with q0 := (r.q0.map Res.vector).getD t.ep.q0, pipe := p } }
  | .gn =>
    let p := { t.gn.pipe with full := t.gn.pipe.full || r.q0.isSome }
    { t with gn := { t.gn with q0 := (r.q0.map Res.vector).getD t.gn.q0, q1 := r.q1.getD t.gn.q1, pipe := p } }
  | .sv => { t with sv := { t.sv with q0 := (r.q0.map Res.scalar).getD t.sv.q0 } }
  | .dm => { t with dm := { t.dm with q0 := (r.q0.map Res.scalar).getD t.dm.q0 } }
  | .sy => { t with sy := { t.sy with q0 := (r.q0.map Res.scalar).getD t.sy.q0 } }
  | .tm => { t with tm := { t.tm with q0 := (r.q0.map Res.scalar).getD t.tm.q0, q1 := r.q1.getD t.tm.q1 } }
  | .sh => { t with sh := { t.sh with q0 := (r.q0.map Res.scalar).getD t.sh.q0 } }
  | q => { t with cap := t.cap.land q r }

/-- The results in flight of a socket. -/
def Tile.flight (t : Tile) : Sock → List InFlight
  | .sv => t.sv.flight | .dm => t.dm.flight | .sy => t.sy.flight | .tm => t.tm.flight | .sh => t.sh.flight
  | q => (t.pipe q).flight

def Tile.setFlight (t : Tile) (q : Sock) (l : List InFlight) : Tile :=
  match q with
  | .sv => { t with sv := { t.sv with flight := l } }
  | .dm => { t with dm := { t.dm with flight := l } }
  | .sy => { t with sy := { t.sy with flight := l } }
  | .tm => { t with tm := { t.tm with flight := l } }
  | .sh => { t with sh := { t.sh with flight := l } }
  | q => t.mapPipe q fun p => { p with flight := l }

/-- Put a result in a socket's pipeline. -/
def Tile.launchResult (t : Tile) (q : Sock) (r : InFlight) : Tile := t.setFlight q (t.flight q ++ [r])

/-! ### Source ports (R35, R36, R41) -/

/-- Messages of a queue presented to the tile: those before the first that has not arrived (R222). -/
def RxQueue.presented (q : RxQueue) : List Queued := q.messages.takeWhile fun m => m.arrived

/-- The current queue (R226). -/
def SvState.queue (v : SvState) : RxQueue := v.queues.getD (v.current - 1) RxQueue.reset

/-- SV.qbase: pointer to the header line of the first message, 0 when there is none (R226). -/
def SvState.qbase (v : SvState) : Word :=
  match v.queue.presented with
  | [] => 0
  | m :: _ => BitVec.ofNat 64 (2 ^ 60 + v.queue.base + 64 * m.line)

/-- A DCC less Σ, as the program reads it, in 64 bits (spec/21 R382): Σ is kept in 64 bits as well. -/
def unbiased (x sigma : Nat) : Nat := (x + 2 ^ 64 - sigma % 2 ^ 64) % 2 ^ 64

/-- Offset of a cycle in a tile's bay. The bay of a restored context may have begun before cycle 0 of its domain (spec/22 R393). -/
def Tile.bayOffset (t : Tile) (dcc : Nat) : Nat := ((dcc : Int) - t.bayStart).toNat

/-- DCC as a program of the domain reads it: less the launch bias Σ (spec/21 R382); zero in boot state (spec/23 R403). -/
def Domain.readDcc (d : Domain) : Word := if d.boot then 0 else BitVec.ofNat 64 (unbiased d.dcc d.sigma)

/-- TM's auxiliary ports dcc, ofs and bay (spec/04, before R92). -/
def State.tmPort (s : State) (slot : Nat) (t : Tile) (sel : Nat) : Word :=
  let d := s.domain slot
  if d.boot then 0
  else match sel with
    | 0 => d.readDcc
    | 1 => BitVec.ofNat 64 (t.bayOffset d.dcc)
    | _ => BitVec.ofNat 64 t.bay

/-- ID's ports (R94). -/
def State.idPort (s : State) (slot site : Nat) (t : Tile) (sel : Nat) : Word :=
  let (x, y) := s.xy slot site
  let w := (s.grid slot).1
  match sel with
  | 0x00 => BitVec.ofNat 64 (s.flat slot site)
  | 0x01 => BitVec.ofNat 64 x
  | 0x02 => BitVec.ofNat 64 y
  | 0x03 => BitVec.ofNat 64 (clusterOf w x y)
  | 0x04 => BitVec.ofNat 64 (rankOf x y)
  | 0x0D => t.fflagsWord
  | 0x0E => t.id.xfer
  | 0x0F => 64
  | 0x10 => predWord t.inSup
  | 0x11 => if t.inSup then (s.unit slot).supProfile else (s.unit slot).profile
  | 0x12 => (s.domain slot).spec.gridWord
  | n => if n < 0x09 then t.id.org.getD (n - 5) 0 else t.id.ext.getD (n - 9) 0

/-- Reserved counters head, head + 1, …: occupancy (tail − head) mod 16 (spec/07 R160). -/
def MxState.occupancy (m : MxState) : Nat := (m.tail + 16 - m.head) % 16

/-- A reserved slot is not ready (spec/07 R147, R161). -/
def MxState.unready (m : MxState) : Bool :=
  (List.range (min m.occupancy 8)).any fun k => m.notReady.contains ((m.head + k) % 8)

/-- What MX.pend reads (spec/07 R147). -/
def MxState.pend (m : MxState) (now : Nat) : Word :=
  BitVec.ofNat 64 ((if m.unready then 4 else 0) + (if now < m.fetchEnd then 2 else 0) + (if m.fmt.isSome then 1 else 0))

/-- Reserved bits of a rounding word read as zero (R114, R370). -/
def rndRead (w : Word) : Word := w &&& 0xFFFFFFFFFF00000F#64
/-- Reserved bits of a format word read as zero (R42, R370). -/
def fmtRead (w : Word) : Word := w &&& 0x1FFFF#64

def VecState.aux (x : VecState) (sel : Nat) : Word :=
  match sel with
  | 1 => rndRead x.rnd | 2 => x.msk | 3 => x.tbl | _ => 0

def AgState.aux (x : AgState) (sel : Nat) : Word :=
  if sel < 4 then x.base.getD sel 0 else if sel < 8 then x.step.getD (sel - 4) 0 else x.bnd.getD (sel - 8) 0

def CtState.aux (x : CtState) (sel : Nat) : Word :=
  match sel with
  | 0 => x.lnk
  | 1 => BitVec.ofNat 64 x.lcnt
  | 2 => BitVec.ofNat 64 x.lend
  | 3 => x.mmask.setWidth 64
  | _ => x.uipc

/-- A port source other than the special ones, read from the tile as it stands (R35). `now` is the cycle of the socket's clock. -/
def State.readPort (s : State) (slot site : Nat) (t : Tile) (q : Sock) (kind sel : Nat) : Res :=
  match q with
  | .ct => .s (t.cap.ct.aux sel)
  | .ia => .s t.cap.ia.q0
  | .ib => .s t.cap.ib.q0
  | .ag => if kind = 0 then .s t.cap.ag.q0 else .s (t.cap.ag.aux sel)
  | .sr => if sel < 64 then .s (t.s.getD sel 0) else .s (t.z.getD (sel - 64) 0)
  | .vr => .v (t.v.getD sel .zero)
  | .pr => if sel < 8 then .s (predWord (t.pred sel)) else .s (t.mask (sel - 8))
  | .va | .vb | .vc =>
    let x := t.cap.vec q
    if kind = 0 then .v x.q0 else if kind = 1 then .s x.q1 else .s (x.aux sel)
  | .sf => .v t.cap.sf.q0
  | .la | .lb =>
    let x := t.cap.ls q
    if kind = 0 then .v x.q0 else if sel = 0 then .v x.strd else .s x.msk
  | .mx =>
    if sel = 3 then .s (t.mx.mp.getD 3 0 &&& 0x1FFFFFFFFFFF#64)
    else if sel < 8 then .s (t.mx.mp.getD sel 0)
    else if sel = 9 then .s (BitVec.ofNat 64 t.mx.head)
    else if sel = 10 then .s (BitVec.ofNat 64 t.mx.tail)
    else .s (t.mx.pend (s.domain slot).dcc)
  | .ep =>
    if kind = 0 then .v t.ep.q0
    else match sel with
      | 0 => .v t.ep.scl
      | 1 => .v t.ep.bias
      | 2 => .s (t.ep.act &&& 0xFF#64)
      | 3 => .s (fmtRead t.ep.ofmt)
      | _ => .s t.ep.dst
  | .gn => if kind = 0 then .v t.gn.q0 else if kind = 1 then .s t.gn.q1 else .s t.gn.elem
  | .ns => if sel < 16 then .v (t.ns.ln.getD sel ⟨.zero, 0⟩).data else .s t.ns.dst
  | .sv =>
    if kind = 0 then .s t.sv.q0
    else if sel = 0 then .s (BitVec.ofNat 64 t.sv.queue.presented.length) else .s t.sv.qbase
  | .dm => if kind = 0 then .s t.dm.q0 else .s (t.dm.dp.getD sel 0)
  | .id => .s (s.idPort slot site t sel)
  | .sy => .s t.sy.q0
  | .tm => if kind = 0 then .s t.tm.q0 else if kind = 1 then .s t.tm.q1 else .s (s.tmPort slot t sel)
  | .sh => if kind = 0 then .s t.sh.q0 else .s t.sh.idx

/-- A special source (R36). -/
def specialSource (header : BitVec 64) (bundle sel : Nat) : Word :=
  let lim : BitVec 32 := header.extractLsb' 16 32
  match sel with
  | 0 => lim.signExtend 64
  | 1 => lim.setWidth 64
  | 2 => lim ++ (0 : BitVec 32)
  | _ => BitVec.ofNat 64 bundle

/-- The value of a source field (R32, R35, R36). -/
def State.readSource (s : State) (slot site : Nat) (t : Tile) (header : BitVec 64) (bundle : Nat) : Source → Res
  | .imm v => .s (v.signExtend 64)
  | .port k kind sel _ =>
    match Sock.ofNum k.toNat with
    | none => .s (specialSource header bundle sel.toNat)
    | some q => s.readPort slot site t q kind.toNat sel.toNat

/-- A read of q0 of a data-locked socket empties it (R70). -/
def Tile.emptied (t : Tile) : Source → Tile
  | .port k kind _ _ =>
    match Sock.ofNum k.toNat with
    | some q => if kind = 0 ∧ t.locked q then t.mapPipe q fun p => { p with full := false } else t
    | none => t
  | .imm _ => t

/-! ### Destination ports (R34, R40, R41) -/

def Captured.markO1 (c : Captured) (q : Sock) : Captured := c.setPipe q { c.pipe q with o1w := true }
def Captured.markO2 (c : Captured) (q : Sock) : Captured := c.setPipe q { c.pipe q with o2w := true }

/-- A move into an o1 port or a register. -/
def Tile.writeO1 (t : Tile) (q : Sock) (sel : Nat) (v : Res) : Tile :=
  let w := v.scalar
  match q with
  | .ct => { t with cap := { t.cap with ct := { t.cap.ct with o1 := w } } }
  | .ia => { t with cap := ({ t.cap with ia := { t.cap.ia with o1 := w } }).markO1 .ia }
  | .ib => { t with cap := ({ t.cap with ib := { t.cap.ib with o1 := w } }).markO1 .ib }
  | .ag => { t with cap := ({ t.cap with ag := { t.cap.ag with o1 := w } }).markO1 .ag }
  | .sr => if sel < 64 then t.setS sel w else t.setZ (sel - 64) w
  | .vr => t.setV sel v.vector
  | .pr => if sel < 8 then t.setPred sel v.pred else t.setMask (sel - 8) w
  | .va | .vb | .vc => { t with cap := (t.cap.setVec q { t.cap.vec q with o1 := v.vector }).markO1 q }
  | .la | .lb => { t with cap := (t.cap.setLs q { t.cap.ls q with o1 := w }).markO1 q }
  | .mx => { t with mx := { t.mx with o1 := w, o1w := true } }
  | .ep => { t with ep := { t.ep with o1 := w, pipe := { t.ep.pipe with o1w := true } } }
  | .gn => { t with gn := { t.gn with o1 := w, pipe := { t.gn.pipe with o1w := true } } }
  | .ns => { t with ns := { t.ns with o1 := w } }
  | .sv => { t with sv := { t.sv with o1 := w } }
  | .dm => { t with dm := { t.dm with o1 := w } }
  | .sy => { t with sy := { t.sy with o1 := w } }
  | .sh => { t with sh := { t.sh with o1 := w } }
  | .sf | .id | .tm => t

/-- A move into an o2 port. -/
def Tile.writeO2 (t : Tile) (q : Sock) (v : Res) : Tile :=
  let w := v.scalar
  match q with
  | .ia => { t with cap := ({ t.cap with ia := { t.cap.ia with o2 := w } }).markO2 .ia }
  | .ib => { t with cap := ({ t.cap with ib := { t.cap.ib with o2 := w } }).markO2 .ib }
  | .va | .vb | .vc => { t with cap := (t.cap.setVec q { t.cap.vec q with o2 := v.vector }).markO2 q }
  | .mx => { t with mx := { t.mx with o2 := w, o2w := true } }
  | .gn => { t with gn := { t.gn with o2 := v.vector, pipe := { t.gn.pipe with o2w := true } } }
  | .sv => { t with sv := { t.sv with o2 := w } }
  | .dm => { t with dm := { t.dm with o2 := w } }
  | .sy => { t with sy := { t.sy with o2 := w } }
  | _ => t

def AgState.setAux (x : AgState) (sel : Nat) (w : Word) : AgState :=
  if sel < 4 then { x with base := x.base.setIfInBounds sel w }
  else if sel < 8 then { x with step := x.step.setIfInBounds (sel - 4) w }
  else { x with bnd := x.bnd.setIfInBounds (sel - 8) w }

def VecState.setAux (x : VecState) (sel : Nat) (w : Word) : VecState :=
  match sel with
  | 0 => { x with fmt := some w, fmtWord := w }
  | 1 => { x with rnd := w }
  | 2 => { x with msk := w }
  | _ => { x with tbl := w &&& 0x3F#64 }

/-- A move into an auxiliary port. -/
def Tile.writeAux (t : Tile) (q : Sock) (sel : Nat) (v : Res) : Tile :=
  let w := v.scalar
  match q with
  | .ct =>
    if sel = 0 then { t with cap := { t.cap with ct := { t.cap.ct with lnk := w } } }
    else { t with cap := { t.cap with ct := { t.cap.ct with uipc := w } } }
  | .ag => { t with cap := { t.cap with ag := t.cap.ag.setAux sel w } }
  | .va | .vb | .vc => { t with cap := t.cap.setVec q ((t.cap.vec q).setAux sel w) }
  | .la | .lb =>
    let x := t.cap.ls q
    { t with cap := t.cap.setLs q (if sel = 0 then { x with strd := v.vector } else { x with msk := w }) }
  | .mx =>
    if sel < 8 then { t with mx := { t.mx with mp := t.mx.mp.setIfInBounds sel w } }
    else { t with mx := { t.mx with fmt := some w, fmtWord := w } }
  | .ep =>
    match sel with
    | 0 => { t with ep := { t.ep with scl := v.vector } }
    | 1 => { t with ep := { t.ep with bias := v.vector } }
    | 2 => { t with ep := { t.ep with act := w } }
    | 3 => { t with ep := { t.ep with ofmt := w } }
    | _ => { t with ep := { t.ep with dst := w } }
  | .gn => { t with gn := { t.gn with elem := w } }
  | .ns => { t with ns := { t.ns with dst := w } }
  | .dm => { t with dm := { t.dm with dp := t.dm.dp.setIfInBounds sel w } }
  | .id => t.writeFflags w
  | .sh => { t with sh := { t.sh with idx := w } }
  | _ => t

/-- A move into a port or register: kinds 0, 1 and 3 (R34). A trigger writes nothing here. -/
def Tile.writePort (t : Tile) (q : Sock) (kind sel : Nat) (v : Res) : Tile :=
  if kind = 0 then t.writeO1 q sel v
  else if kind = 1 then t.writeO2 q v
  else if kind = 3 then t.writeAux q sel v
  else t

end Sys2Proof.Machine
end

