-- ==== Sys2Proof/Machine/Order.lean ====
section
/-!
DEFINITION. The ordering promise: the scopes, the accesses a tile has still to perform, what a release waits for and what it carries
on, and what an acquire takes over (spec/12 R253 to R257).
-/
namespace Sys2Proof.Machine

/-! ### Scopes (R253) -/

/-- Place of a stack, and of the barrier pool, in an `Outstanding`; the sites come below. -/
def stackPlace (k : Nat) : Nat := 8448 + k
def poolPlace : Nat := 8480

/-- A tile is a party of a scope of a tile of a domain: 0 itself, 1 its cluster, 2 its domain, 3 and 4 all tiles. -/
def State.scopeSite (s : State) (slot site scope other : Nat) : Bool :=
  let (p, q) := (s.xy slot site, s.xy slot other)
  match scope with
  | 0 => other == site
  | 1 => s.slotOf other == some slot && p.1 / 4 == q.1 / 4 && p.2 / 4 == q.2 / 4
  | 2 => s.slotOf other == some slot
  | _ => true

/-- A place is a location of a scope: SRAM of its tiles, the stacks the domain owns, all memory with the pool. -/
def State.scopePlace (s : State) (slot site scope place : Nat) : Bool :=
  if place < stackPlace 0 then s.scopeSite slot site scope place
  else if place < poolPlace then decide (3 ≤ scope) || (scope == 2 && (s.domain slot).spec.owns (place - stackPlace 0))
  else decide (3 ≤ scope)

/-- An access lies within a scope: its issuer and its location do; engines are parties from the domain scope on. -/
def State.inScope (s : State) (slot site scope : Nat) (o : Outstanding) : Bool :=
  s.scopeSite slot site scope o.issuer && (!o.engine || decide (2 ≤ scope)) && o.places.any fun p => s.scopePlace slot site scope p

/-- The smallest of cluster, domain and module that holds a tile and others (R255). -/
def State.smallestScope (s : State) (slot site : Nat) (others : List Nat) : Nat :=
  if others.all (s.scopeSite slot site 1) then 1 else if others.all (s.scopeSite slot site 2) then 2 else 3

/-! ### Accesses that have not performed (R248, R254) -/

/-- The site an SRAM pointer names from a tile. -/
def State.placeOf (s : State) (slot site : Nat) (p : Word) : List Nat :=
  match s.resolve slot site [1, 2, 3, 7] p with
  | .sram k _ => [k]
  | .bad _ => []

/-- Accesses of a list that are still to perform. -/
def openAccesses (site : Nat) (l : List Access) : List Outstanding :=
  (l.filter fun a => a.pending).map fun a => ⟨a.id, site, false, [a.owner]⟩

/-- The lines that a tile's matrix unit and epilogue have still to access. -/
def State.unitAccesses (s : State) (slot site : Nat) : List Outstanding :=
  let t := s.tile site
  let now := (s.domain slot).dcc
  (t.ep.drains.map fun d => ⟨d.id, site, false, if d.kind = .net then s.placeOf slot site d.dst else [site]⟩) ++
    (t.mx.routines.filter fun r => decide (now < r.fetchEnd)).map fun r =>
      ⟨r.id, site, false, [r.pA, r.pB, r.pSA, r.pSB, r.pL].flatMap (s.placeOf slot site)⟩

/-- A command of a tile, as a release knows it; untimed copies, and the launch unit's fills, are in no release set. -/
def Command.outstanding (site : Nat) (c : Command) : Option Outstanding :=
  if c.site = site ∧ c.form ≠ .ucopy ∧ !c.places.isEmpty then some ⟨c.id, site, true, c.places⟩ else none

/-- Commands that the drain of a pre-emption holds, and those that it has saved (spec/21 R382): their writes are still to come. -/
def State.keptCommands (s : State) (slot : Nat) : List Command := match (s.domain slot).draining with | some x => x.held | none => []
def State.awayCommands (s : State) (slot : Nat) : List Outstanding := (s.unit slot).away.flatMap (·.held)

/-- The accesses a tile has issued that are still to perform: of LA, LB and the timed local reads, of MX and EP, deposits, engine
commands, and the queue lines of its messages. -/
def State.outstanding (s : State) (slot site : Nat) : List Outstanding :=
  let t := s.tile site
  let d := s.domain slot
  openAccesses site (t.cap.la.local_ ++ t.cap.lb.local_ ++ t.shadow.la.local_ ++ t.shadow.lb.local_)
    ++ openAccesses site ((d.reach.filter fun r => r.access.site = site).map (·.access))
    ++ (t.blocks.map fun b => ⟨b.id, site, false, [site]⟩)
    ++ s.unitAccesses slot site
    ++ ((d.mesh.filter fun i => i.src = site ∧ i.payload.isDeposit).map fun i => ⟨i.cause, site, false, [i.dst]⟩)
    ++ (d.commands ++ s.keptCommands slot).filterMap (Command.outstanding site)
    ++ ((s.awayCommands slot).filter fun o => o.issuer = site)
    ++ ((s.messages.filter fun m => m.src = site).map fun m => ⟨m.id, site, false, [m.dst]⟩)

/-- Identifiers of the loose replies a tile awaits. -/
def State.replyIds (s : State) (site : Nat) : List Nat := (s.tile site).dm.replies.map (·.id)

/-- A command is in progress, or kept, anywhere in the module: its tile may have lost its context since. -/
def State.hasCommand (s : State) (id : Nat) : Bool :=
  s.domains.any fun p => ((p.2.commands ++ s.keptCommands p.1).any fun c => c.id == id) || (s.awayCommands p.1).any fun o => o.id == id

/-- An access has still to perform; a reply has still to land. -/
def State.stillOpen (s : State) (o : Outstanding) : Bool :=
  if o.places.isEmpty then (s.replyIds o.issuer).contains o.id
  else s.hasCommand o.id ||
    (match s.slotOf o.issuer with
      | some slot => (s.outstanding slot o.issuer).any fun x => x.id == o.id
      | none => false)

/-! ### Release and acquire (R254 to R256) -/

/-- Timed accesses of a tile are still to perform. -/
def State.timedPending (s : State) (slot site : Nat) : Bool :=
  let t := s.tile site
  let d := s.domain slot
  (t.cap.la.local_ ++ t.cap.lb.local_).any (·.pending) || d.reach.any (fun r => r.access.site == site && r.access.pending) ||
    !t.blocks.isEmpty || !(s.unitAccesses slot site).isEmpty || d.mesh.any (fun i => i.src == site && i.payload.isDeposit) ||
    d.commands.any fun c => c.site == site && !c.loose && c.form != .ucopy && c.form != .fabric

/-- What happens before a tile's release by the perform cycles of timed accesses alone: what another tile of the domain issued, or has
acquired, before a timed access of its own that performs before one of this tile (R250, R256; notes/assumptions/26.md). -/
def State.peerSet (s : State) (slot site : Nat) : List Outstanding :=
  let pending := s.timedPending slot site
  if (s.tile site).timedId == 0 && !pending then []
  else ((s.domainSites slot).filter fun k => k ≠ site).flatMap fun k =>
    let t := s.tile k
    (s.outstanding slot k).filter (fun o => pending || decide (o.id < t.timedId)) ++ (if t.timedId == 0 && !pending then [] else t.known)

/-- The release set of a tile: what it has issued, what happens before through its acquires, and what happens before through the order of
the timed accesses of its domain (R254, R256). -/
def State.releaseSet (s : State) (slot site : Nat) : List Outstanding :=
  s.outstanding slot site ++ (s.tile site).known ++ s.peerSet slot site

/-- The replies of bchks of a tile that have still to land: what they acquire happens before every later release of the tile (R255, R256). -/
def State.unobserved (s : State) (site : Nat) : List Outstanding :=
  ((s.tile site).dm.replies.filter fun r => r.acquires).map fun r => ⟨r.id, site, false, []⟩

/-- What an untimed operation of a tile waits for: what its fences hold it for, and, when it releases at a scope, the part of the
release set within that scope, with the replies of earlier bchks. -/
def State.signalWaits (s : State) (slot site : Nat) (scope : Option Nat) : List Outstanding :=
  (s.tile site).holds ++ (match scope with
    | some n => (s.releaseSet slot site).filter (s.inScope slot site n) ++ s.unobserved site
    | none => [])

/-- The part of the release set that a release at a scope does not wait for, and carries on. -/
def State.signalRest (s : State) (slot site scope : Nat) : List Outstanding :=
  (s.releaseSet slot site).filter fun o => !s.inScope slot site scope o

/-- Nothing that a signal waits for is open any more: it departs. -/
def State.departs (s : State) (waits : List Outstanding) : Bool := waits.all fun o => !s.stillOpen o

/-- What waits for a bchk's reply waits, once that lands, for what it has acquired. -/
def joinWaits (id : Nat) (acquired l : List Outstanding) : List Outstanding :=
  if l.any fun o => o.id == id && o.places.isEmpty then l ++ acquired else l

/-- A bchk has landed: what it has acquired happens before every release of its tile that was issued after it (R255, R256). -/
def State.passAcquired (s : State) (site id : Nat) (acquired : List Outstanding) : State :=
  if acquired.isEmpty then s
  else
    let join := joinWaits id acquired
    let s := s.mapTile site fun t => { t with holds := join t.holds }
    { s with messages := s.messages.map fun m => { m with waits := join m.waits },
             requests := s.requests.map fun m => { m with waits := join m.waits },
             domains := s.domains.map fun p => (p.1, { p.2 with commands := p.2.commands.map fun c => { c with waits := join c.waits } }) }

/-- A tile takes over what an acquire has observed, from the next cycle on. -/
def Tile.learn (t : Tile) (l : List Outstanding) : Tile := { t with knownNext := t.knownNext ++ l }

/-- The releases of a word with a new one, without what has performed since. -/
def State.withRelease (s : State) (rs : List Release) (r : Release) : List Release :=
  ((rs ++ [r]).map fun x => { x with rest := x.rest.filter s.stillOpen }).filter fun x => !x.rest.isEmpty

/-- What an acquire of a tile at a scope takes over from the releases it observes: those that synchronise with it (R256). -/
def State.acquireFrom (s : State) (slot site scope : Nat) (rs : List Release) : List Outstanding :=
  rs.flatMap fun r =>
    let near : Bool := match s.slotOf r.site with
      | some k => s.scopeSite k r.site r.scope site
      | none => decide (3 ≤ r.scope)
    if near && s.scopeSite slot site scope r.site then r.rest.filter s.stillOpen else []

/-- What a fence holds for, and what a tile knows of others, is forgotten once it has performed. -/
def State.pruneHolds (s : State) (site : Nat) : State :=
  let t := s.tile site
  if t.holds.isEmpty && t.known.isEmpty then s
  else s.setTile site { t with holds := t.holds.filter s.stillOpen, known := t.known.filter s.stillOpen }

end Sys2Proof.Machine
end

