-- ==== Sys2Proof/Machine/Ops.lean ====
section
/-!
DEFINITION. The shared operations of every meaning: free values, the archive's queue, detecting an event (taking a fault), the
freeze and the entry into the supervisor context with its record, the return from it, and the firing of a trigger
(spec/20 R359 to R366, spec/21 R372 to R381, spec/22 R387 to R389, spec/02 R33, R38, spec/04 R70).
-/
namespace Sys2Proof.Machine

/-- What a meaning answers. -/
abbrev Result := Host.Outcome State Fault Refusal

/-! ### Free values (notes/assumptions/1.md) -/

/-- A number the manual leaves open, below `bound` (0 when the bound is 0); every draw is a fresh one. -/
def State.draw (s : State) (bound : Nat) : Nat := Config.freeNat s.draws % bound

/-- The state after a free value has been drawn. -/
def State.drawn (s : State) : State := { s with draws := s.draws + 1 }

/-- The free bytes of a draw. -/
def freeBytes (d n : Nat) : List Byte := (List.range n).map fun i => BitVec.ofNat 8 (Config.freeNat (d + i))

/-- A fresh identifier. -/
def State.fresh (s : State) : State := { s with nextId := s.nextId + 1 }

/-! ### SRAM with its error words (spec/20 R367, R368) -/

/-- An 8-byte word of a span of SRAM holds an uncorrectable error. -/
def State.sramBad (s : State) (site off n : Nat) : Bool :=
  s.badWords.any fun a => decide (a < sramAddr site off + n) && decide (sramAddr site off < a + 8)

/-- The 64-byte SRAM line of the first word of a span that holds an uncorrectable error (spec/10 R197, spec/20 R364). -/
def State.badLine (s : State) (site off n : Nat) : Nat :=
  let inLine (l : Nat) : Bool := s.sramBad site (max off (64 * l)) (min (off + n) (64 * l + 64) - max off (64 * l))
  64 * (((List.range (n / 64 + 2)).map (off / 64 + ·)).find? inLine).getD (off / 64)

/-- A write of a span covers only part of a word that holds an uncorrectable error: it does not perform (R368). -/
def State.sramPartial (s : State) (site off n : Nat) : Bool :=
  s.badWords.any fun a =>
    let lo := sramAddr site off
    decide (a < lo + n) && decide (lo < a + 8) && !(decide (lo ≤ a) && decide (a + 8 ≤ lo + n))

/-- Write bytes at an SRAM offset; a word written whole loses its error (R368). -/
def State.sramWrite (s : State) (site off : Nat) (bs : List Byte) : State :=
  let lo := sramAddr site off
  let s := s.writeBytes lo bs
  { s with badWords := s.badWords.filter fun a => !(decide (lo ≤ a) && decide (a + 8 ≤ lo + bs.length)) }

/-- Read bytes at an SRAM offset. -/
def State.sramRead (s : State) (site off n : Nat) : List Byte := s.readBytes (sramAddr site off) n

/-- Write bytes at an offset of an instruction store; bundles written whole lose their errors (R368). -/
def State.istoreWrite (s : State) (site off : Nat) (bs : List Byte) : State :=
  let lo := istoreAddr site off
  { s.writeBytes lo bs with badWords := s.badWords.filter fun a => !(decide (lo ≤ a) && decide (a + 8 ≤ lo + bs.length)) }

/-- A line of an instruction store performs in this cycle: it joins the store once the cycle's bundles have been read (spec/11 R240). -/
def State.istoreLater (s : State) (site off : Nat) (bs : List Byte) : State := { s with arriving := s.arriving ++ [(site, off, bs)] }

/-- The lines of the cycle join their instruction stores. -/
def State.settleStores (s : State) : State :=
  s.arriving.foldl (fun s x => s.istoreWrite x.1 x.2.1 x.2.2) { s with arriving := [] }

/-! ### The banks of a cycle (spec/10 R197, R200) -/

/-- The banks of a span of bytes. -/
def banksOf (off len : Nat) : List Nat :=
  if len = 0 then [] else (List.range ((off + len - 1) / 64 + 1 - off / 64)).map fun k => (off / 64 + k) % 16

/-- A bank of a span is in use in this cycle. -/
def State.bankTaken (s : State) (site off len : Nat) : Bool := (banksOf off len).any fun b => s.taken.contains (site, b)

/-- The banks of a span are in use for the rest of this cycle. -/
def State.useBanks (s : State) (site off len : Nat) : State := { s with taken := s.taken ++ (banksOf off len).map fun b => (site, b) }

/-! ### Clocks -/

/-- The cycle of the context that issues on a tile: DCC, or the domain's pulse count for the supervisor context, whose latencies
count service cycles (R374). -/
def State.now (s : State) (slot site : Nat) : Nat :=
  if (s.tile site).inSup then (s.domain slot).pulses else (s.domain slot).dcc

/-! ### The archive (R387 to R389) -/

/-- Place of an event among those of one DCC: source, the uncore last, then kind (R389). -/
def ArchiveEvent.rank (e : ArchiveEvent) : Nat := (if e.uncore then 1024 else e.tile) * 256 + e.kind

/-- Insert an event into the queue in the order of R389. -/
def archiveInsert (e : ArchiveEvent) : List ArchiveEvent → List ArchiveEvent
  | [] => [e]
  | x :: t => if x.dcc = e.dcc ∧ x.slot = e.slot ∧ e.rank < x.rank then e :: x :: t else x :: archiveInsert e t

/-- Queue an event; in the order of R389 the one that finds the queue of 64 full is dropped and counted: of one DCC the last. -/
def Die.archive (d : Die) (e : ArchiveEvent) : Die :=
  let q := archiveInsert e d.queue
  if d.queue.length < 64 then { d with queue := q } else { d with queue := q.take 64, dropped := d.dropped + 1 }

/-- DCC of a domain, which the launch bias does not change here; of a die in boot state its reference-cycle count × 6, with N = 1 (R387). -/
def State.archiveTime (s : State) (slot die : Nat) : Nat :=
  if (s.domain slot).boot then (s.die die).refCycles * 6 else (s.domain slot).dcc

/-- Archive an event of a tile on its die (R387). -/
def State.archiveTile (s : State) (slot site kind code : Nat) (w2 w3 : Word) : State :=
  let die := siteDie site
  let e : ArchiveEvent := ⟨s.archiveTime slot die, slot % 16, siteRow site * 32 + (s.logicalCol site).getD 0,
    (s.domain slot).boot, false, kind, code, w2, w3⟩
  s.setDie die ((s.die die).archive e)

/-- An event of a die's uncore, for a domain, and one that belongs to none (R387: N = 1). -/
def State.uncoreEvent (s : State) (die slot kind code : Nat) (w2 w3 : Word) : ArchiveEvent :=
  ⟨s.archiveTime slot die, slot % 16, 0, (s.domain slot).boot, true, kind, code, w2, w3⟩
def State.looseEvent (s : State) (die kind code : Nat) (w2 w3 : Word) : ArchiveEvent :=
  ⟨(s.die die).refCycles * 6, 0, 0, true, true, kind, code, w2, w3⟩

/-- Archive an event of a die's uncore, for a domain (R387). -/
def State.archiveUncore (s : State) (die slot kind code : Nat) (w2 w3 : Word) : State :=
  s.setDie die ((s.die die).archive (s.uncoreEvent die slot kind code w2 w3))

/-- Archive an event that belongs to no domain. -/
def State.archiveLoose (s : State) (die kind code : Nat) (w2 w3 : Word) : State :=
  s.setDie die ((s.die die).archive (s.looseEvent die kind code w2 w3))

/-- The event of a die's uncore for the domain of some slot, else for the lowest-numbered domain with an island on the die; for none
where the die has none. -/
def State.dieEvent (s : State) (die : Nat) (slot : Option Nat) (kind code : Nat) (w2 w3 : Word) : ArchiveEvent :=
  match slot <|> ((s.domains.filter fun p => p.1 < 16 ∧ p.2.spec.dies.contains die).head?.map (·.1)) with
  | some k => s.uncoreEvent die k kind code w2 w3
  | none => s.looseEvent die kind code w2 w3

/-- The die of the tile with flat number 0 of a domain. -/
def State.headDie (s : State) (slot : Nat) : Nat := ((s.siteOfFlat slot 0).map siteDie).getD 0

/-! ### Records (R363) -/

/-- The bundle a context issues next: the idle run in progress, or the pc (R363). -/
def Thread.next (h : Thread) : Nat := if 0 < h.idle then h.idleAt else h.pc

/-- Write the resume index; an idle run in progress keeps its remaining count (spec/21 R376). -/
def Thread.resumeAt (h : Thread) (i : Nat) : Thread := if 0 < h.idle then { h with idleAt := i, pc := (i + 1) % 1024 } else { h with pc := i }

/-- Write the remaining idle count. -/
def Thread.setIdle (h : Thread) (n : Nat) : Thread :=
  if n = 0 then { h with pc := h.next, idle := 0 }
  else if 0 < h.idle then { h with idle := n }
  else { h with idle := n, idleAt := h.pc, pc := (h.pc + 1) % 1024 }

/-- Record word 0 (R363). -/
def recordHead (cause later slot : Nat) (valid sup timed : Bool) (bundle resume : Nat) : Word :=
  BitVec.ofNat 64 (cause * 2 ^ 48 + later * 2 ^ 40 + slot * 2 ^ 32 + (if valid then 2 ^ 31 else 0) + (if sup then 2 ^ 30 else 0)
    + (if timed then 2 ^ 29 else 0) + bundle * 2 ^ 16 + resume)

/-- The sixteen words of a record (R363, R364); DCCs are read less Σ (spec/21 R382), and the issue cycle is zero where no bundle is
named. -/
def Event.record (e : Event) (later resume freezeDcc flat sigma : Nat) : Vector Word 16 :=
  Vector.ofFn fun i =>
    match i.val with
    | 0 => recordHead e.cause later e.slot true e.sup e.timed e.bundle resume
    | 1 => BitVec.ofNat 64 (unbiased e.due sigma)
    | 2 => BitVec.ofNat 64 (unbiased freezeDcc sigma)
    | 3 => if e.issue = 0 then 0 else BitVec.ofNat 64 (unbiased e.issue sigma)
    | 4 => BitVec.ofNat 64 (e.bay * 2 ^ 32 + e.offset % 2 ^ 32)
    | 5 => BitVec.ofNat 64 flat
    | 6 => e.value
    | 7 => e.detail
    | 15 => e.detail2
    | n => e.copy.getD (n - 8) 0

/-! ### Detecting an event (R361, R362) -/

/-- Order of the classes when several events fall in one cycle: 5, 1, 3, 2, 4, 6 (R362). -/
def classRank (cause : Nat) : Nat :=
  match cause / 0x1000 with
  | 5 => 0 | 1 => 1 | 3 => 2 | 2 => 3 | 4 => 4 | 6 => 5 | _ => 6

/-- The event that is kept of two of one cycle: class, slot, code (R362). -/
def Event.before (a b : Event) : Bool :=
  let ka := classRank a.cause * 2 ^ 24 + a.slot * 2 ^ 16 + a.cause
  let kb := classRank b.cause * 2 ^ 24 + b.slot * 2 ^ 16 + b.cause
  decide (ka < kb)

/-- Causes that do not stop the detecting tile before F (R361). -/
def causeRunsOn (cause : Nat) : Bool := cause / 0x1000 == 6 || cause == 0x5005 || cause == 0x5006 || cause == 0

/-- Keep an event, or count it (R362); the tile issues nothing more unless the cause lets it run on (R361). -/
def Tile.detect (t : Tile) (e : Event) : Tile :=
  let t := if t.stopped || causeRunsOn e.cause then t else { t with stopped := true, stoppedAt := e.due }
  match t.event with
  | none => { t with event := some e }
  | some k =>
    let t := { t with later := min 255 (t.later + 1) }
    if k.due = e.due ∧ e.before k then { t with event := some e } else t

/-- A freeze is fixed at d + 40 by the first detection in the domain (R361); the end of a debug step that falls later gives way
(spec/21 R385). -/
def Domain.planFault (d : Domain) (flat cause : Nat) : Domain :=
  let p : FreezePlan := ⟨d.dcc, d.dcc + 40, flat, cause, 0, .fault⟩
  match d.plan with
  | some q => if d.stepUntil.isSome ∧ p.due < q.due then { d with plan := some p, stepUntil := none } else d
  | none => { d with plan := some p }

/-- A freeze that an event of a pre-emption's drain fixes, by the context's own cycles (spec/21 R382). -/
def Domain.planDrained (d : Domain) (flat cause : Nat) : Domain :=
  { d with draining := d.draining.map fun x =>
      { x with plan := some (x.plan.getD ⟨d.dcc, d.dcc + 40, flat, cause, 0, .fault⟩) } }

/-- A step is put off to a later tick. -/
def State.later (s : State) (i : Instr) (ticks : Nat := 1) : State := { s with inputs := s.inputs ++ [⟨s.tick + ticks, i⟩] }

/-- The MMC resets a die in boot state whose tile has wedged, after a free time (spec/23 R403). -/
def State.resetLater (s : State) (die : Nat) : State :=
  if s.inputs.any fun x => x.instr == .coreReset die then s else (s.later (.coreReset die) (1 + Config.freeNat s.draws)).drawn

/-- A supervisor fault in a frozen domain, and every fault in boot state, wedges the tile (R375, spec/23 R403). -/
def State.wedge (s : State) (slot site cause : Nat) : State :=
  let s := (s.mapTile site fun t => { t with wedged := true }).archiveTile slot site 0x0F cause 0 0
  if (s.domain slot).boot then s.resetLater (siteDie site) else s

/-- The event of a detection: where the issuing bundle stood, and the detail words. -/
def State.eventOf (s : State) (slot site : Nat) (o : Origin) (cause : Nat) (value w7 w15 : Word) (copy : List Word) : Event :=
  ⟨cause, o.slot, (s.domain slot).dcc, o.bundle, o.sup, !(s.tile site).loose, o.cycle, o.bay, o.offset, value, w7, copy, w15⟩

/-- TAKING A FAULT: an event is detected in a tile (R361, R362). Outside a frozen domain it is kept for the record, the tile
stops, the domain's freeze is fixed and the archive takes an entry; in a frozen domain a supervisor's fault wedges its tile;
in the drain of a pre-emption the freeze is taken when the context resumes; in that of a cancel the event only reaches the archive
(spec/15 R416). -/
def State.raiseValue (s : State) (slot site : Nat) (o : Origin) (cause : Nat) (value w7 w15 : Word) (copy : List Word) : State :=
  let d := s.domain slot
  let t := s.tile site
  if d.boot ∨ (d.frozen ∧ o.sup) then s.wedge slot site cause
  else
    let e := s.eventOf slot site o cause value w7 w15 copy
    let head := recordHead e.cause 0 e.slot true e.sup e.timed e.bundle t.user.next
    let s := s.archiveTile slot site 0x01 cause head w7
    match d.draining with
    | some x =>
      if x.cancel then s
      else (s.mapTile site fun t => t.detect e).mapDomain slot fun d => d.planDrained (s.flat slot site) cause
    | none => (s.mapTile site fun t => t.detect e).mapDomain slot fun d => d.planFault (s.flat slot site) cause

/-- A fault of a move: word 6 holds the slot's value (R363). -/
def State.raise (s : State) (slot site : Nat) (o : Origin) (cause : Nat) (w7 w15 : Word) (copy : List Word) : State :=
  s.raiseValue slot site o cause (o.slotValue.setWidth 64) w7 w15 copy

/-- An event in which no move of the tile is named: slot 0xFF (R363). -/
def State.raiseBare (s : State) (slot site : Nat) (cause : Nat) (w7 w15 : Word) (copy : List Word) : State :=
  s.raiseValue slot site { Origin.none with sup := false } cause 0 w7 w15 copy

/-! ### The freeze and the supervisor context (R361, R363, R372) -/

/-- The record a tile receives at F: its own event's; else class 6 for a stop, or class 0 (R362, R363, spec/21 R381). -/
def Tile.freezeRecord (t : Tile) (p : FreezePlan) (sigma : Nat) : Vector Word 16 :=
  match t.event with
  | some e => e.record (min 255 (t.later + p.stops)) t.user.next p.due p.tile sigma
  | none =>
    let cause := if p.cause = 0x6002 then 0x6002 else 0
    let e : Event := ⟨cause, 0xFF, p.detected, 0, false, !t.loose, 0, 0, 0, 0, 0, [], 0⟩
    e.record (min 255 (t.later + p.stops)) t.user.next p.due p.tile sigma

/-- After a fault of its own a timed tile resumes loose (R369). -/
def Tile.resumesLoose (t : Tile) : Bool :=
  t.loose || (match t.event with
    | some e => !causeRunsOn e.cause || e.cause == 0x6003
    | none => false)

/-- The capture of R372 and the entry of R361: the user state of the captured sockets moves into the shadow, the supervisor
sees its own copy, and issues from index 960 at the fourth service cycle after F (R374). -/
def Tile.enterSupervisor (t : Tile) (record : Vector Word 16) (pulses freezeDcc offset : Nat) (loose : Bool) : Tile :=
  let t := if t.inSup then t else
    { t with cap := t.shadow, shadow := t.cap, id := { t.id with landed := 0, landedAtF := t.id.landed } }
  { t with inSup := true, sup := { Thread.reset with pc := 960 }, supFrom := pulses + 4, ready := false, supHalted := false,
           record := record, frozenAt := freezeDcc, frozenOfs := offset, event := none, later := 0, loose := loose, haltAt := none }

/-- The items of a list whose places are not among some numbers. -/
def keepValid {α : Type} (l : List α) (invalid : List Nat) : List α := (l.zipIdx.filter fun x => !invalid.contains x.2).map (·.1)

/-- At the return the entries made invalid go: they neither land nor perform (spec/21 R377). -/
def Captured.prune (c : Captured) : Captured :=
  [Sock.ia, .ib, .ag, .va, .vb, .vc, .sf, .la, .lb].foldl (init := c) fun c q =>
    let p := c.pipe q
    let ls : Bool := q = .la ∨ q = .lb
    let c := if ls then c.setLs q { c.ls q with local_ := keepValid (c.ls q).local_ p.invalid } else c
    c.setPipe q { c.pipe q with flight := if ls then p.flight else keepValid p.flight p.invalid, invalid := [] }

/-- The return: each captured socket takes back its shadow state, and the supervisor's copy is kept (R372, R378). An event that the
supervisor of a halted tile has detected keeps the tile stopped until the freeze that it has fixed (spec/14 R276, spec/20 R361). -/
def Tile.leaveSupervisor (t : Tile) : Tile :=
  if t.inSup then
    { t with cap := t.shadow.prune, shadow := t.cap, inSup := false, ready := false, stopped := t.stopped && t.event.isSome,
             loose := t.loose || t.groupHalted, groupHalted := false }
  else t

/-- Apply a function to every tile of a domain. -/
def State.mapDomainTiles (s : State) (slot : Nat) (f : Tile → Tile) : State :=
  (s.domainSites slot).foldl (fun s site => s.mapTile site f) s

/-- The freeze of a domain at F (R361, R372): every tile enters its supervisor context with its record. -/
def State.freezeDomain (s : State) (slot : Nat) (p : FreezePlan) : State :=
  let d := s.domain slot
  let enter (t : Tile) : Tile :=
    t.enterSupervisor (t.freezeRecord p d.sigma) d.pulses d.dcc (t.bayOffset d.dcc) t.resumesLoose
  let s := s.mapDomainTiles slot enter
  let s := s.mapDomain slot fun d =>
    { d with frozen := true, frozenPulse := d.pulses, plan := none, use := p.use, stepUntil := none }
  let die := ((s.siteOfFlat slot (p.tile % 8192)).map siteDie).getD (s.headDie slot)
  s.archiveUncore die slot 0x02 p.cause (BitVec.ofNat 64 p.due) (BitVec.ofNat 64 p.tile)

/-- The domain resumes at DCC F (R378). -/
def State.resumeDomain (s : State) (slot : Nat) (shift : Nat) : State :=
  let d := s.domain slot
  let s := s.mapDomainTiles slot Tile.leaveSupervisor
  let s := s.mapDomain slot fun d => { d with frozen := false, use := .fault }
  s.archiveUncore (s.headDie slot) slot 0x03 0 (BitVec.ofNat 64 d.dcc) (BitVec.ofNat 64 shift)

/-- The V bit of a record (R365). -/
def recordValid (r : Vector Word 16) : Bool := (r.getD 0 0).getLsbD 31

/-- SY.eret sets V to 0 (R365). -/
def Tile.clearRecord (t : Tile) : Tile := { t with record := t.record.setIfInBounds 0 (t.record.getD 0 0 &&& ~~~(0x80000000#64)) }

/-! ### Requester words (R364) -/

/-- A requester word: kind, whether it performed, and, for a requester the recording tile issued, its slot and bundle. -/
def requesterWord (kind : Nat) (performed own : Bool) (flat slot bundle : Nat) : Word :=
  BitVec.ofNat 64 (kind * 2 ^ 61 + (if performed then 2 ^ 60 else 0) + flat * 2 ^ 35
    + (if own then 2 ^ 59 + slot * 2 ^ 30 + bundle * 2 ^ 20 else 0))

/-! ### Requests to a launch unit (spec/15 R296, R304, spec/11 R227) -/

/-- A request that a reply or a grant answers; marks have none (spec/15 R297). -/
def UnitRequest.isDesk : UnitRequest → Bool
  | .desk _ => true
  | _ => false
def UnitRequest.answered : UnitRequest → Bool
  | .desk (.request _ _ _ _) => true
  | .desk _ => false
  | _ => true

/-- A tile sends a request to the launch unit of a slot. The cycles until the catwalk takes it and until it arrives are free
values (spec/01 R19). -/
def State.postUnit (s : State) (site slot : Nat) (request : UnitRequest) (buffered : Bool) (waits rest : List Outstanding) : State :=
  let m : UnitMessage :=
    ⟨s.nextId, site, slot, request, buffered, false, waits, rest, Config.freeNat s.draws, 1 + Config.freeNat (s.draws + 1)⟩
  let owed := if request.answered && buffered then [⟨m.id, site, slot, request.isDesk, none⟩] else []
  let s := { s with requests := s.requests ++ [m], owed := s.owed ++ owed, nextId := s.nextId + 1, draws := s.draws + 2 }
  if buffered then s.mapTile site fun t => { t with sv := { t.sv with sendBuffer := t.sv.sendBuffer ++ [m.id] } } else s

/-! ### Arrivals at a pier (spec/01 R24, spec/04 R87) -/

/-- A tile counts as arrived: it waits at the pier or has halted. -/
def Tile.atPier (t : Tile) : Bool := t.arrived || t.halted

/-- The last arrival of all modules, once every one has been heard of (R24, spec/13 R263). -/
def Domain.lastArrival (d : Domain) : Option Nat :=
  let heard (m : Nat) : Bool := m == d.spec.rank || d.pier.others.any fun x => x.1 == m
  match d.pier.allArrived with
  | some a =>
    if d.spec.cls ≠ .multi then some a
    else if (List.range d.spec.modules).all heard then some (d.pier.others.foldl (fun n x => max n x.2) a)
    else none
  | none => none

/-- A beacon flit with nothing but the sender's rank, and of the master its DCC (spec/13 R266). -/
def Domain.plainBeacon (d : Domain) : Beacon :=
  ⟨d.spec.rank, if d.spec.beaconMaster then some (BitVec.ofNat 64 d.dcc) else none, none, none, none, none⟩

/-- A module of a multi-module domain announces something in a beacon flit at once (spec/13 R263, R265, R266). -/
def State.announce (s : State) (slot : Nat) (f : Beacon → Beacon) : State :=
  let d := s.domain slot
  if d.spec.cls = .multi then { s with agenda := ⟨0, slot, Origin.none, .timeBeacon slot (f d.plainBeacon)⟩ :: s.agenda } else s

/-- The last arrival fixes the release: the class pier latency later (R24). One of which a module hears later than that releases it in the
next cycle (notes/assumptions/55.md). -/
def Domain.fixRelease (d : Domain) : Domain :=
  match d.pier.releaseAt, d.lastArrival with
  | none, some a => { d with pier := { d.pier with releaseAt := some (max (a + d.spec.pierLatency) (d.dcc + 1)) } }
  | _, _ => d

/-- After an arrival: the first of a bay starts the watchdog's count, and the last, which the other modules of a multi-module domain are
told of, fixes the release (R24, spec/13 R263, spec/15 R306). -/
def State.notePier (s : State) (slot : Nat) : State :=
  let d := s.domain slot
  let sites := s.domainSites slot
  let all : Bool := (sites.all fun k => (s.tile k).atPier) && (sites.any fun k => (s.tile k).arrived)
  let pier : PierState := { d.pier with
    firstArrival := some (d.pier.firstArrival.getD (d.dcc : Int))
    allArrived := if all && d.pier.allArrived.isNone then some d.dcc else d.pier.allArrived }
  let s := s.setDomain slot ({ d with pier := pier }.fixRelease)
  if all && d.pier.allArrived.isNone then s.announce slot fun b => { b with arrival := some (d.spec.rank, d.dcc) } else s

/-- A pier begins anew: no tile has arrived, and no module has been heard of. -/
def PierState.begin (p : PierState) : PierState := { p with firstArrival := none, releaseAt := none, allArrived := none, others := [] }

/-! ### Firing a trigger (R33, R38, R70, R374) -/

/-- A trigger at its firing cycle: where, in which cycle of its context's clock, which socket and selector, with what data. -/
structure Trig where
  slot : Nat
  site : Nat
  cyc : Nat
  sock : Sock
  sel : Nat
  data : Res
  from_ : Origin
  deriving DecidableEq, Repr

/-- The trigger data as a scalar and as a vector. -/
def Trig.b (g : Trig) : Word := g.data.scalar
def Trig.v (g : Trig) : Vec := g.data.vector

/-- Raise a fault of a trigger with its detail words. -/
def Trig.fault (g : Trig) (s : State) (cause : Nat) (w7 w15 : Word) : State :=
  s.raise g.slot g.site g.from_ cause w7 w15 []

/-- The sockets driven by the domain clock (R372). -/
def Sock.clocked : Sock → Bool
  | .mx | .ep | .gn | .ns | .sv | .dm => true
  | _ => false

/-- The cycle a socket counts in: DCC for those of the domain clock, the domain's pulses for SY, TM and SH, which are neither
captured nor stopped by a freeze, else that of the context that issues (R372, R374). -/
def State.sockCycle (s : State) (slot site : Nat) (q : Sock) : Nat :=
  if Sock.clocked q then (s.domain slot).dcc
  else if q = .sy ∨ q = .tm ∨ q = .sh then (s.domain slot).pulses
  else s.now slot site

/-- A trigger that the supervisor context must not issue in a frozen domain (R374), or in boot state (spec/23 R403). -/
def State.forbidden (s : State) (slot site : Nat) (q : Sock) (sel : Nat) : Bool :=
  let d := s.domain slot
  if d.boot then Sock.clocked q && q != .sv
  else d.frozen && (s.tile site).inSup && Sock.clocked q && !(q == .sv && (sel == 0x08 || sel == 0x0B || sel == 0x0D))

/-- The slot being issued. -/
def State.curSlot (s : State) : Slot := decodeSlot s.cur.from_.slotValue

/-- The socket named by the slot being issued, if it is one of those the instruction belongs to; else the first of them. -/
def State.curSock (s : State) (own : List Sock) : Sock :=
  match Sock.ofNum s.curSlot.sock.toNat with
  | some q => if own.contains q then q else own.headD .ct
  | none => own.headD .ct

/-- The data of the move being issued: its source, read before the bundle's writes (R38), in the trigger's class (R37). -/
def State.curData (s : State) (q : Sock) (sel : Nat) : Res :=
  let r := s.readSource s.cur.slot s.cur.site s.cur.pre s.cur.header s.cur.from_.bundle s.curSlot.src
  if trigIsVector q sel then .v r.vector else .s r.scalar

/-- Put a trigger of a data-locked socket in waiting; it replaces one that waits (R70). -/
def Tile.wait (t : Tile) (q : Sock) (w : Waiting) : Tile :=
  if q = .mx then { t with mx := { t.mx with waiting := some w } } else t.mapPipe q fun p => { p with waiting := some w }

/-- The trigger of the move being issued, as it fires now (R38). -/
def State.trigOf (s : State) (own : List Sock) : Trig :=
  let q := s.curSock own
  let sel := s.curSlot.sel.toNat
  ⟨s.cur.slot, s.cur.site, s.sockCycle s.cur.slot s.cur.site q, q, sel, s.curData q sel, s.cur.from_⟩

/-- A breach of R374 or R403: the fault of a trigger that its context must not issue. -/
def Trig.forbid (g : Trig) (s : State) : State := g.fault s 0x200D g.b 0

/-- Issue of a trigger: nothing under a false guard (R33); a breach of R374 or R403 is a fault; in a data-locked socket it
waits (R70); else it fires. `own` lists the sockets that have the operation. -/
def State.trigger (s : State) (own : List Sock) (fire : Trig → State → State) : State :=
  let g := s.trigOf own
  if !s.cur.pre.guard s.curSlot.guard then s
  else if s.forbidden g.slot g.site g.sock g.sel then g.forbid s
  else if s.cur.pre.locked g.sock then s.mapTile g.site fun t => t.wait g.sock ⟨g.sel, g.data, g.from_⟩
  else fire g s

/-- Start the interval of a firing and clear the marks of R70. -/
def Pipe.fired (p : Pipe) (readyAt : Nat) : Pipe := { p with o1w := false, o2w := false, waiting := none, readyAt := readyAt }

/-- A firing of a pipelined socket: interval, and the result that lands, which holds bundles where the socket is data-locked
(R50, R69, R72, spec/15 R301). -/
def Tile.firePipe (t : Tile) (q : Sock) (readyAt : Nat) (r : InFlight) : Tile :=
  t.mapPipe q fun p => { p.fired readyAt with flight := p.flight ++ [{ r with locked := t.locked q }] }

end Sys2Proof.Machine
end

