-- ==== Sys2Proof/Machine/Address.lean ====
section
/-!
DEFINITION. The address generator AG: four streams, pointer constructors and lea (spec/04 R75 to R80).
-/
namespace Sys2Proof.Machine

/-- The operations of AG (R76, R77, R78, R80). -/
inductive AgOp where
  | inc | mod | brev | circ | mkptr | mkcl | mkdom | coord | setb | sets | setl | lea
  deriving DecidableEq, Repr

/-- The operation of a trigger selector (spec/02 R43). -/
def AgOp.ofSel (sel : Nat) : AgOp :=
  match sel with
  | 0x00 => .inc | 0x01 => .mod | 0x02 => .brev | 0x03 => .circ | 0x08 => .mkptr | 0x09 => .mkcl | 0x0A => .mkdom
  | 0x0B => .coord | 0x0C => .setb | 0x0D => .sets | 0x0E => .setl | _ => .lea

/-- Operand port o1 is read (R70). -/
def AgOp.readsO1 : AgOp → Bool
  | .inc | .mkptr | .coord => false
  | _ => true

/-- Stream ports by number. -/
def AgState.baseOf (x : AgState) (n : Nat) : Word := x.base.getD n 0
def AgState.stepOf (x : AgState) (n : Nat) : Word := x.step.getD n 0
def AgState.bndOf (x : AgState) (n : Nat) : Word := x.bnd.getD n 0
def AgState.setBase (x : AgState) (n : Nat) (w : Word) : AgState := { x with base := x.base.setIfInBounds n w }
def AgState.setStep (x : AgState) (n : Nat) (w : Word) : AgState := { x with step := x.step.setIfInBounds n w }
def AgState.setBnd (x : AgState) (n : Nat) (w : Word) : AgState := { x with bnd := x.bnd.setIfInBounds n w }

/-- The new base of mod: base + step as a signed 64-bit sum, reduced by floor-mod bnd, 0 standing for 2^64 (R76). -/
def modBase (base step bnd : Word) : Word :=
  let t := base + step
  if bnd = 0 then t else BitVec.ofInt 64 (t.toInt % (bnd.toNat : Int))

/-- The lowest w bits reversed (R76). -/
def revBits (w : Nat) (x : Word) : Word :=
  BitVec.ofNat 64 ((List.range w).foldl (fun n i => 2 * n + (if x.getLsbD i then 1 else 0)) 0)

/-- The new base of circ: one correction only (R76); bnd = 0 stands for 2^64 there. -/
def circBase (a base step bnd : Word) : Word :=
  let t := base + step
  let top := a.toNat + (if bnd = 0 then 2 ^ 64 else bnd.toNat)
  if top ≤ t.toNat then t - bnd else if t.toNat < a.toNat then t + bnd else t

/-- The domain pointer to a flat tile number of the domain, or 0 (R78). -/
def State.mkdom (s : State) (slot : Nat) (a b : Word) : Word :=
  let (w, h) := s.grid slot
  if w * h ≤ a.toNat then 0 else domainPointer w (a.toNat % w) (a.toNat / w) (ptrOffset b)

/-- The domain pointer equal to a coordinate-form one, or 0 (R79). -/
def State.coordPointer (s : State) (slot site : Nat) (b : Word) : Word :=
  if ptrSpace b = 7 ∧ ptrMbz b then
    match coordTarget (s.grid slot) (s.xy slot site) b with
    | some (x, y) => domainPointer (s.grid slot).1 x y (ptrOffset b)
    | none => 0
  else 0

/-- q0 of an operation, from the socket as it stands at the firing cycle. -/
def AgOp.value (op : AgOp) (x : AgState) (b : Word) (s : State) (slot site : Nat) : Word :=
  let a := x.o1
  let n := wbits b 1 0
  let m := wbits a 1 0
  match op with
  | .inc | .circ => x.baseOf n
  | .mod => a + x.baseOf n
  | .brev =>
    let w := wbits (x.bndOf n) 5 0
    if w = 0 then a else a + (revBits w (x.baseOf n) <<< wbits (x.stepOf n) 5 0)
  | .mkptr => BitVec.ofNat 64 (2 ^ 60 + ptrOffset b)
  | .mkcl => BitVec.ofNat 64 (2 * 2 ^ 60 + wbits a 3 0 * 2 ^ 20 + ptrOffset b)
  | .mkdom => s.mkdom slot a b
  | .coord => s.coordPointer slot site b
  | .setb => x.baseOf m
  | .sets => x.stepOf m
  | .setl => x.bndOf m
  | .lea => a + b

/-- The stream update of an operation (R76, R77). -/
def AgOp.update (op : AgOp) (x : AgState) (b : Word) : AgState :=
  let a := x.o1
  let n := wbits b 1 0
  let m := wbits a 1 0
  match op with
  | .inc => x.setBase n (x.baseOf n + x.stepOf n)
  | .mod => x.setBase n (modBase (x.baseOf n) (x.stepOf n) (x.bndOf n))
  | .brev =>
    let w := wbits (x.bndOf n) 5 0
    if w = 0 then x else x.setBase n (BitVec.ofNat 64 (((x.baseOf n).toNat + 1) % 2 ^ w))
  | .circ => x.setBase n (circBase a (x.baseOf n) (x.stepOf n) (x.bndOf n))
  | .setb => x.setBase m b
  | .sets => x.setStep m b
  | .setl => x.setBnd m b
  | .mkptr | .mkcl | .mkdom | .coord | .lea => x

/-- A firing that completes: the update of the stream, and q0 at c + 1 (R75). -/
def AgOp.complete (op : AgOp) (g : Trig) (s : State) : State :=
  s.mapTile g.site fun t =>
    let x := t.cap.ag
    let r : InFlight := ⟨g.cyc + 1, some (.s (op.value x g.b s g.slot g.site)), none, 0, false, none⟩
    { t with cap := { t.cap with ag := op.update x g.b } } |>.firePipe .ag (g.cyc + 1) r

/-- The reason for which lea is refused: its sum leaves the space of a, lies in an invalid space, or sets a must-be-zero bit
(R80). -/
def leaReason (a b : Word) : Option Nat := sumPointerReason a (a + b)

/-- A firing of AG; lea is an address fault where R80 says so. -/
def AgOp.fire (op : AgOp) (g : Trig) (s : State) : State :=
  if op = .lea then
    match leaReason (s.tile g.site).cap.ag.o1 g.b with
    | some reason => g.fault s 0x2001 ((s.tile g.site).cap.ag.o1 + g.b) (BitVec.ofNat 64 reason)
    | none => op.complete g s
  else op.complete g s

/-- Issue of an AG trigger. -/
def AgOp.issue (op : AgOp) (s : State) : State := s.trigger [.ag] op.fire

/-- `inc`: q0 := base; base := base + step (R76). -/
def execAgInc (s : State) : Result := .next (AgOp.issue .inc s)

/-- `mod`: q0 := a + base; base + step, floor-mod bnd (R76). -/
def execAgMod (s : State) : Result := .next (AgOp.issue .mod s)

/-- `brev`: bit-reversed addressing (R76). -/
def execAgBrev (s : State) : Result := .next (AgOp.issue .brev s)

/-- `circ`: circular buffer with one correction (R76). -/
def execAgCirc (s : State) : Result := .next (AgOp.issue .circ s)

/-- `mkptr`: local pointer (R78). -/
def execAgMkptr (s : State) : Result := .next (AgOp.issue .mkptr s)

/-- `mkcl`: cluster pointer (R78). -/
def execAgMkcl (s : State) : Result := .next (AgOp.issue .mkcl s)

/-- `mkdom`: domain pointer to a flat tile, or 0 (R78). -/
def execAgMkdom (s : State) : Result := .next (AgOp.issue .mkdom s)

/-- `coord`: domain pointer of a coordinate-form pointer, or 0 (R78, R79). -/
def execAgCoord (s : State) : Result := .next (AgOp.issue .coord s)

/-- `setb`: writes a base, returns the old one (R77). -/
def execAgSetb (s : State) : Result := .next (AgOp.issue .setb s)

/-- `sets`: writes a step, returns the old one (R77). -/
def execAgSets (s : State) : Result := .next (AgOp.issue .sets s)

/-- `setl`: writes a bound, returns the old one (R77). -/
def execAgSetl (s : State) : Result := .next (AgOp.issue .setl s)

/-- `lea`: a + b, or an address fault (R80). -/
def execAgLea (s : State) : Result := .next (AgOp.issue .lea s)

end Sys2Proof.Machine
end

