-- ==== Sys2Proof/Machine/SumOrder.lean ====
section
/-!
DEFINITION. The sum order of the matrix unit (spec/07 R153): one group of 32 exact products, truncated to a common grid,
added exactly and rounded once; then the accumulation over groups.
-/
namespace Sys2Proof.Machine

/-- floor(log2 |p|) of a non-zero exact product. -/
def Dy.log2 (d : Dy) : Int := (Nat.log2 d.m : Int) + d.e

/-- The products of a group, exact. -/
def groupProducts (a b : List Val) : List (Val × Val) := a.zip b

/-- |p| / q rounded down, with p's sign, for q = 2^x (R153). -/
def truncTo (x : Int) (p : Dy) : Int :=
  let sh := p.e - x
  let v : Int := ((if 0 ≤ sh then p.m * 2 ^ sh.toNat else p.m / 2 ^ (-sh).toNat : Nat) : Int)
  if p.neg then -v else v

/-- group_sum of R153 over the listed pairs (missing pairs are zero products). -/
def groupSum (a b : List Val) : Lane × Flags :=
  let ps := groupProducts a b
  if ps.any (fun p => p.1.isNan || p.2.isNan) then (0x7FC00000#32, 0)
  else
    let prods := ps.map fun p => mulVal p.1 p.2
    if prods.any (fun p => p.2 ≠ 0) then (0x7FC00000#32, flagNv)
    else
      let vs := prods.map (·.1)
      let posInf := vs.any fun v => v = .inf false
      let negInf := vs.any fun v => v = .inf true
      if posInf && negInf then (0x7FC00000#32, flagNv)
      else if posInf then (0x7F800000#32, 0)
      else if negInf then (0xFF800000#32, 0)
      else
        let ds := (vs.filterMap fun v => match v with | .fin d => some d | _ => none).filter fun d => d.m ≠ 0
        match ds with
        | [] => (0, 0)
        | d :: rest =>
          let emax := rest.foldl (fun m p => max m p.log2) d.log2
          let x := emax - 47
          let sum := ds.foldl (fun acc p => acc + truncTo x p) 0
          let r := roundRat F32 .rne 0 (decide (sum < 0)) sum.natAbs 1 x
          (r.lane, r.flags)

/-- One accumulation step of R153: scale the group sum when scaled, then add it to the accumulator. -/
def accumulate (acc s : Lane) (scales : Option (Lane × Lane)) : Lane × Flags :=
  match scales with
  | none => addF32 acc s
  | some (sa, sb) =>
    let (sc, f1) := mulF32 sa sb
    let (s', f2) := mulF32 s sc
    let (r, f3) := addF32 acc s'
    (r, f1 ||| f2 ||| f3)

end Sys2Proof.Machine
end

