-- ==== Sys2Proof/Machine/SFunc.lean ====
section
/-!
DEFINITION. The ten special functions of SF (spec/06 R145, R146): the exact real value, correctly rounded to nearest even.
Algebraic functions are rounded from exact rationals; the others from an enclosing interval whose two ends must round to the
same word, at a working precision that doubles until they do. An irrational value is never exact, so nx is always set there.
-/
namespace Sys2Proof.Machine

/-- The operations of SF, in selector order (spec/02 R44). -/
inductive SfOp where
  | exp2 | log2 | exp | rcp | rsqrt | sqrt | tanh | sigm | sin | cos
  deriving DecidableEq, Repr

/-- An interval (−1)^neg × [nlo/dlo, nhi/dhi] × 2^e that holds an irrational value. -/
structure Ival where
  neg : Bool
  nlo : Nat
  dlo : Nat
  nhi : Nat
  dhi : Nat
  e : Int
  deriving DecidableEq, Repr

/-- Round an irrational value known to lie in an interval; none when the ends disagree. -/
def Ival.round (v : Ival) : Option Rounded :=
  let a := roundRat F32 .rne 0 v.neg v.nlo v.dlo v.e
  let b := roundRat F32 .rne 0 v.neg v.nhi v.dhi v.e
  if a.bits = b.bits ∧ v.nlo ≠ 0 then
    let mag := a.bits % F32.signBit
    let uf : Flags := if mag < 2 ^ 23 then flagUf else 0
    let ov : Flags := if mag = F32.inf then flagOf else 0
    some ⟨a.bits, flagNx ||| uf ||| ov⟩
  else none

/-- Try precisions 256, 512, 1024, … until the interval rounds. -/
def refine (f : Nat → Ival) : Nat → Nat → Option Rounded
  | 0, _ => none
  | fuel + 1, p => (f p).round <|> refine f fuel (2 * p)

/-- The error allowed to the fixed-point series below, in units of the last place. -/
def guardUlp : Nat := 2 ^ 20

/-- Σ 2^p / ((2k+1) n^(2k+1)), with alternating signs when `alt`: atanh(1/n) or atan(1/n). -/
def invSeries (alt : Bool) (n : Nat) : Nat → Nat → Nat → Int → Int
  | 0, _, _, acc => acc
  | fuel + 1, k, pw, acc =>
    let t : Int := (pw / (2 * k + 1) : Nat)
    invSeries alt n fuel (k + 1) (pw / (n * n)) (if alt && k % 2 == 1 then acc - t else acc + t)

def atanhInv (n p : Nat) : Int := invSeries false n (p / 4 + 8) 0 (2 ^ p / n) 0
def atanInv (n p : Nat) : Int := invSeries true n (p / 4 + 8) 0 (2 ^ p / n) 0

/-- ln 2 at scale 2^p. -/
def ln2Fix (p : Nat) : Int := 18 * atanhInv 26 p - 2 * atanhInv 4801 p + 8 * atanhInv 8749 p

/-- π at scale 2^p. -/
def piFix (p : Nat) : Int := 16 * atanInv 5 p - 4 * atanInv 239 p

/-- Σ r^k / k! at scale 2^p, taking every `stride`th power from `t` on with the sign rule. -/
def expSeries (p : Nat) (r : Nat) : Nat → Nat → Nat → Nat → Nat
  | 0, _, _, acc => acc
  | fuel + 1, k, t, acc => expSeries p r fuel (k + 1) (t * r / 2 ^ p / (k + 1)) (acc + t)

/-- e^x for x at scale 2^p: the pair (n, m) with e^x ≈ m × 2^(n − p), 1 ≤ m/2^p < 2. -/
def expFix (p : Nat) (x : Int) : Int × Nat :=
  let l := ln2Fix p
  let n := x / l
  let r := (x - n * l).toNat
  (n, expSeries p r (p / 3 + 8) 0 (2 ^ p) 0)

/-- sin r (`odd`) or cos r by Taylor's series at scale 2^p, 0 ≤ r < 2. -/
def trigSeries (p : Nat) (r2 : Nat) : Nat → Nat → Nat → Int → Bool → Int
  | 0, _, _, acc, _ => acc
  | fuel + 1, k, t, acc, minus =>
    trigSeries p r2 fuel (k + 2) (t * r2 / 2 ^ p / ((k + 1) * (k + 2))) (if minus then acc - t else acc + t) (!minus)

def sinFix (p r : Nat) : Int := trigSeries p (r * r / 2 ^ p) (p / 5 + 8) 1 r 0 false
def cosFix (p r : Nat) : Int := trigSeries p (r * r / 2 ^ p) (p / 5 + 8) 0 (2 ^ p) 0 false

/-- An exact number at scale 2^p, rounded down. -/
def Dy.fix (d : Dy) (p : Nat) : Int :=
  let sh := d.e + p
  let v : Int := ((if 0 ≤ sh then d.m * 2 ^ sh.toNat else d.m / 2 ^ (-sh).toNat : Nat) : Int)
  if d.neg then -v else v

/-- |d| ≥ 2^k for an exact number. -/
def Dy.atLeast (d : Dy) (k : Int) : Bool := d.m ≠ 0 ∧ k ≤ (Nat.log2 d.m : Int) + d.e

/-- Replace |d| ≥ 2^10 by 2^10: every function here has long reached its limit there. -/
def Dy.clamp (d : Dy) : Dy := if d.atLeast 10 then ⟨d.neg, 1, 10⟩ else d

/-- A fixed-point magnitude v at scale 2^p, in error by at most `guardUlp`. -/
def ivalFix (neg : Bool) (v : Nat) (e : Int) : Ival := ⟨neg, v - guardUlp, 1, v + guardUlp, 1, e⟩

def expIval (z : Dy) (p : Nat) : Ival :=
  let (n, m) := expFix p (z.clamp.fix p)
  ivalFix false m (n - p)

def exp2Ival (z : Dy) (p : Nat) : Ival :=
  let x := z.clamp.fix p
  let n := x / (2 ^ p : Nat)
  let f := x - n * (2 ^ p : Nat)
  let (k, m) := expFix p (f * ln2Fix p / (2 ^ p : Nat))
  ivalFix false m (n + k - p)

def log2Ival (z : Dy) (p : Nat) : Ival :=
  let k := Nat.log2 z.m
  let t := (z.m - 2 ^ k) * 2 ^ p / (z.m + 2 ^ k)
  let series : Int := (List.range (p / 3 + 8)).foldl (init := ((t : Int), (0 : Int)))
    (fun (st : Int × Int) (i : Nat) =>
      (st.1 * t / (2 ^ p : Nat) * t / (2 ^ p : Nat), st.2 + st.1 / (2 * i + 1 : Nat))) |>.2
  let v : Int := (k + z.e) * (2 ^ p : Nat) + 2 * series * (2 ^ p : Nat) / ln2Fix p
  ivalFix (decide (v < 0)) v.natAbs (-p)

/-- tanh |z|: between z − z³/3 and z − z³/3 + 2z⁵/15 when small, else (e^{2z} − 1)/(e^{2z} + 1). -/
def tanhIval (z : Dy) (p : Nat) : Ival :=
  if !z.atLeast (-12) then
    -- over the common denominator 15, in units 2^(5e): z = m·2^e with e < 0
    let s := (-z.e).toNat
    let a := 15 * z.m * 2 ^ (4 * s)
    let b := 5 * z.m ^ 3 * 2 ^ (2 * s)
    let c := 2 * z.m ^ 5
    ⟨z.neg, a - b, 15, a - b + c, 15, 5 * z.e⟩
  else
    let y : Dy := if z.atLeast 6 then ⟨false, 1, 6⟩ else { z with neg := false }
    let (n, m) := expFix p (2 * y.fix p)
    let lo := (m - guardUlp) * 2 ^ n.toNat
    let hi := (m + guardUlp) * 2 ^ n.toNat
    ⟨z.neg, lo - 2 ^ p, lo + 2 ^ p, hi - 2 ^ p, hi + 2 ^ p, 0⟩

/-- 1 / (1 + e^(−z)). -/
def sigmIval (z : Dy) (p : Nat) : Ival :=
  let (n, m) := expFix p (z.clamp.negate.fix p)
  let one := 2 ^ (p + (-n).toNat)
  let lo := (m - guardUlp) * 2 ^ n.toNat
  let hi := (m + guardUlp) * 2 ^ n.toNat
  ⟨false, one, one + hi, one, one + lo, 0⟩

/-- sin |z| between z − z³/6 and z − z³/6 + z⁵/120, and cos z between 1 − z²/2 and 1 − z²/2 + z⁴/24, for small z. -/
def smallSin (z : Dy) : Ival :=
  let s := (-z.e).toNat
  let a := 120 * z.m * 2 ^ (4 * s)
  let b := 20 * z.m ^ 3 * 2 ^ (2 * s)
  ⟨z.neg, a - b, 120, a - b + z.m ^ 5, 120, 5 * z.e⟩

def smallCos (z : Dy) : Ival :=
  let s := (-z.e).toNat
  let a := 24 * 2 ^ (4 * s)
  let b := 12 * z.m ^ 2 * 2 ^ (2 * s)
  ⟨false, a - b, 24, a - b + z.m ^ 4, 24, 4 * z.e⟩

/-- The quadrant of |z| and its offset in it at scale 2^p: π is taken 160 bits finer than the result. -/
def reduceQuadrant (z : Dy) (p : Nat) : Nat × Nat :=
  let q := p + 160
  let half := piFix q / 2
  let x := Dy.fix { z with neg := false } q
  let n := x / half
  ((n % 4).toNat, ((x - n * half) / (2 ^ 160 : Nat)).toNat)

def sinIval (z : Dy) (p : Nat) : Ival :=
  if !z.atLeast (-12) then smallSin z
  else
    let (n, r) := reduceQuadrant z p
    let v := if n % 2 = 0 then sinFix p r else cosFix p r
    ivalFix (z.neg != decide (2 ≤ n)) v.natAbs (-p)

def cosIval (z : Dy) (p : Nat) : Ival :=
  if !z.atLeast (-12) then smallCos z
  else
    let (n, r) := reduceQuadrant z p
    let v := if n % 2 = 0 then cosFix p r else sinFix p r
    ivalFix (n == 1 || n == 2) v.natAbs (-p)

/-- floor(√n) by bits, from bit `fuel` − 1 down. -/
def isqrtGo (n : Nat) : Nat → Nat → Nat
  | 0, r => r
  | b + 1, r => if (r + 2 ^ b) * (r + 2 ^ b) ≤ n then isqrtGo n b (r + 2 ^ b) else isqrtGo n b r

def isqrt (n : Nat) : Nat := isqrtGo n (Nat.log2 n / 2 + 1) 0

/-- √z for positive z, exact when z is a square (R145). -/
def sqrtPos (z : Dy) : Option Rounded :=
  let (m, e) := if z.e % 2 = 0 then (z.m, z.e) else (2 * z.m, z.e - 1)
  let n := m * 2 ^ 128
  let s := isqrt n
  if s * s = n then some (roundRat F32 .rne 0 false s 1 (e / 2 - 64))
  else (Ival.mk false s 1 (s + 1) 1 (e / 2 - 64)).round

/-- 1/√z for positive z, exact when z is a power of four. -/
def rsqrtPos (z : Dy) : Option Rounded :=
  let (m, e) := if z.e % 2 = 0 then (z.m, z.e) else (2 * z.m, z.e - 1)
  let n := 2 ^ 256 / m
  let s := isqrt n
  if s * s * m = 2 ^ 256 then some (roundRat F32 .rne 0 false s 1 (-(e / 2) - 128))
  else (Ival.mk false s 1 (s + 1) 1 (-(e / 2) - 128)).round

/-- z is an integer: its value. -/
def Dy.asInt (d : Dy) : Option Int :=
  let v : Nat := if 0 ≤ d.e then d.m * 2 ^ d.e.toNat else d.m / 2 ^ (-d.e).toNat
  if 0 ≤ d.e ∨ v * 2 ^ (-d.e).toNat = d.m then some (if d.neg then -(v : Int) else v) else none

/-- The canonical NaN with the invalid flag. -/
def sfInvalid : Rounded := ⟨F32.nan, flagNv⟩

def sfInf (neg : Bool) : Rounded := ⟨if neg then F32.signBit + F32.inf else F32.inf, 0⟩
def sfOne : Rounded := ⟨0x3F800000, 0⟩
def sfZero (neg : Bool) : Rounded := ⟨if neg then F32.signBit else 0, 0⟩

/-- The special operands of R146 and the exact cases; `none` where the value is to be refined. -/
def sfSpecial (op : SfOp) (v : Val) : Option Rounded :=
  match op, v with
  | _, .nan => some ⟨F32.nan, 0⟩
  | .exp2, .inf n => some (if n then sfZero false else sfInf false)
  | .exp, .inf n => some (if n then sfZero false else sfInf false)
  | .exp2, .fin d =>
    if d.m = 0 then some sfOne
    else match d.clamp.asInt with
      | some k => some (roundRat F32 .rne 0 false 1 1 k)
      | none => none
  | .exp, .fin d => if d.m = 0 then some sfOne else none
  | .log2, .inf n => some (if n then sfInvalid else sfInf false)
  | .log2, .fin d =>
    if d.m = 0 then some { sfInf true with flags := flagDz }
    else if d.neg then some sfInvalid
    else if 2 ^ Nat.log2 d.m = d.m then
      let k : Int := (Nat.log2 d.m : Int) + d.e
      some (roundRat F32 .rne 0 (decide (k < 0)) k.natAbs 1 0)
    else none
  | .rcp, .inf n => some (sfZero n)
  | .rcp, .fin d =>
    if d.m = 0 then some { sfInf d.neg with flags := flagDz }
    else some (roundRat F32 .rne 0 d.neg 1 d.m (-d.e))
  | .rsqrt, .inf n => some (if n then sfInvalid else sfZero false)
  | .rsqrt, .fin d =>
    if d.m = 0 then some { sfInf d.neg with flags := flagDz }
    else if d.neg then some sfInvalid else rsqrtPos d
  | .sqrt, .inf n => some (if n then sfInvalid else sfInf false)
  | .sqrt, .fin d =>
    if d.m = 0 then some (sfZero d.neg) else if d.neg then some sfInvalid else sqrtPos d
  | .tanh, .inf n => some (if n then ⟨0xBF800000, 0⟩ else sfOne)
  | .tanh, .fin d => if d.m = 0 then some (sfZero d.neg) else none
  | .sigm, .inf n => some (if n then sfZero false else sfOne)
  | .sigm, .fin d => if d.m = 0 then some ⟨0x3F000000, 0⟩ else none
  | .sin, .inf _ => some sfInvalid
  | .sin, .fin d => if d.m = 0 then some (sfZero d.neg) else none
  | .cos, .inf _ => some sfInvalid
  | .cos, .fin d => if d.m = 0 then some sfOne else none

/-- The interval of a transcendental operation at working precision p. -/
def sfIval (op : SfOp) (d : Dy) : Nat → Ival :=
  match op with
  | .exp2 => exp2Ival d
  | .log2 => log2Ival d
  | .exp => expIval d
  | .tanh => tanhIval d
  | .sigm => sigmIval d
  | .sin => sinIval d
  | .cos => cosIval d
  | .rcp | .rsqrt | .sqrt => expIval d

/-- The function value of R145 and R146, correctly rounded; none only if four doublings of the precision do not settle it. -/
def sfEval (op : SfOp) (z : Lane) : Option Rounded :=
  let v := readF32 z
  match sfSpecial op v with
  | some r => some r
  | none =>
    match v with
    | .fin d => refine (sfIval op d) 4 256
    | _ => none

end Sys2Proof.Machine
end

