-- ==== Sys2Proof/Machine/Vector.lean ====
section
/-!
DEFINITION. The vector sockets VA, VB, VC and the special-function socket SF (spec/06 R125 to R146, spec/05 R112, R117, R122).
-/
namespace Sys2Proof.Machine

/-! ### Code tables as a later cycle sees them -/

/-- Table writes of the issuing context that perform by a cycle, earlier ones first; of one cycle, LA before LB (spec/05 R111). -/
def Tile.tableWritesBy (t : Tile) (cycle : Nat) : List TableWrite :=
  sortBy (fun a b => a.due < b.due) ((t.cap.la.tableWrites ++ t.cap.lb.tableWrites).filter fun w => w.due ≤ cycle)

/-- A table's contents at a read cycle: the stored entries with the writes that perform by then (spec/05 R112). -/
def Tile.tableAt (t : Tile) (table cycle : Nat) : CodeTable :=
  (t.tableWritesBy cycle).foldl (fun c w => if w.table = table then c.setIfInBounds w.entry w.value else c)
    (t.tables.getD table (.replicate 256 0))

/-! ### Firing a vector operation -/

/-- A bad format, rounding, act or ofmt word at a firing: reason 0x0E in the trigger's slot (spec/02 R42, R51). -/
def Trig.badWord (g : Trig) (s : State) : State :=
  g.fault s 0x100E (BitVec.ofNat 64 (0x0E * 2 ^ 24 + 2 ^ g.from_.slot % 2 ^ 24)) 0

/-- The operands of a vector operation at its firing cycle (R128, R130). -/
def Trig.vecArgs (g : Trig) (t : Tile) (f : VecFmt) (mode : RMode) : VecArgs :=
  let x := t.cap.vec g.sock
  { x := x.o1, y := x.o2, z := g.v, zs := g.b, msk := x.msk, tbl := x.tbl, fmt := f, mode := mode,
    sat := (RndWord.ofWord x.rnd).sat, table := t.tableAt f.table (g.cyc + 1) }

/-- The draws of a stochastic cvt: purpose 1, the GN key and stream, the socket's id as member, element E + lane (R117). -/
def stochDraw (gn : GnState) (q : Sock) (e lane : Nat) : Nat :=
  draw24 ((DrawKey.mk gn.key gn.stream (BitVec.ofNat 24 q.num)).call 1 (e + lane))

/-- E after a stochastic cvt: E + 64, held at 2^40 − 1 (R117). -/
def nextE (e : Nat) : Nat := min (e + 64) (2 ^ 40 - 1)

/-- A rounding word with another E. -/
def setE (w : Word) (e : Nat) : Word := BitVec.ofNat 64 (e * 2 ^ 24 + w.toNat % 2 ^ 24)

/-- First enabled lane of enc whose scale word is invalid (R140, spec/20 R364). -/
def firstBadScale (a : VecArgs) : Nat := ((List.range 64).find? fun i => enabled a.msk i && !scaleValid (a.x.lane i)).getD 0

/-- The key of a stochastic cvt's draws. -/
def stochKey (gn : GnState) (q : Sock) : DrawKey := ⟨gn.key, gn.stream, BitVec.ofNat 24 q.num⟩

/-- A format of the operation is c8. -/
def VecFmt.usesTable (f : VecFmt) : Bool := f.f1 == .c8 || f.f2 == .c8 || f.g == .c8

/-- What a firing with a c8 format leaves for the cycle after, in which it reads its code table (spec/05 R112). -/
def Trig.tableRead (g : Trig) (op : VecOp) (x : VecState) (gn : GnState) : TableRead :=
  ⟨g.cyc + 1, op, x.o1, x.o2, g.data, x.msk, x.tbl, x.fmt, x.rnd, stochKey gn g.sock⟩

/-- The result of an operation with the code table as it stands when it is read. -/
def TableRead.eval (r : TableRead) (tables : Vector CodeTable 4) : Option VecResult :=
  let rnd := RndWord.ofWord r.rnd
  match vecFormats r.op r.fmt r.tbl, (if r.op = .cvt then rnd.check else some .rne) with
  | some f, some mode =>
    some (vecEval r.op { x := r.o1, y := r.o2, z := r.data.vector, zs := r.data.scalar, msk := r.msk, tbl := r.tbl, fmt := f, mode := mode,
                         sat := rnd.sat, table := tables.getD f.table (.replicate 256 0) }
      fun i => draw24 (r.draw.call 1 (rnd.elem + i)))
  | _, _ => none

/-- A result whose table read is due takes what the table gives. -/
def InFlight.settle (x : InFlight) (tables : Vector CodeTable 4) (now : Nat) : InFlight :=
  match x.late with
  | some r =>
    if now < r.due then x
    else match r.eval tables with
      | some v => { x with q0 := some (.v v.q0), q1 := v.q1, flags := v.flags, late := none }
      | none => { x with late := none }
  | none => x

/-- The table reads of a cycle, after its table writes have performed (spec/05 R112). -/
def Captured.settleReads (c : Captured) (tables : Vector CodeTable 4) (now : Nat) : Captured :=
  [Sock.va, .vb, .vc].foldl (init := c) fun c q =>
    if (c.pipe q).flight.any fun x => x.late.isSome then
      c.setPipe q { c.pipe q with flight := (c.pipe q).flight.map fun x => x.settle tables now }
    else c

/-- A firing that completes: the result at c + L, the format word consumed, E advanced by a stochastic cvt (R117, R128, R129). What a code
table gives is foreseen from the writes of the issuing context, and read anew at c + 1 (spec/05 R112, spec/21 R379). -/
def VecOp.complete (op : VecOp) (g : Trig) (f : VecFmt) (mode : RMode) (t : Tile) : Tile :=
  let x := t.cap.vec g.sock
  let e := (RndWord.ofWord x.rnd).elem
  let r := vecEval op (g.vecArgs t f mode) (stochDraw t.gn g.sock e)
  let y := { x with fmt := none, rnd := if op = .cvt ∧ mode = .stoch then setE x.rnd (nextE e) else x.rnd }
  let due := g.cyc + op.latency
  { t with cap := t.cap.setVec g.sock y } |>.firePipe g.sock (g.cyc + 1) ⟨due, some (.v r.q0), r.q1, r.flags, false,
    if f.usesTable then some (g.tableRead op x t.gn) else none⟩

/-- A firing of a vector operation: bad words (R42, R114), the scale fault of enc (R140), the stream fault of a stochastic cvt
(R117), else the result. -/
def VecOp.fire (op : VecOp) (g : Trig) (s : State) : State :=
  let t := s.tile g.site
  let x := t.cap.vec g.sock
  let rnd := RndWord.ofWord x.rnd
  match vecFormats op x.fmt x.tbl with
  | none => g.badWord s
  | some f =>
    match (if op = .cvt then rnd.check else some .rne) with
    | none => g.badWord s
    | some mode =>
      let a := g.vecArgs t f mode
      if op = .enc ∧ encScaleBad a then
        let k := firstBadScale a
        g.fault s 0x2007 ((a.x.lane k).setWidth 64) (BitVec.ofNat 64 k)
      else if op = .cvt ∧ mode = .stoch ∧ 2 ^ 40 ≤ rnd.elem + 63 then g.fault s 0x2006 (BitVec.ofNat 64 rnd.elem) 1
      else s.mapTile g.site (op.complete g f mode)

/-- The operation of a trigger selector (spec/02 R44). -/
def VecOp.ofSel (sel : Nat) : VecOp :=
  match sel with
  | 0x00 => .fadd | 0x01 => .fsub | 0x02 => .fmul | 0x03 => .ffma | 0x04 => .ffms | 0x05 => .fmin | 0x06 => .fmax
  | 0x07 => .fabs | 0x08 => .fneg | 0x09 => .fceq | 0x0A => .fclt | 0x0B => .fcle | 0x0C => .fcun | 0x10 => .iadd
  | 0x11 => .isub | 0x12 => .imul | 0x13 => .imulh | 0x14 => .imin | 0x15 => .imax | 0x16 => .iminu | 0x17 => .imaxu
  | 0x18 => .iadds | 0x19 => .isubs | 0x1A => .iaddus | 0x1B => .isubus | 0x1C => .iand | 0x1D => .ior | 0x1E => .ixor
  | 0x1F => .ishl | 0x20 => .ishr | 0x21 => .isra | 0x22 => .iceq | 0x23 => .iclt | 0x24 => .icltu | 0x28 => .sel
  | 0x29 => .cvt | 0x2A => .dec | 0x2B => .enc | 0x2C => .amax | 0x2D => .qscale | 0x2E => .rsum | 0x2F => .perm
  | 0x30 => .bcast | 0x31 => .shuf | 0x32 => .mrg | _ => .iota

/-- Issue of a vector trigger. -/
def VecOp.issue (op : VecOp) (s : State) : State := s.trigger [.va, .vb, .vc] op.fire

/-! ### SF -/

/-- The operation of a trigger selector (spec/02 R44). -/
def SfOp.ofSel (sel : Nat) : SfOp :=
  match sel with
  | 0 => .exp2 | 1 => .log2 | 2 => .exp | 3 => .rcp | 4 => .rsqrt | 5 => .sqrt | 6 => .tanh | 7 => .sigm | 8 => .sin | _ => .cos

def SfOp.sel : SfOp → Nat
  | .exp2 => 0 | .log2 => 1 | .exp => 2 | .rcp => 3 | .rsqrt => 4 | .sqrt => 5 | .tanh => 6 | .sigm => 7 | .sin => 8 | .cos => 9

/-- One lane of a special function with its flags (R145, R146). -/
def SfOp.lane (op : SfOp) (z : Lane) : Lane × Flags :=
  match sfEval op z with
  | some r => (r.lane, r.flags)
  | none => (Config.sfValue op.sel z, flagNx)

/-- All 64 lanes; the flags of all of them land together (R145). -/
def SfOp.eval (op : SfOp) (z : Vec) : Vec × Flags :=
  let r : Vector (Lane × Flags) 64 := Vector.ofFn fun i => op.lane (z.lane i.val)
  (r.map (·.1), r.toList.foldl (fun a p => a ||| p.2) 0)

/-- A firing of SF: q0 at c + 12, interval 4 (R145). -/
def SfOp.fire (op : SfOp) (g : Trig) (s : State) : State :=
  let r := op.eval g.v
  s.mapTile g.site fun t => t.firePipe .sf (g.cyc + 4) ⟨g.cyc + 12, some (.v r.1), none, r.2, false, none⟩

/-- Issue of an SF trigger. -/
def SfOp.issue (op : SfOp) (s : State) : State := s.trigger [.sf] op.fire

/-- `fadd` (R133, R134). -/
def execVaFadd (s : State) : Result := .next (VecOp.issue .fadd s)

/-- `fsub` (R133, R134). -/
def execVaFsub (s : State) : Result := .next (VecOp.issue .fsub s)

/-- `fmul` (R133, R134). -/
def execVaFmul (s : State) : Result := .next (VecOp.issue .fmul s)

/-- `ffma` (R133, R134). -/
def execVaFfma (s : State) : Result := .next (VecOp.issue .ffma s)

/-- `ffms` (R133, R134). -/
def execVaFfms (s : State) : Result := .next (VecOp.issue .ffms s)

/-- `fmin` (R133, R134). -/
def execVaFmin (s : State) : Result := .next (VecOp.issue .fmin s)

/-- `fmax` (R133, R134). -/
def execVaFmax (s : State) : Result := .next (VecOp.issue .fmax s)

/-- `fabs` (R133, R134). -/
def execVaFabs (s : State) : Result := .next (VecOp.issue .fabs s)

/-- `fneg` (R133, R134). -/
def execVaFneg (s : State) : Result := .next (VecOp.issue .fneg s)

/-- `fceq` (R135). -/
def execVaFceq (s : State) : Result := .next (VecOp.issue .fceq s)

/-- `fclt` (R135). -/
def execVaFclt (s : State) : Result := .next (VecOp.issue .fclt s)

/-- `fcle` (R135). -/
def execVaFcle (s : State) : Result := .next (VecOp.issue .fcle s)

/-- `fcun` (R135). -/
def execVaFcun (s : State) : Result := .next (VecOp.issue .fcun s)

/-- `iadd` (R136). -/
def execVaIadd (s : State) : Result := .next (VecOp.issue .iadd s)

/-- `isub` (R136). -/
def execVaIsub (s : State) : Result := .next (VecOp.issue .isub s)

/-- `imul` (R136). -/
def execVaImul (s : State) : Result := .next (VecOp.issue .imul s)

/-- `imulh` (R136). -/
def execVaImulh (s : State) : Result := .next (VecOp.issue .imulh s)

/-- `imin` (R136). -/
def execVaImin (s : State) : Result := .next (VecOp.issue .imin s)

/-- `imax` (R136). -/
def execVaImax (s : State) : Result := .next (VecOp.issue .imax s)

/-- `iminu` (R136). -/
def execVaIminu (s : State) : Result := .next (VecOp.issue .iminu s)

/-- `imaxu` (R136). -/
def execVaImaxu (s : State) : Result := .next (VecOp.issue .imaxu s)

/-- `iadds` (R136). -/
def execVaIadds (s : State) : Result := .next (VecOp.issue .iadds s)

/-- `isubs` (R136). -/
def execVaIsubs (s : State) : Result := .next (VecOp.issue .isubs s)

/-- `iaddus` (R136). -/
def execVaIaddus (s : State) : Result := .next (VecOp.issue .iaddus s)

/-- `isubus` (R136). -/
def execVaIsubus (s : State) : Result := .next (VecOp.issue .isubus s)

/-- `iand` (R136). -/
def execVaIand (s : State) : Result := .next (VecOp.issue .iand s)

/-- `ior` (R136). -/
def execVaIor (s : State) : Result := .next (VecOp.issue .ior s)

/-- `ixor` (R136). -/
def execVaIxor (s : State) : Result := .next (VecOp.issue .ixor s)

/-- `ishl` (R136). -/
def execVaIshl (s : State) : Result := .next (VecOp.issue .ishl s)

/-- `ishr` (R136). -/
def execVaIshr (s : State) : Result := .next (VecOp.issue .ishr s)

/-- `isra` (R136). -/
def execVaIsra (s : State) : Result := .next (VecOp.issue .isra s)

/-- `iceq` (R136). -/
def execVaIceq (s : State) : Result := .next (VecOp.issue .iceq s)

/-- `iclt` (R136). -/
def execVaIclt (s : State) : Result := .next (VecOp.issue .iclt s)

/-- `icltu` (R136). -/
def execVaIcltu (s : State) : Result := .next (VecOp.issue .icltu s)

/-- `sel` (R137). -/
def execVaSel (s : State) : Result := .next (VecOp.issue .sel s)

/-- `cvt` (R138). -/
def execVaCvt (s : State) : Result := .next (VecOp.issue .cvt s)

/-- `dec` (R139). -/
def execVaDec (s : State) : Result := .next (VecOp.issue .dec s)

/-- `enc` (R140). -/
def execVaEnc (s : State) : Result := .next (VecOp.issue .enc s)

/-- `amax` (R141). -/
def execVaAmax (s : State) : Result := .next (VecOp.issue .amax s)

/-- `qscale` (R142). -/
def execVaQscale (s : State) : Result := .next (VecOp.issue .qscale s)

/-- `rsum` (R143). -/
def execVaRsum (s : State) : Result := .next (VecOp.issue .rsum s)

/-- `perm` (R144). -/
def execVaPerm (s : State) : Result := .next (VecOp.issue .perm s)

/-- `bcast` (R144). -/
def execVaBcast (s : State) : Result := .next (VecOp.issue .bcast s)

/-- `shuf` (R144). -/
def execVaShuf (s : State) : Result := .next (VecOp.issue .shuf s)

/-- `mrg` (R137). -/
def execVaMrg (s : State) : Result := .next (VecOp.issue .mrg s)

/-- `iota` (R144). -/
def execVaIota (s : State) : Result := .next (VecOp.issue .iota s)

/-- `exp2`: 2^z (R145, R146). -/
def execSfExp2 (s : State) : Result := .next (SfOp.issue .exp2 s)

/-- `log2`: log₂ z (R145, R146). -/
def execSfLog2 (s : State) : Result := .next (SfOp.issue .log2 s)

/-- `exp`: e^z (R145, R146). -/
def execSfExp (s : State) : Result := .next (SfOp.issue .exp s)

/-- `rcp`: 1 / z (R145, R146). -/
def execSfRcp (s : State) : Result := .next (SfOp.issue .rcp s)

/-- `rsqrt`: 1 / √z (R145, R146). -/
def execSfRsqrt (s : State) : Result := .next (SfOp.issue .rsqrt s)

/-- `sqrt`: √z (R145, R146). -/
def execSfSqrt (s : State) : Result := .next (SfOp.issue .sqrt s)

/-- `tanh`: tanh z (R145, R146). -/
def execSfTanh (s : State) : Result := .next (SfOp.issue .tanh s)

/-- `sigm`: 1 / (1 + e^(−z)) (R145, R146). -/
def execSfSigm (s : State) : Result := .next (SfOp.issue .sigm s)

/-- `sin`: sin z (R145, R146). -/
def execSfSin (s : State) : Result := .next (SfOp.issue .sin s)

/-- `cos`: cos z (R145, R146). -/
def execSfCos (s : State) : Result := .next (SfOp.issue .cos s)

end Sys2Proof.Machine
end

