-- ==== Sys2Proof/Machine/Matrix.lean ====
section
/-!
DEFINITION. The matrix unit MX: the checks and firing of a routine, its line fetches, the result ring, the control forms and
the microprogram store (spec/07 R147 to R165, R170).
-/
namespace Sys2Proof.Machine

/-! ### Formats and parameters (R148, R149) -/

/-- An operand format of MX (R149). -/
def Fmt.isOperand : Fmt → Bool
  | .c8 | .f16 | .bf16 | .f19 => true
  | _ => false

/-- F1, F2 and the code table of a routine; none is reason 0x0E (R149). -/
def mxFormats (pending : Option Word) : Option (Fmt × Fmt × Nat) :=
  match pending with
  | none => some (.bf16, .bf16, 0)
  | some w =>
    let q := FmtWord.ofWord w
    if q.reserved ≠ 0 ∨ q.g ≠ 0 then none
    else match Fmt.ofCode q.f1, Fmt.ofCode q.f2 with
      | some a, some b => if a.isOperand && b.isOperand then some (a, b, q.table) else none
      | _, _ => none

/-- Bytes of one stored element. -/
def Fmt.bytes (f : Fmt) : Nat := f.width / 8

/-- The shape of a routine selector 0x00–0x0F (R156). -/
def standardForm (sel : Nat) : RoutineForm :=
  { rowMajor := [2, 3, 10, 11].contains sel, vectorA := [12, 13].contains sel, scaled := [4, 5, 8, 9].contains sel,
    perturbed := [6, 7, 8, 9, 10, 11].contains sel, accumulates := sel % 2 == 1, outer := [14, 15].contains sel, micro := none }

/-- The fetch interval F of a standard routine (R156). -/
def RoutineForm.fetch (f : RoutineForm) (k : Nat) : Nat := if f.rowMajor then k + 32 else if f.scaled then k + 2 else k

/-- The true beat count B of a standard routine (R156). -/
def RoutineForm.beats (f : RoutineForm) (k : Nat) : Nat := f.fetch k + 14

/-- Signed halves of mp2 (R148). -/
def strideLow (w : Word) : Int := (w.setWidth 32).toInt
def strideHigh (w : Word) : Int := (w.extractLsb' 32 32).toInt

/-- A pointer moved by a signed number of bytes. -/
def ptrAdd (p : Word) (d : Int) : Word := p + BitVec.ofInt 64 d

/-- The directory entry of a pg selector 0x10–0x2F (R162): its start address when valid. -/
def MxState.routineStart (m : MxState) (sel : Nat) : Option Nat :=
  let e := Table.at m.directory 0 (sel - 0x10)
  if e.getLsbD 63 then some (wbits e 9 0) else none

/-- A slot that a routine targets is not ready until the routine, and every routine before it that targets the slot, has completed
it; a slot that nothing is on its way to waits for this routine alone (R160). -/
def MxState.reserve (m : MxState) (slot : Nat) : MxState :=
  let idle : Bool := !(m.ready.any fun r => r.slot == slot) && !(m.routines.any fun r => r.slot == slot && r.form.micro.isNone)
  { m with notReady := slot :: if idle then m.notReady.filter fun k => k ≠ slot else m.notReady }

/-- What word 7 of a ring slip holds (spec/20 R364). -/
def MxState.ringWord (m : MxState) : Word := BitVec.ofNat 64 (m.tail * 16 + m.head)

/-- The MX copy of a record (spec/20 R366): mp3 to mp6, GN.elem, o1, o2. -/
def Tile.mxCopy (t : Tile) : List Word :=
  [t.mx.mp.getD 3 0, t.mx.mp.getD 4 0, t.mx.mp.getD 5 0, t.mx.mp.getD 6 0, t.gn.elem, t.mx.o1, t.mx.o2]

/-! ### Pointer checks (R151) -/

/-- One pointer of a routine: the word, the base it was formed from, its line length, the stride checked with it, and the
offsets of the corner lines. -/
structure RunPointer where
  ptr : Word
  base : Word
  len : Nat
  stride : Int
  corners : List Int
  deriving DecidableEq, Repr

/-- The reason of the address fault of a pointer, lowest first (R151, spec/20 R364). -/
def State.runReason (s : State) (slot site : Nat) (p : RunPointer) : Option Nat :=
  match sumPointerReason p.base p.ptr with
  | some r => some r
  | none =>
    match s.resolve slot site [1, 2] p.ptr with
    | .bad r => some r
    | .sram _ off =>
      if off % p.len ≠ 0 ∨ p.stride % p.len ≠ 0 then some 3
      else if p.corners.any fun c => (off : Int) + c < 0 ∨ 2 ^ 20 < (off : Int) + c + p.len then some 4
      else none

/-- The pointers a standard routine uses (R148, R150, R151); `k` is K. -/
def routinePointers (f : RoutineForm) (m : MxState) (f1 f2 : Fmt) (k : Nat) : List RunPointer :=
  let wa := f1.bytes
  let wb := f2.bytes
  let strideA := strideLow (m.mp.getD 2 0)
  let strideB := strideHigh (m.mp.getD 2 0)
  let last : Int := (k : Int) - 1
  let lastG : Int := ((k + 31) / 32 : Nat) - 1
  let pA := m.mp.getD 0 0 + m.o1
  let a : RunPointer :=
    if f.vectorA then ⟨pA, m.mp.getD 0 0, 32 * wa, 0, [0, lastG * (32 * wa : Nat)]⟩
    else if f.rowMajor then
      ⟨pA, m.mp.getD 0 0, 32 * wa, strideA, [0, 31 * strideA, lastG * (32 * wa : Nat), 31 * strideA + lastG * (32 * wa : Nat)]⟩
    else ⟨pA, m.mp.getD 0 0, 32 * wa, strideA, [0, last * strideA]⟩
  let b : RunPointer := ⟨m.mp.getD 1 0 + m.o2, m.mp.getD 1 0, 64 * wb, strideB, [0, last * strideB]⟩
  let plain (i len : Nat) (n : Int) : RunPointer := ⟨m.mp.getD i 0, m.mp.getD i 0, len, 0, [0, n * (len : Int)]⟩
  [a, b] ++ (if f.scaled then [plain 4 128 lastG, plain 5 256 lastG] else []) ++ (if f.perturbed then [plain 6 64 last] else [])

/-- The first pointer of a routine that fails, and its reason. -/
def State.routineAddressFault (s : State) (slot site : Nat) (ps : List RunPointer) : Option (Word × Nat) :=
  ps.findSome? fun p => (s.runReason slot site p).map fun r => (p.ptr, r)

/-! ### Firing a routine (R157 to R161, R165, R170) -/

/-- A matrix parameter fault: trigger data and mp3 (spec/20 R364). -/
def Trig.matrixFault (g : Trig) (s : State) : State := g.fault s 0x2008 g.b ((s.tile g.site).mx.mp.getD 3 0)

/-- A ring slip: the counters and the trigger's selector (R161). -/
def Trig.ringSlip (g : Trig) (s : State) (cause : Nat) : State :=
  g.fault s cause (s.tile g.site).mx.ringWord (BitVec.ofNat 64 g.sel)

/-- The ring condition of a form with a given occupancy (R161). -/
def ringCause (accumulates : Bool) (occupancy : Nat) : Option Nat :=
  if accumulates then (if occupancy = 0 then some 0x300B else none) else (if 8 ≤ occupancy then some 0x300A else none)

/-- The ring slot of a form (R160). -/
def MxState.slotFor (m : MxState) (accumulates : Bool) : Nat := if accumulates then (m.tail + 15) % 8 else m.tail % 8

/-- Everything a routine reads at c (R148, R149, R157, R165). -/
def Tile.newRoutine (t : Tile) (g : Trig) (f : RoutineForm) (f1 f2 : Fmt) (table slot : Nat) : Routine :=
  let m := t.mx
  let mp3 := m.mp.getD 3 0
  let k := wbits mp3 39 24
  { id := 0, form := f, fired := g.cyc, k := k, row := wbits mp3 44 40, pA := m.mp.getD 0 0 + m.o1, pB := m.mp.getD 1 0 + m.o2,
    pSA := m.mp.getD 4 0, pSB := m.mp.getD 5 0, pL := m.mp.getD 6 0, strideA := strideLow (m.mp.getD 2 0),
    strideB := strideHigh (m.mp.getD 2 0), f1 := f1, f2 := f2, table := table, draw := ⟨t.gn.key, t.gn.stream, t.gn.member⟩,
    e0 := t.gn.elem.toNat, slot := slot, fetchEnd := g.cyc + f.fetch k, readyAt := g.cyc + f.beats k, stated := wbits mp3 23 0,
    lines := [], dead := false, copy := t.mxCopy, mps := m.mp, word := 0, addr := f.micro.getD 0, left := 0, kGroup := 0,
    kAll := 0, lastCommit := none, ended := none, from_ := g.from_ }

/-- The format word is consumed, and o1 and o2 await new writes (R149, R159). -/
def MxState.consume (m : MxState) : MxState := { m with fmt := none, o1w := false, o2w := false }

/-- A standard routine fires: its slot is reserved, its fetch phase begins (R158, R160). -/
def Tile.startRoutine (t : Tile) (g : Trig) (f : RoutineForm) (f1 f2 : Fmt) (table id : Nat) : Tile :=
  let slot := t.mx.slotFor f.accumulates
  let r := { t.newRoutine g f f1 f2 table slot with id := id }
  let m := (t.mx.consume).reserve slot
  let m := { m with routines := m.routines ++ [r], fetchEnd := r.fetchEnd }
  { t with mx := if f.accumulates then m else { m with tailNext := some ((m.tail + 1) % 16) } }

/-- The end of a fetch phase that is not yet known: beyond every cycle a run reaches. -/
def farCycle : Nat := 2 ^ 64

/-- A microprogram routine fires (R165). -/
def Tile.startMicro (t : Tile) (g : Trig) (start : Nat) (f1 f2 : Fmt) (table id : Nat) : Tile :=
  let f : RoutineForm := ⟨false, false, false, false, false, false, some start⟩
  let r := { t.newRoutine g f f1 f2 table 8 with id := id, fetchEnd := farCycle, readyAt := farCycle }
  let m := t.mx.consume
  { t with mx := { m with routines := m.routines ++ [r], fetchEnd := farCycle } }

/-- Reserved bits of mp3, K = 0, or K ≠ 1 for outer (R170). -/
def mp3Bad (mp3 : Word) (f : RoutineForm) : Bool :=
  let k := wbits mp3 39 24
  decide (2 ^ 45 ≤ mp3.toNat) || k == 0 || (f.outer && k != 1)

/-- A standard routine, checked in the order of R170. -/
def fireStandard (op : Nat) (g : Trig) (s : State) : State :=
  let t := s.tile g.site
  let m := t.mx
  let f := standardForm op
  let mp3 := m.mp.getD 3 0
  let k := wbits mp3 39 24
  match mxFormats m.fmt with
  | none => g.badWord s
  | some (f1, f2, table) =>
    match s.routineAddressFault g.slot g.site (routinePointers f m f1 f2 (max k 1)) with
    | some (p, r) => g.fault s 0x2001 p (BitVec.ofNat 64 r)
    | none =>
      if mp3Bad mp3 f then g.matrixFault s
      else if f.perturbed ∧ 2 ^ 40 < t.gn.elem.toNat + 64 * k then g.fault s 0x2006 t.gn.elem 1
      else if wbits mp3 23 0 ≠ f.beats k then
        s.raise g.slot g.site g.from_ 0x3005 0 (BitVec.ofNat 64 (f.beats k)) t.mxCopy
      else
        match ringCause f.accumulates m.occupancy with
        | some cause => g.ringSlip s cause
        | none => s.fresh.mapTile g.site fun t => t.startRoutine g f f1 f2 table s.nextId

/-- The word at an address of the store: micro-words, then the directory (R162). -/
def MxState.storeWord (m : MxState) (a : Nat) : Word := if a < 0x400 then Table.at m.store 0 a else Table.at m.directory 0 (a - 0x400)

/-- The words still to run, as the store stands: cycle of the end word and of the last commit, from the first beat of the word
at `addr` (R164, R165). A store without an end word on the way gives none. -/
def MxState.foresee (m : MxState) : Nat → Nat → Nat → Option Nat → Option (Nat × Option Nat)
  | 0, _, _, _ => none
  | fuel + 1, addr, cycle, last =>
    let w := m.storeWord addr
    match wbits w 63 60 with
    | 0 => some (cycle, last)
    | 4 => m.foresee fuel ((addr + 1) % 1024) (cycle + 1) (some cycle)
    | _ => m.foresee fuel ((addr + 1) % 1024) (cycle + wbits w 55 44 + 1) last

/-- B from the cycle of the end word and of the last commit (R165). -/
def Routine.beatsFrom (r : Routine) (e : Nat) (last : Option Nat) : Nat := max e ((last.map fun x => x + 13).getD 0) - r.fired

/-- The true beat count of a microprogram as the store stands at the end of a cycle (R165). -/
def Routine.trueBeats (r : Routine) (m : MxState) (now : Nat) : Option Nat :=
  match r.ended with
  | some e => some (r.beatsFrom e r.lastCommit)
  | none => (m.foresee 1025 r.addr (now + 1 + r.left) r.lastCommit).map fun p => r.beatsFrom p.1 p.2

/-- A microprogram's stated count differs from B, at c + min(stated, B) (R165): B when the program reaches an end word. -/
def Routine.beatSlip (r : Routine) (m : MxState) (now : Nat) : Option (Option Nat) :=
  if r.form.micro.isNone then none
  else match r.trueBeats m now with
    | some b => if b ≠ r.stated ∧ now = r.fired + min r.stated b then some (some b) else none
    | none => if now = r.fired + r.stated then some none else none

/-- The elements k that the steps with g set reach, as the store stands: one past the last (R157, R164, R165). -/
def MxState.gaussReach (m : MxState) : Nat → Nat → Nat → Nat → Nat
  | 0, _, _, reach => reach
  | fuel + 1, addr, k, reach =>
    let w := m.storeWord addr
    let next := (addr + 1) % 1024
    match wbits w 63 60 with
    | 0 => reach
    | 1 =>
      let k := k + wbits w 55 44 + 1
      m.gaussReach fuel next k (if wbits w 56 56 = 1 then k else reach)
    | _ => m.gaussReach fuel next k reach

/-- A microprogram's element numbers would reach 2^40 at a step, by the store at its trigger's firing cycle (R157, R170, R178). -/
def MxState.microStream (m : MxState) (start : Nat) (e0 : Word) : Bool :=
  let reach := m.gaussReach 1025 start 0 0
  decide (0 < reach ∧ 2 ^ 40 < e0.toNat + 64 * reach)

/-- The slip of R165; a program without an end word has no true count, and word 15 is a free value. -/
def State.raiseBeatSlip (s : State) (slot site : Nat) (r : Routine) (b : Option Nat) : State :=
  match b with
  | some b => s.raise slot site r.from_ 0x3005 0 (BitVec.ofNat 64 b) r.copy
  | none => s.drawn.raise slot site r.from_ 0x3005 0 (Config.freeWord s.draws) r.copy

/-- A microprogram routine (R162, R165, R170): an unwritten one is unassigned (reason 0x06, before 0x0E), or at calx a matrix
parameter fault, which comes after both (R45, R163). One with stated count 0 slips at c: it has fired and consumed its format word, and
then slips (notes/assumptions/30.md). -/
def fireMicro (op : Nat) (calx : Bool) (g : Trig) (s : State) : State :=
  let t := s.tile g.site
  let start := t.mx.routineStart op
  if !calx ∧ start.isNone then g.fault s 0x1006 (BitVec.ofNat 64 (0x06 * 2 ^ 24 + 2 ^ g.from_.slot % 2 ^ 24)) 0
  else match mxFormats t.mx.fmt with
  | none => g.badWord s
  | some (f1, f2, table) =>
    match start with
    | none => g.matrixFault s
    | some start =>
      if mp3Bad (t.mx.mp.getD 3 0) ⟨false, false, false, false, false, false, none⟩ then g.matrixFault s
      else if t.mx.microStream start t.gn.elem then g.fault s 0x2006 t.gn.elem 1
      else
        let s := s.fresh.mapTile g.site fun t => t.startMicro g start f1 f2 table s.nextId
        let m := (s.tile g.site).mx
        match m.routines.getLast? with
        | some r =>
          match r.beatSlip m g.cyc with
          | some b => s.raiseBeatSlip g.slot g.site r b
          | none => s
        | none => s

/-- A routine trigger by its selector (R156, R162). -/
def fireRoutine (op : Nat) (g : Trig) (s : State) : State := if op < 0x10 then fireStandard op g s else fireMicro op false g s

/-- calx: the routine that b names, with its checks and timing (R163). -/
def fireCalx (g : Trig) (s : State) : State :=
  if 0x2F < g.b.toNat then (if (mxFormats (s.tile g.site).mx.fmt).isNone then g.badWord s else g.matrixFault s)
  else if g.b.toNat < 0x10 then fireStandard g.b.toNat g s
  else fireMicro g.b.toNat true g s

/-! ### Control forms (R163, R164) -/

/-- A routine is in its fetch phase. -/
def MxState.fetching (m : MxState) (now : Nat) : Bool := decide (now < m.fetchEnd)

/-- rhead and rtail need an idle ring (R161). -/
def fireSetCounter (set : MxState → Nat → MxState) (g : Trig) (s : State) : State :=
  let m := (s.tile g.site).mx
  if 16 ≤ g.b.toNat then g.matrixFault s
  else if m.fetching g.cyc || m.unready then g.ringSlip s 0x300A
  else s.mapTile g.site fun t => { t with mx := { set t.mx g.b.toNat with waiting := none } }

def fireRhead : Trig → State → State := fireSetCounter fun m n => { m with headNext := some n }
def fireRtail : Trig → State → State := fireSetCounter fun m n => { m with tailNext := some n }

def fireClr (g : Trig) (s : State) : State :=
  if 4 ≤ g.b.toNat then g.matrixFault s
  else s.mapTile g.site fun t =>
    let m := { t.mx with waiting := none }
    let m := if g.b.getLsbD 0 then { m with headNext := some 0, tailNext := some 0 } else m
    { t with mx := if g.b.getLsbD 1 then { m with fmt := none } else m }

/-- `mread` reads the store at c, so an mwrite that performs at c + 2 is not seen; q0's word lands at c + 2 (R163;
notes/assumptions/30.md). -/
def fireMread (g : Trig) (s : State) : State :=
  if 0x41F < g.b.toNat then g.matrixFault s
  else s.mapTile g.site fun t =>
    { t with mx := { t.mx with mread := t.mx.mread ++ [(g.cyc + 2, t.mx.storeWord g.b.toNat)], waiting := none } }

/-- A word that the store accepts (R164). -/
def microWordOk (w : Word) : Bool :=
  let op := wbits w 63 60
  let fl := wbits w 59 56
  let n := wbits w 55 44
  let arg := wbits w 39 0
  wbits w 43 40 == 0 &&
    (match op with
      | 0 => fl == 0 && n == 0 && arg == 0
      | 1 => decide (fl < 4) && arg == 0
      | 2 => fl == 0 && arg == 0
      | 3 => n == 0 && decide (fl < 5)
      | 4 => decide (fl < 2) && n == 0 && arg == 0
      | _ => false)

/-- A directory entry's reserved bits (R162). -/
def directoryOk (w : Word) : Bool := wbits w 62 10 == 0

def MxState.setStore (m : MxState) (a : Nat) (w : Word) : MxState :=
  if a < 0x400 then { m with store := Table.put m.store a w } else { m with directory := Table.put m.directory (a - 0x400) w }

/-- `mwrite` takes o1 as it stands and leaves its mark for the next routine (notes/assumptions/30.md). -/
def fireMwrite (g : Trig) (s : State) : State :=
  let a := (s.tile g.site).mx.o1.toNat
  if 0x41F < a ∨ !(if a < 0x400 then microWordOk g.b else directoryOk g.b) then g.matrixFault s
  else s.mapTile g.site fun t => { t with mx := { t.mx.setStore a g.b with waiting := none } }

/-! ### Lines (R150, R152, R165) -/

/-- One line to fetch: pointer, elements, bytes of one, K-group, place in the group, and its first element number's k. -/
structure LinePlan where
  ptr : Word
  count : Nat
  width : Nat
  group : Nat
  index : Nat
  k : Nat
  deriving DecidableEq, Repr

def LinePlan.bytes (p : LinePlan) : Nat := p.count * p.width

/-- Line kinds: 0 A, 1 B, 2 deviation, 3 A scale, 4 B scale. -/
def lineKinds : List Nat := [0, 1, 2, 3, 4]

/-- The line of a kind that a standard routine fetches n cycles after its first fetch cycle (R150). -/
def Routine.standardLine (r : Routine) (kind n : Nat) : Option LinePlan :=
  let wa := r.f1.bytes
  let g := n / 32
  let off := if r.form.rowMajor then 32 else 0
  let kb := n - off
  match kind with
  | 0 =>
    if r.k ≤ (if r.form.rowMajor then 32 * g else n) then none
    else
      let rest := min 32 (r.k - 32 * g)
      if r.form.rowMajor then some ⟨ptrAdd r.pA ((n % 32 : Nat) * r.strideA + (32 * g * wa : Nat)), rest, wa, g, n % 32, n⟩
      else if r.form.vectorA then (if n % 32 = 0 then some ⟨ptrAdd r.pA (32 * g * wa : Nat), rest, wa, g, 0, n⟩ else none)
      else some ⟨ptrAdd r.pA ((n : Int) * r.strideA), 32, wa, g, n % 32, n⟩
  | 1 => if n < off ∨ r.k ≤ kb then none else some ⟨ptrAdd r.pB ((kb : Int) * r.strideB), 64, r.f2.bytes, kb / 32, kb % 32, kb⟩
  | 2 =>
    if !r.form.perturbed ∨ n < off ∨ r.k ≤ kb then none else some ⟨ptrAdd r.pL (64 * kb : Nat), 64, 1, kb / 32, kb % 32, kb⟩
  | 3 => if r.form.scaled ∧ n % 32 = 0 ∧ n < r.k then some ⟨ptrAdd r.pSA (128 * g : Nat), 32, 4, g, 0, n⟩ else none
  | _ => if r.form.scaled ∧ n % 32 = 0 ∧ n < r.k then some ⟨ptrAdd r.pSB (256 * g : Nat), 64, 4, g, 0, n⟩ else none

/-- The micro-word in progress (R164). -/
def Routine.op (r : Routine) : Nat := wbits r.word 63 60
def Routine.fl (r : Routine) : Nat := wbits r.word 59 56

/-- A step beat is in progress. -/
def Routine.stepping (r : Routine) : Bool := decide (0 < r.left) && r.op == 1

/-- The scale lines are fetched at this step (R165). -/
def Routine.stepScales (r : Routine) : Bool := r.fl / 2 % 2 == 1 && r.kGroup % 32 == 0

/-- The line of a kind that the step beat in progress fetches (R165). -/
def Routine.microLine (r : Routine) (kind : Nat) : Option LinePlan :=
  let g := r.kGroup / 32
  let t := r.kGroup % 32
  if !r.stepping then none
  else match kind with
    | 0 => some ⟨r.pA, 32, r.f1.bytes, g, t, r.kAll⟩
    | 1 => some ⟨r.pB, 64, r.f2.bytes, g, t, r.kAll⟩
    | 2 => if r.fl % 2 = 1 then some ⟨r.pL, 64, 1, g, t, r.kAll⟩ else none
    | 3 => if r.stepScales then some ⟨r.pSA, 32, 4, g, 0, r.kAll⟩ else none
    | _ => if r.stepScales then some ⟨r.pSB, 64, 4, g, 0, r.kAll⟩ else none

/-- The line of a kind that performs at a cycle (R150, R165). -/
def Routine.line (r : Routine) (now kind : Nat) : Option LinePlan :=
  if now ≤ r.fired ∨ r.fetchEnd < now then none
  else if r.form.micro.isSome then r.microLine kind
  else r.standardLine kind (now - r.fired - 1)

/-- The line a unit fetches at a cycle, with the place of its routine: one routine at most is in its fetch phase (R158). -/
def MxState.line (m : MxState) (now kind : Nat) : Option (Nat × LinePlan) :=
  (List.range m.routines.length).findSome? fun i =>
    match m.routines[i]? with
    | some r => (r.line now kind).map fun p => (i, p)
    | none => none

/-- Why a line cannot be fetched at its own cycle (R151, R165). -/
def State.lineReason (s : State) (slot site : Nat) (r : Routine) (kind : Nat) (p : LinePlan) : Option Nat :=
  let stride := if kind = 0 then r.strideA else if kind = 1 then r.strideB else 0
  s.runReason slot site ⟨p.ptr, p.ptr, p.bytes, stride, [0]⟩

/-- Owner and offset of a line. -/
def State.lineTarget (s : State) (slot site : Nat) (p : LinePlan) : Option (Nat × Nat) :=
  match s.resolve slot site [1, 2] p.ptr with
  | .sram owner off => some (owner, off)
  | .bad _ => none

/-- One element of a line as an f19 word (R149). -/
def lineElem (f : Fmt) (tab : CodeTable) (bits : Nat) : Lane := (rne19 (readElem f tab bits)).lane

/-- The raw elements of a line. -/
def lineRaw (bs : List Byte) (width count : Nat) : List Nat :=
  (List.range count).map fun i => leNat ((bs.drop (i * width)).take width)

/-- The lines of a group. -/
def groupAt (l : List (Nat × GroupLines)) (g : Nat) : GroupLines := Table.at l .empty g

/-- Put a B line through the perturbation of R157 and R176. -/
def Routine.perturbLine (r : Routine) (k : Nat) (mu : List Lane) (lam : List Nat) : List Lane :=
  (List.range 64).map fun j => perturb (mu.getD j 0) (lam.getD j 0) (r.draw.call 0 (r.e0 + 64 * k + j))

/-- Take a fetched line in: A and B elements decoded, deviations applied to the B line, scale words kept. -/
def Routine.take (r : Routine) (kind : Nat) (p : LinePlan) (tab : CodeTable) (raw : List Nat) : Routine :=
  let g := groupAt r.lines p.group
  let g := match kind with
    | 0 => { g with a := Table.put g.a p.index (raw.map (lineElem r.f1 tab)) }
    | 1 => { g with b := Table.put g.b p.index (raw.map (lineElem r.f2 tab)) }
    | 2 => { g with b := Table.put g.b p.index (r.perturbLine p.k (Table.at g.b [] p.index) raw) }
    | 3 => { g with sa := raw.map (BitVec.ofNat 32) }
    | _ => { g with sb := raw.map (BitVec.ofNat 32) }
  { r with lines := Table.put r.lines p.group g }

def Tile.setRoutine (t : Tile) (i : Nat) (r : Routine) : Tile := { t with mx := { t.mx with routines := t.mx.routines.set i r } }

/-- A line that lost its bank, or could not be read: its elements are free values (notes/assumptions/1.md). -/
def State.freeRaw (s : State) (width count : Nat) : List Nat :=
  (List.range count).map fun i => (Config.freeWord (s.draws + i)).toNat % 2 ^ (8 * width)

/-- First invalid word of a scale line (R122, R154). -/
def badScaleWord (raw : List Nat) : Option Nat := raw.find? fun w => !scaleValid (BitVec.ofNat 32 w)

/-- One line performs: the address check of a microprogram (R165), an uncorrectable error (spec/20 R367), the scale check (R154),
and the stream check of a microprogram's step, for one that a word written after its firing made (notes/assumptions/30.md); else its
elements enter the routine. -/
def State.fetchLine (s : State) (slot site i kind : Nat) (r : Routine) (p : LinePlan) (lost : Bool) : State :=
  let free (s : State) : State :=
    let raw := s.freeRaw p.width p.count
    { s.mapTile site (fun t => t.setRoutine i (r.take kind p (t.tables.getD r.table (.replicate 256 0)) raw)) with
      draws := s.draws + p.count }
  let kill (s : State) : State := s.mapTile site fun t => t.setRoutine i { r with dead := true }
  match (if r.form.micro.isSome then s.lineReason slot site r kind p else none) with
  | some reason => free (s.raise slot site r.from_ 0x4002 p.ptr (BitVec.ofNat 64 reason) r.copy)
  | none =>
    match s.lineTarget slot site p with
    | none => s
    | some (owner, off) =>
      if lost then free s
      else if s.sramBad owner off p.bytes then kill (s.raise slot site r.from_ 0x5001 (BitVec.ofNat 64 (s.badLine owner off p.bytes)) 0 [])
      else
        let raw := lineRaw (s.sramRead owner off p.bytes) p.width p.count
        if kind = 2 ∧ 2 ^ 40 < r.e0 + 64 * p.k + 64 then kill (s.raise slot site r.from_ 0x2006 (BitVec.ofNat 64 r.e0) 1 [])
        else
          match (if 3 ≤ kind then badScaleWord raw else none) with
          | some w => kill (s.raise slot site r.from_ 0x4006 (BitVec.ofNat 64 w) (BitVec.ofNat 64 p.group) r.copy)
          | none => s.mapTile site fun t => t.setRoutine i (r.take kind p (t.tables.getD r.table (.replicate 256 0)) raw)

/-- A line fetch that lost its bank in this cycle (spec/10 R213). -/
def State.lostLine (s : State) (site kind : Nat) : Bool := s.losers.contains (4, site, kind)

/-- One operand line of the routine in its fetch phase performs (R150, R152, R154, R157, R165). -/
def execMxLineFetch (site line : Nat) (s : State) : Result :=
  .next (match s.slotOf site with
    | none => s
    | some slot =>
      let m := (s.tile site).mx
      match m.line (s.domain slot).dcc line with
      | some (i, p) =>
        match m.routines[i]? with
        | some r => s.fetchLine slot site i line r p (s.lostLine site line)
        | none => s
      | none => s)

/-! ### The slot (R153, R156, R158) -/

/-- The f19 value A(i, 32g + t) as fetched; +0 where none was (R150, R153). -/
def aElem (f : RoutineForm) (g : GroupLines) (i t : Nat) : Val :=
  let w := if f.rowMajor then (Table.at g.a [] i).getD t 0
    else if f.vectorA then (Table.at g.a [] 0).getD t 0
    else (Table.at g.a [] t).getD i 0
  readF19 w

def bElem (g : GroupLines) (t j : Nat) : Val := readF19 ((Table.at g.b [] t).getD j 0)

/-- One element after all groups, with its flags (R153). A microprogram's group whose first step fetched no scale line is summed
unscaled, whatever the other groups have (notes/assumptions/30.md). -/
def slotElem (f : RoutineForm) (groups : List GroupLines) (acc : Lane) (i j : Nat) : Lane × Flags :=
  groups.foldl (fun (p : Lane × Flags) g =>
    let (x, fl) := groupSum ((List.range 32).map (aElem f g i)) ((List.range 32).map fun t => bElem g t j)
    let scales := if g.sa.isEmpty then none else some (g.sa.getD i 0, g.sb.getD j 0)
    let (a, fa) := accumulate p.1 x scales
    (a, p.2 ||| fl ||| fa)) (acc, 0)

/-- The rows a routine forms: all, or row r of mv and mva (R156). -/
def SlotReady.forms (r : SlotReady) (i : Nat) : Bool := !r.form.vectorA || i == r.row

/-- The slot's new contents, row by row (R153, R156). -/
def SlotReady.rows (r : SlotReady) (old : RingSlot) : Vector (List (Lane × Flags)) 32 :=
  let groups := r.lines.map (·.2)
  Vector.ofFn fun i =>
    (List.range 64).map fun j =>
      let acc := if r.form.accumulates then (old.getD i.val .zero).lane j else 0
      if r.forms i.val then slotElem r.form groups acc i.val j else (acc, 0)

def rowVec (l : List (Lane × Flags)) : Vec := Vec.gen fun j => (l.getD j (0, 0)).1

/-- The slot becomes ready: contents and the routine's flags (R153, R158). -/
def Tile.completeSlot (t : Tile) (r : SlotReady) : Tile :=
  let rows := r.rows (t.mx.ring.getD r.slot .zero)
  let flags := rows.toList.foldl (fun f row => row.foldl (fun f p => f ||| p.2) f) 0
  let m := { t.mx with ring := t.mx.ring.setIfInBounds r.slot (rows.map rowVec), notReady := t.mx.notReady.erase r.slot,
                       ready := t.mx.ready.drop 1 }
  ({ t with mx := m }).landFlags flags

/-- A result-ring slot becomes ready (R158, R165). -/
def execMxSlotReady (site : Nat) (s : State) : Result :=
  .next (match (s.tile site).mx.ready with
    | r :: _ => s.mapTile site fun t => t.completeSlot r
    | [] => s)

/-! ### Beats (R158, R165) -/

/-- At the first beat of a micro-word the word is read; an end word ends the fetch phase (R165). -/
def Routine.readWord (r : Routine) (m : MxState) (now : Nat) : Routine :=
  if r.form.micro.isSome ∧ r.ended.isNone ∧ r.left = 0 ∧ r.fired < now then
    let w := m.storeWord r.addr
    let r := { r with word := w, addr := (r.addr + 1) % 1024, left := wbits w 55 44 + 1 }
    if wbits w 63 60 = 0 then { r with ended := some now, fetchEnd := now } else r
  else r

/-- The true beat count of a microprogram that has met its end (R165). -/
def Routine.microBeats (r : Routine) : Option Nat :=
  r.ended.map fun e => max e ((r.lastCommit.map fun x => x + 13).getD 0) - r.fired

/-- The pointer of a ptr word (R164): pointer := mp[index] + offset. -/
def Routine.setPointer (r : Routine) : Routine :=
  let off := (r.word.extractLsb' 0 37 : BitVec 37).toInt
  let p := ptrAdd (r.mps.getD (wbits r.word 39 37) 0) off
  match r.fl with
  | 0 => { r with pA := p }
  | 1 => { r with pB := p }
  | 2 => { r with pSA := p }
  | 3 => { r with pSB := p }
  | _ => { r with pL := p }

/-- After a step beat the pointers move on (R165). -/
def Routine.stepOn (r : Routine) : Routine :=
  let r := if r.stepScales then { r with pSA := r.pSA + 128, pSB := r.pSB + 256 } else r
  { r with pA := ptrAdd r.pA r.strideA, pB := ptrAdd r.pB r.strideB, pL := r.pL + 64,
           kGroup := r.kGroup + 1, kAll := r.kAll + 1 }

/-- A commit at cycle x: the slot it takes becomes ready at x + 13, and the accumulators return to +0 (R165). -/
def MxState.commit (m : MxState) (r : Routine) (now : Nat) : MxState :=
  let acc : Bool := r.fl % 2 = 1
  let slot := m.slotFor acc
  let f : RoutineForm := { r.form with accumulates := acc }
  let m := m.reserve slot
  let m := if r.dead then m else { m with ready := m.ready ++ [⟨slot, now + 13, f, 0, r.lines⟩] }
  if acc then m else { m with tailNext := some ((m.tail + 1) % 16) }

/-- A microprogram's beat ends (R165). -/
def State.endBeat (s : State) (slot site i : Nat) (r : Routine) (now : Nat) : State :=
  if r.left = 0 then s
  else
    let r' := { r with left := r.left - 1 }
    match r.op with
    | 1 => s.mapTile site fun t => t.setRoutine i r'.stepOn
    | 3 => s.mapTile site fun t => t.setRoutine i r'.setPointer
    | 4 =>
      let m := (s.tile site).mx
      let done := { r' with lines := [], kGroup := 0, lastCommit := some now }
      match ringCause (r.fl % 2 == 1) m.occupancy with
      | some cause =>
        (s.raise slot site r.from_ cause m.ringWord ((r.from_.slotValue.extractLsb' 4 7).setWidth 64) []).mapTile site fun t =>
          t.setRoutine i done
      | none => s.mapTile site fun t => ({ t with mx := t.mx.commit r now }).setRoutine i done
    | _ => s.mapTile site fun t => t.setRoutine i r'

/-- A standard routine whose fetch phase has ended waits for its slot; a microprogram stays until its beat count is settled. -/
def MxState.retire (m : MxState) (now : Nat) : MxState :=
  let isOver (r : Routine) : Bool := r.form.micro.isNone && decide (r.fetchEnd ≤ now)
  let gone (r : Routine) : Bool :=
    match r.microBeats with
    | some b => r.form.micro.isSome && decide (r.fired + max b r.stated ≤ now)
    | none => false
  let done : List SlotReady := (m.routines.filter fun r => isOver r && !r.dead).map fun r => ⟨r.slot, r.readyAt, r.form, r.row, r.lines⟩
  { m with routines := m.routines.filter fun r => !(isOver r || gone r), ready := m.ready ++ done }

/-- Start of a cycle's beats: words are read, an ended fetch phase is noted. -/
def MxState.readWords (m : MxState) (now : Nat) : MxState :=
  let rs := m.routines.map fun r => r.readWord m now
  let ended := rs.findSome? fun r => if r.ended = some now then some now else none
  { m with routines := rs, fetchEnd := ended.getD m.fetchEnd }

/-- End of a cycle's beats on a tile: pointers and commits, beat-count slips, routines that have fetched all. -/
def State.endBeats (s : State) (slot site now : Nat) : State :=
  let rs := (s.tile site).mx.routines
  let s := (List.range rs.length).foldl (fun s i =>
    match (s.tile site).mx.routines[i]? with
    | some r =>
      let s := if r.form.micro.isSome ∧ r.fired < now then s.endBeat slot site i r now else s
      match (s.tile site).mx.routines[i]? with
      | some r =>
        match r.beatSlip (s.tile site).mx now with
        | some b => s.raiseBeatSlip slot site r b
        | none => s
      | none => s
    | none => s) s
  s.mapTile site fun t => { t with mx := t.mx.retire now }

/-- Counter values and mp7 of an mread that take effect in this cycle (R160, R163). -/
def MxState.settle (m : MxState) (now : Nat) : MxState :=
  let m := { m with head := m.headNext.getD m.head, tail := m.tailNext.getD m.tail, headNext := none, tailNext := none }
  match m.mread.find? fun p => p.1 = now with
  | some p => { m with mp := m.mp.setIfInBounds 7 p.2, mread := m.mread.filter fun q => q.1 ≠ now }
  | none => m

/-! ### The meanings -/

/-- Issue of a routine trigger. -/
def State.issueRoutine (s : State) (op : Nat) : State := s.trigger [.mx] (fireRoutine op)

/-- The pg selector of the slot being issued (R45). -/
def State.pgSel (s : State) : Nat := s.curSlot.sel.toNat

/-- `mm` (R156). -/
def execMxMm (s : State) : Result := .next (s.issueRoutine 0x00)

/-- `mma` (R156). -/
def execMxMma (s : State) : Result := .next (s.issueRoutine 0x01)

/-- `mmt` (R156). -/
def execMxMmt (s : State) : Result := .next (s.issueRoutine 0x02)

/-- `mmta` (R156). -/
def execMxMmta (s : State) : Result := .next (s.issueRoutine 0x03)

/-- `mmb` (R156). -/
def execMxMmb (s : State) : Result := .next (s.issueRoutine 0x04)

/-- `mmba` (R156). -/
def execMxMmba (s : State) : Result := .next (s.issueRoutine 0x05)

/-- `mmg` (R156). -/
def execMxMmg (s : State) : Result := .next (s.issueRoutine 0x06)

/-- `mmga` (R156). -/
def execMxMmga (s : State) : Result := .next (s.issueRoutine 0x07)

/-- `mmgb` (R156). -/
def execMxMmgb (s : State) : Result := .next (s.issueRoutine 0x08)

/-- `mmgba` (R156). -/
def execMxMmgba (s : State) : Result := .next (s.issueRoutine 0x09)

/-- `mmgt` (R156). -/
def execMxMmgt (s : State) : Result := .next (s.issueRoutine 0x0A)

/-- `mmgta` (R156). -/
def execMxMmgta (s : State) : Result := .next (s.issueRoutine 0x0B)

/-- `mv` (R156). -/
def execMxMv (s : State) : Result := .next (s.issueRoutine 0x0C)

/-- `mva` (R156). -/
def execMxMva (s : State) : Result := .next (s.issueRoutine 0x0D)

/-- `outer` (R156). -/
def execMxOuter (s : State) : Result := .next (s.issueRoutine 0x0E)

/-- `outera` (R156). -/
def execMxOutera (s : State) : Result := .next (s.issueRoutine 0x0F)

/-- `pg16` to `pg47`: the microprogram routine of the selector (R162, R165). -/
def execMxPgRoutine (s : State) : Result := .next (s.issueRoutine s.pgSel)

/-- `calx`: routine b (R163). -/
def execMxCalx (s : State) : Result := .next (s.trigger [.mx] fireCalx)

/-- `rhead`: head := b (R163). -/
def execMxRhead (s : State) : Result := .next (s.trigger [.mx] fireRhead)

/-- `rtail`: tail := b (R163). -/
def execMxRtail (s : State) : Result := .next (s.trigger [.mx] fireRtail)

/-- `clr`: counters and format word (R163). -/
def execMxClr (s : State) : Result := .next (s.trigger [.mx] fireClr)

/-- `mread`: mp7 := a store word (R163). -/
def execMxMread (s : State) : Result := .next (s.trigger [.mx] fireMread)

/-- `mwrite`: writes a store word (R163). -/
def execMxMwrite (s : State) : Result := .next (s.trigger [.mx] fireMwrite)

end Sys2Proof.Machine
end

