-- ==== Sys2Proof/Machine/Network.lean ====
section
/-!
DEFINITION. The socket NS and the timed mesh: sends, tags, hops with their link collisions, landings with their landing
collisions, and deposits (spec/11 R215 to R221, spec/01 R17).
-/
namespace Sys2Proof.Machine

/-! ### Targets (R216, R221) -/

/-- The reason of an address fault of dst: space, must-be-zero bits with dst[19:6], grid (R216, R221). -/
def State.dstTarget (s : State) (slot site : Nat) (dst : Word) : Resolved :=
  if ptrSpace dst ≠ 3 ∧ ptrSpace dst ≠ 7 then .bad 1
  else if !ptrMbz dst || wbits dst 19 6 != 0 then .bad 2
  else s.resolve slot site [3, 7] dst

/-- The target of a deposit of n bytes aligned to `align` (R217, R221). -/
def State.depositTarget (s : State) (slot site n align : Nat) (p : Word) : Resolved :=
  if ptrSpace p ≠ 3 ∧ ptrSpace p ≠ 7 then .bad 1
  else if !ptrMbz p then .bad 2
  else if ptrOffset p % align ≠ 0 then .bad 3
  else if 2 ^ 20 < ptrOffset p + n then .bad 4
  else s.resolve slot site [3, 7] p

/-! ### Items (R217, R218) -/

/-- The planes an item occupies (R217). -/
def MeshPayload.planes : MeshPayload → List Nat
  | .scalar _ p _ | .part _ p _ => [p]
  | .deposit off _ => [off / 64 % 4]
  | .whole _ _ | .depositV _ _ => [0, 1, 2, 3]

/-- The landing register of an item; none for a deposit. -/
def MeshPayload.reg : MeshPayload → Option Nat
  | .scalar r _ _ | .part r _ _ | .whole r _ => some r
  | .deposit _ _ | .depositV _ _ => none

/-- Put an item on the mesh: of its own, or handed over by a drnet. -/
def State.sendItem (s : State) (slot src dst fired : Nat) (tag : BitVec 7) (payload : MeshPayload) (flags : Flags)
    (o : Origin) (cause : Option Nat := none) : State :=
  let it : MeshItem := ⟨s.nextId, cause.getD s.nextId, src, dst, fired, 0, tag, payload, flags, o⟩
  s.fresh.mapDomain slot fun d => { d with mesh := d.mesh ++ [it] }

/-- The counter after a tagged send: (t mod 127) + 1 (R217). -/
def nextTag (t : BitVec 7) : BitVec 7 := BitVec.ofNat 7 (t.toNat % 127 + 1)

/-- A tagged send to the target of dst (R216, R217). -/
def Trig.sendTo (g : Trig) (s : State) (payload : Nat → Nat → MeshPayload) : State :=
  let t := s.tile g.site
  match s.dstTarget g.slot g.site t.ns.dst with
  | .bad r => g.fault s 0x2001 t.ns.dst (BitVec.ofNat 64 r)
  | .sram dst _ =>
    let p := payload (wbits t.ns.dst 3 0) (wbits t.ns.dst 5 4)
    (s.sendItem g.slot g.site dst g.cyc t.ns.counter p 0 g.from_).mapTile g.site fun t =>
      { t with ns := { t.ns with counter := nextTag t.ns.counter } }

def fireSends (g : Trig) (s : State) : State := g.sendTo s fun k p => .scalar k p g.b
def fireSend (g : Trig) (s : State) : State := g.sendTo s fun k p => .part k p g.v
def fireSendv (g : Trig) (s : State) : State := g.sendTo s fun k _ => .whole k g.v

/-- A deposit through o1 (R216, R217). -/
def Trig.depositTo (g : Trig) (s : State) (n align : Nat) (payload : Nat → MeshPayload) : State :=
  let p := (s.tile g.site).ns.o1
  match s.depositTarget g.slot g.site n align p with
  | .bad r => g.fault s 0x2001 p (BitVec.ofNat 64 r)
  | .sram dst off => s.sendItem g.slot g.site dst g.cyc 0 (payload off) 0 g.from_

def fireDep (g : Trig) (s : State) : State := g.depositTo s 8 8 fun off => .deposit off g.b
def fireDepv (g : Trig) (s : State) : State := g.depositTo s 256 64 fun off => .depositV off g.v

/-- A transport parameter fault (R221). -/
def Trig.transportFault (g : Trig) (s : State) : State := g.fault s 0x2009 g.b (s.tile g.site).ns.o1

/-- The detail word of a tag mismatch: register, expected tag, tag held (spec/20 R364). -/
def tagWord (k : Nat) (expected held : BitVec 7) : Word := BitVec.ofNat 64 (k * 2 ^ 16 + expected.toNat * 2 ^ 8 + held.toNat)

def NsState.landing (x : NsState) (k : Nat) : Landing := x.ln.getD k ⟨.zero, 0⟩

/-- fwd: the target, its own bits, then the tag of the register it reads are checked (R217, R219, R221). -/
def fireFwd (g : Trig) (s : State) : State :=
  let t := s.tile g.site
  let k := wbits g.b 3 0
  let want : BitVec 7 := g.b.extractLsb' 4 7
  let l := t.ns.landing k
  match s.dstTarget g.slot g.site t.ns.dst with
  | .bad r => g.fault s 0x2001 t.ns.dst (BitVec.ofNat 64 r)
  | .sram _ _ =>
    if 2 ^ 11 ≤ g.b.toNat then g.transportFault s
    else if l.tag ≠ want then g.fault s 0x3001 (tagWord k want l.tag) 0
    else g.sendTo s fun k _ => .whole k l.data

def fireTag (g : Trig) (s : State) : State :=
  if g.b.toNat = 0 ∨ 127 < g.b.toNat then g.transportFault s
  else s.mapTile g.site fun t => { t with ns := { t.ns with counter := g.b.setWidth 7 } }

/-- Clear the landing registers of a mask (R217). -/
def NsState.clear (x : NsState) (mask : Word) : NsState :=
  { x with ln := Vector.ofFn fun k => if mask.getLsbD k.val then ⟨.zero, 0⟩ else x.landing k.val }

def fireLclr (g : Trig) (s : State) : State :=
  if 2 ^ 16 ≤ g.b.toNat then g.transportFault s
  else s.mapTile g.site fun t => { t with ns := t.ns.clear g.b }

/-! ### Hops (R218, R220) -/

/-- Both ends of an item's route, in domain coordinates (R17). -/
def State.itemEnds (s : State) (slot : Nat) (it : MeshItem) : (Nat × Nat) × (Nat × Nat) := (s.xy slot it.src, s.xy slot it.dst)

/-- Hops of an item's route; hop h + 1 is the ingress. -/
def State.itemHops (s : State) (slot : Nat) (it : MeshItem) : Nat := (routeCost (s.xy slot it.src) (s.xy slot it.dst)).1

/-- The cycle of hop k, the ingress being hop h + 1 (R218). -/
def State.hopCycle (s : State) (slot : Nat) (it : MeshItem) (k : Nat) : Nat :=
  let (p, q) := s.itemEnds slot it
  it.fired + 2 + 2 * k + (s.domain slot).spec.crossing * crossingsTo p q (k - 1)

/-- The router and the link (0–3, 4 ingress) of hop k. -/
def State.hopLink (s : State) (slot : Nat) (it : MeshItem) (k : Nat) : (Nat × Nat) × Nat :=
  let (p, q) := s.itemEnds slot it
  (routeAt p q (k - 1), if s.itemHops slot it < k then 4 else hopDir p q (k - 1))

/-- The cycle in which an item lands, or its deposit performs (R218). -/
def State.landCycle (s : State) (slot : Nat) (it : MeshItem) : Nat :=
  s.hopCycle slot it (s.itemHops slot it + 1) + (if it.payload.reg.isSome then 1 else 2)

/-- An item that has already taken the same link of a common plane in this cycle. -/
def State.linkHolder (s : State) (slot : Nat) (it : MeshItem) (k : Nat) : Option MeshItem :=
  let now := (s.domain slot).dcc
  (s.domain slot).mesh.find? fun o =>
    o.id != it.id && decide (1 ≤ o.hop) && decide (o.hop ≤ s.itemHops slot o + 1) && s.hopCycle slot o o.hop == now &&
      s.hopLink slot o o.hop == s.hopLink slot it k && o.payload.planes.any fun p => it.payload.planes.contains p

/-- Lowest plane that two items share. -/
def commonPlane (a b : MeshPayload) : Nat := (a.planes.find? fun p => b.planes.contains p).getD 0

/-- The requester word of an item as a recording tile writes it (spec/20 R364). -/
def State.itemWord (s : State) (slot site : Nat) (it : MeshItem) (proceeded : Bool) : Word :=
  requesterWord 2 proceeded (it.src == site) (s.flat slot it.src) it.from_.slot it.from_.bundle

def Domain.dropItem (d : Domain) (id : Nat) : Domain := { d with mesh := d.mesh.filter fun o => o.id ≠ id }
def Domain.putItem (d : Domain) (it : MeshItem) : Domain := { d with mesh := d.mesh.map fun o => if o.id = it.id then it else o }

/-- An item takes its next hop, or is discarded in a link collision that the router's tile detects (R220). Items of one cycle come
in order of their sender's flat number. -/
def State.hopItem (s : State) (slot : Nat) (it : MeshItem) : State :=
  let k := it.hop + 1
  match s.linkHolder slot it k with
  | none => s.mapDomain slot fun d => d.putItem { it with hop := k }
  | some o =>
    let (at_, dir) := s.hopLink slot it k
    let s := s.mapDomain slot fun d => d.dropItem it.id
    match s.siteAt slot at_.1 at_.2 with
    | some site =>
      let w7 := BitVec.ofNat 64 (commonPlane o.payload it.payload * 2 ^ 8 + dir)
      s.raiseBare slot site 0x3008 w7 0 [s.itemWord slot site o true, s.itemWord slot site it false]
    | none => s

/-- The item with an identifier. -/
def Domain.item (d : Domain) (id : Nat) : Option MeshItem := d.mesh.find? fun o => o.id == id

/-- A hop, or the ingress, of a timed-mesh item (R218, R220). -/
def execMeshLinkHop (slot id : Nat) (s : State) : Result :=
  .next (match (s.domain slot).item id with
    | some it => s.hopItem slot it
    | none => s)

/-! ### Landing (R217, R220, spec/21 R382) -/

/-- What an item does to a landing register (R217). -/
def Landing.take (l : Landing) (p : MeshPayload) (tag : BitVec 7) : Landing :=
  match p with
  | .scalar _ _ w => ⟨scalarVec w, tag⟩
  | .part _ p v => ⟨Vec.gen fun i => if i / 16 = p then v.lane i else l.data.lane i, tag⟩
  | .whole _ v => ⟨v, tag⟩
  | _ => l

/-- The log entry of an item that lands during a drain (spec/21 R382). -/
def MeshItem.logEntry (it : MeshItem) (delay : Nat) : LogEntry :=
  match it.payload with
  | .scalar r p w => ⟨r, true, p, it.tag, scalarVec w, delay⟩
  | .part r p v => ⟨r, false, p, it.tag, v, delay⟩
  | .whole r v => ⟨r, true, 0, it.tag, v, delay⟩
  | _ => ⟨0, true, 0, 0, .zero, delay⟩

def NsState.takeItem (x : NsState) (it : MeshItem) : NsState :=
  match it.payload.reg with
  | some k => { x with ln := x.ln.setIfInBounds k ((x.landing k).take it.payload it.tag) }
  | none => x

/-- An item that has landed in the same register in this cycle. -/
def State.landingHolder (s : State) (slot : Nat) (it : MeshItem) : Option MeshItem :=
  let now := (s.domain slot).dcc
  (s.domain slot).mesh.find? fun o =>
    o.id != it.id && o.dst == it.dst && o.payload.reg == it.payload.reg && o.hop == s.itemHops slot o + 2 && s.landCycle slot o == now

/-- An item lands, or is discarded in a landing collision that the target tile detects (R220). -/
def State.landItem (s : State) (slot : Nat) (it : MeshItem) : State :=
  match s.landingHolder slot it with
  | some o =>
    let s := s.mapDomain slot fun d => d.dropItem it.id
    s.raiseBare slot it.dst 0x3009 (BitVec.ofNat 64 (it.payload.reg.getD 0)) 0
      [s.itemWord slot it.dst o true, s.itemWord slot it.dst it false]
  | none =>
    let d := s.domain slot
    let s := s.mapDomain slot fun d => d.putItem { it with hop := s.itemHops slot it + 2 }
    match d.draining with
    | some w => s.mapTile it.dst fun t => { t with landingLog := t.landingLog ++ [it.logEntry (d.dcc - w.from0)] }
    | none => s.mapTile it.dst fun t => { t with ns := t.ns.takeItem it }

/-- An item lands in its landing register (R217, R220). -/
def execMeshItemLanding (slot id : Nat) (s : State) : Result :=
  .next (match (s.domain slot).item id with
    | some it => s.landItem slot it
    | none => s)

/-- The bytes a deposit writes. -/
def MeshPayload.bytes : MeshPayload → List Byte
  | .deposit _ w => leBytes 8 w.toNat
  | .depositV _ v => bytesOfVec v
  | _ => []

def MeshPayload.off : MeshPayload → Nat
  | .deposit off _ | .depositV off _ => off
  | _ => 0

/-- A deposit that lost its bank in this cycle (spec/10 R213). -/
def State.lostDeposit (s : State) (id : Nat) : Bool := s.losers.contains (2, id, 0)

/-- A dep or depv performs in the target's SRAM; one that loses its bank performs nothing (R218, spec/10 R213). -/
def execDepositPerform (slot id : Nat) (s : State) : Result :=
  .next (match (s.domain slot).item id with
    | some it =>
      let s := s.mapDomain slot fun d => d.dropItem id
      if s.lostDeposit id then s
      else (s.sramWrite it.dst it.payload.off it.payload.bytes).mapTile it.src fun t => t.landFlags it.flags
    | none => s)

/-- Items that have landed leave the mesh at the end of their cycle. -/
def State.sweepMesh (s : State) (slot : Nat) : State :=
  s.mapDomain slot fun d => { d with mesh := d.mesh.filter fun it => decide (it.hop < s.itemHops slot it + 2) }

/-- `sends` (R217). -/
def execNsSends (s : State) : Result := .next (s.trigger [.ns] fireSends)

/-- `send` (R217). -/
def execNsSend (s : State) : Result := .next (s.trigger [.ns] fireSend)

/-- `sendv` (R217). -/
def execNsSendv (s : State) : Result := .next (s.trigger [.ns] fireSendv)

/-- `dep` (R217). -/
def execNsDep (s : State) : Result := .next (s.trigger [.ns] fireDep)

/-- `depv` (R217). -/
def execNsDepv (s : State) : Result := .next (s.trigger [.ns] fireDepv)

/-- `fwd` (R217). -/
def execNsFwd (s : State) : Result := .next (s.trigger [.ns] fireFwd)

/-- `tag` (R217). -/
def execNsTag (s : State) : Result := .next (s.trigger [.ns] fireTag)

/-- `lclr` (R217). -/
def execNsLclr (s : State) : Result := .next (s.trigger [.ns] fireLclr)

end Sys2Proof.Machine
end

