-- ==== Sys2Proof/Machine/Epilogue.lean ====
section
/-!
DEFINITION. The epilogue socket EP: the element path, the drain operations with their checks, and the row writes
(spec/07 R166 to R170).
-/
namespace Sys2Proof.Machine

/-! ### Ports (R166) -/

/-- The result formats of EP (R166). -/
def Fmt.isDrained : Fmt → Bool
  | .f32 | .f19 | .f16 | .bf16 | .c8 | .i8 | .i16 | .i32 | .n8 | .n16 | .n32 => true
  | _ => false

/-- act, G and the code table of an EP trigger; none is reason 0x0E (R166). -/
def epWords (act ofmt : Word) : Option (Nat × Fmt × Nat) :=
  let q := FmtWord.ofWord ofmt
  if 3 < act.toNat ∨ q.reserved ≠ 0 then none
  else match Fmt.ofCode q.f1, Fmt.ofCode q.f2, Fmt.ofCode q.g with
    | some _, some _, some g => if g.isDrained then some (act.toNat, g, q.table) else none
    | _, _, _ => none

/-! ### The element path (R167, R169) -/

/-- The activations of R167. -/
def epAct (act : Nat) (v : Lane) : Lane × Flags :=
  match act with
  | 1 => if (readF32 v).isNan then (0x7FC00000#32, 0) else if v.toNat = 0 ∨ 2 ^ 31 ≤ v.toNat then (0, 0) else (v, 0)
  | 2 => SfOp.lane .tanh v
  | 3 => SfOp.lane .sigm v
  | _ => (v, 0)

/-- ep of R167 for column j: the element of format G and its flags. -/
def Drain.ep (d : Drain) (acc : Lane) (j : Nat) : Nat × Flags :=
  let (v, f1) := mulF32 acc (d.scl.lane j)
  let (v, f2) := addF32 v (d.bias.lane j)
  let (v, f3) := epAct d.act v
  let (e, f4) := convertElem .f32 d.g d.codeTable .rne false 0 v.toNat
  (e, f1 ||| f2 ||| f3 ||| f4)

/-- Elements packed as in memory (spec/06 R126), with their flags. -/
def packElems (g : Fmt) (es : List (Nat × Flags)) : List Byte × Flags :=
  (es.flatMap fun e => leBytes (g.width / 8) e.1, es.foldl (fun f e => f ||| e.2) 0)

def Drain.ring (d : Drain) (i j : Nat) : Lane := ((d.slot.getD RingSlot.zero).getD i .zero).lane j

/-- ep of row i. -/
def Drain.rowBytes (d : Drain) (i : Nat) : List Byte × Flags :=
  packElems d.g ((List.range 64).map fun j => d.ep (d.ring i j) j)

/-- ep of column j. -/
def Drain.columnBytes (d : Drain) (j : Nat) : List Byte × Flags :=
  packElems d.g ((List.range 32).map fun i => d.ep (d.ring i j) j)

/-- ep of the five-level tree sum of every column (R169). -/
def Drain.sumBytes (d : Drain) : List Byte × Flags :=
  packElems d.g ((List.range 64).map fun j =>
    let (x, f) := treeSum 5 ((List.range 32).map fun i => d.ring i j)
    let (e, f') := d.ep x j
    (e, f ||| f'))

/-- A row in 256 bytes, the rest zero (R168). -/
def rowVec256 (bs : List Byte) : Vec := vecOfBytes (bs ++ List.replicate (256 - bs.length) 0)

/-- Number of lines an operation writes, and their bytes (R168). -/
def DrainKind.lines : DrainKind → Nat
  | .rows | .net => 32
  | .columns => 64
  | .sum => 1
  | .row _ => 0

def DrainKind.lineBytes (k : DrainKind) (g : Fmt) : Nat := (if k = .columns then 32 else 64) * (g.width / 8)

/-- Line i of an operation, with its flags. -/
def Drain.lineData (d : Drain) (i : Nat) : List Byte × Flags :=
  match d.kind with
  | .columns => d.columnBytes i
  | .sum => d.sumBytes
  | _ => d.rowBytes i

/-- Perform cycle of line i: c + 5 + i, or c + 10 for drsum (R168). -/
def Drain.lineCycle (d : Drain) (i : Nat) : Nat :=
  match d.kind with
  | .sum => d.fired + 10
  | .net => d.fired + 4 + i
  | _ => d.fired + 5 + i

/-- The pointer of line i. -/
def Drain.linePtr (d : Drain) (i : Nat) : Word := d.dst + BitVec.ofNat 64 i * d.stride

/-! ### Firing (R161, R168 to R170) -/

/-- The operation of a selector (R168): drop has none. -/
def drainKindOf (sel : Nat) (row : Nat) : DrainKind :=
  match sel with
  | 0 => .rows | 1 => .columns | 2 => .sum | 3 => .net | _ => .row row

/-- Interval of an operation (R168). -/
def drainInterval (sel : Nat) : Nat := match sel with | 0 => 32 | 1 => 64 | 2 => 8 | 3 => 32 | _ => 1

/-- The head slot is occupied and ready at cycle n (R161). -/
def MxState.headReady (m : MxState) (n : Nat) : Bool :=
  let slot := m.head % 8
  m.occupancy != 0 &&
    decide ((m.notReady.filter fun k => k = slot).length ≤ (m.ready.filter fun r => r.slot == slot && decide (r.due ≤ n)).length)

/-- The address reason of dst and o1 for an operation (R168). -/
def State.drainReason (s : State) (slot site : Nat) (k : DrainKind) (g : Fmt) (dst stride : Word) : Option Nat :=
  let len := k.lineBytes g
  let o1 := stride.toInt
  let last : Int := ((k.lines : Int) - 1) * o1
  match k with
  | .row _ => none
  | .net =>
    match s.depositTarget slot site 256 64 dst with
    | .bad r => some r
    | .sram _ off =>
      if o1 % 64 ≠ 0 then some 3
      else if (off : Int) + last < 0 ∨ 2 ^ 20 < (off : Int) + last + 256 then some 4 else none
  | _ =>
    match s.resolve slot site [1] dst with
    | .bad r => some r
    | .sram _ off =>
      if off % len ≠ 0 ∨ o1 % len ≠ 0 then some 3
      else if 2 ^ 20 < off + len ∨ (off : Int) + last < 0 ∨ 2 ^ 20 < (off : Int) + last + len then some 4
      else none

/-- Everything an operation reads at c (R166, R168). -/
def Tile.newDrain (t : Tile) (g : Trig) (id : Nat) (k : DrainKind) (act : Nat) (f : Fmt) (table : Nat) : Drain :=
  { id := id, kind := k, number := t.mx.head % 8, slot := none, scl := t.ep.scl, bias := t.ep.bias, act := act, g := f,
    table := table, codeTable := .replicate 256 0, dst := t.ep.dst, stride := t.ep.o1, fired := g.cyc, locked := t.locked .ep,
    from_ := g.from_ }

/-- An EP operation fires: it takes the head slot, unless it is drrow, and its interval begins (R168). Where MX.rhead or clr sets the
head in the same cycle, the EP operation's value stands (notes/assumptions/30.md). -/
def Tile.startDrain (t : Tile) (g : Trig) (d : Drain) : Tile :=
  let m := if g.sel = 4 then t.mx else { t.mx with headNext := some ((t.mx.head + 1) % 16) }
  let e := { t.ep with pipe := t.ep.pipe.fired (g.cyc + drainInterval g.sel) }
  let e := if g.sel = 5 then e else { e with drains := e.drains ++ [d] }
  { t with mx := m, ep := if g.sel = 3 then { e with net := e.net ++ [(g.cyc + 4, g.cyc + 35)] } else e }

/-- A firing of an EP trigger: a parity error of a port it reads (spec/20 R367), then the checks in the order of R170. -/
def fireEp (g : Trig) (s : State) : State :=
  let t := s.tile g.site
  match (operandCells .ep g.sel).find? fun c => s.badRegs.contains (g.site, c) with
  | some c => g.fault s 0x5003 (BitVec.ofNat 64 (c % 2 ^ 13)) 0
  | none =>
  let words := if g.sel = 5 then some (0, .f32, 0) else epWords t.ep.act t.ep.ofmt
  match words with
  | none => g.badWord s
  | some (act, f, table) =>
    let k := drainKindOf g.sel (g.b.toNat % 32)
    match (if g.sel = 5 then none else s.drainReason g.slot g.site k f t.ep.dst t.ep.o1) with
    | some r => g.fault s 0x2001 t.ep.dst (BitVec.ofNat 64 r)
    | none =>
      if g.sel = 4 ∧ 32 ≤ g.b.toNat then g.matrixFault s
      else if !t.mx.headReady (g.cyc + 1) then g.ringSlip s 0x300B
      else s.fresh.mapTile g.site fun t => t.startDrain g (t.newDrain g s.nextId k act f table)

/-! ### The cycles after the firing (R167, R168) -/

/-- The result of drrow, which lands at c + 5. -/
def Drain.rowResult (d : Drain) (r : Nat) : InFlight :=
  let (bs, f) := d.rowBytes r
  ⟨d.fired + 5, some (.v (rowVec256 bs)), none, f, d.locked, none⟩

/-- At c + 1 the head slot is copied, with the code table as the writes that perform up to c + 1 leave it (R168, spec/05 R112). -/
def Drain.copy (d : Drain) (t : Tile) (now : Nat) : Drain :=
  if d.slot.isNone ∧ d.fired + 1 = now then
    { d with slot := some (t.mx.ring.getD d.number RingSlot.zero), codeTable := t.tables.getD d.table (.replicate 256 0) }
  else d

/-- The copies of a cycle; a drrow that has its row goes into the pipeline. -/
def Tile.copySlots (t : Tile) (now : Nat) : Tile :=
  let ds := t.ep.drains.map fun d => d.copy t now
  let results : List InFlight := ds.filterMap fun d =>
    match d.kind with
    | .row r => if d.slot.isSome then some (d.rowResult r) else none
    | _ => none
  let isRow (d : Drain) : Bool := match d.kind with | .row _ => d.slot.isSome | _ => false
  { t with ep := { t.ep with drains := ds.filter fun d => !isRow d, pipe := { t.ep.pipe with flight := t.ep.pipe.flight ++ results } } }

/-- The line of an operation that is due in a cycle. -/
def Drain.lineAt (d : Drain) (now : Nat) : Option Nat :=
  (List.range d.kind.lines).find? fun i => d.lineCycle i == now

/-- The drain and line that write SRAM in a cycle. -/
def EpState.writing (e : EpState) (now : Nat) : Option (Drain × Nat) :=
  e.drains.findSome? fun d => if d.kind = .net then none else (d.lineAt now).map fun i => (d, i)

/-- A row write that lost its bank in this cycle (spec/10 R213). -/
def State.lostRow (s : State) (site : Nat) : Bool := s.losers.contains (5, site, 0)

/-- A machine check of a write that covers part of a bad word: the record names the line (spec/20 R364, R368). -/
def State.partialFault (s : State) (slot site : Nat) (o : Origin) (off : Nat) : State :=
  s.raise slot site o 0x5001 (BitVec.ofNat 64 (off / 64 * 64)) 0 []

/-- Line i of a drain performs, and its flags land (R167, R168). -/
def State.writeRow (s : State) (slot site : Nat) (d : Drain) (i : Nat) : State :=
  let (bs, f) := d.lineData i
  let off := ptrOffset (d.linePtr i)
  let s := s.mapTile site fun t => t.landFlags f
  if s.sramPartial site off bs.length then s.partialFault slot site d.from_ off else s.sramWrite site off bs

/-- Operations whose last line is past leave EP. -/
def EpState.sweep (e : EpState) (now : Nat) : EpState :=
  { e with drains := e.drains.filter fun d => decide (now < d.lineCycle (d.kind.lines - 1)),
           net := e.net.filter fun w => decide (now < w.2) }

/-- A drained line performs in the tile's SRAM; one that loses its bank performs nothing (R168, spec/10 R213). -/
def execEpRowWrite (site row : Nat) (s : State) : Result :=
  .next (match s.slotOf site with
    | none => s
    | some slot =>
      match (s.tile site).ep.writing (s.domain slot).dcc with
      | some (d, i) => if i = row ∧ !s.lostRow site then s.writeRow slot site d i else s
      | none => s)

/-- A row of drnet is handed to NS as a depv of dst + i × o1 at c + 4 + i (R168). -/
def State.handRow (s : State) (slot site : Nat) (d : Drain) (i : Nat) : State :=
  let (bs, f) := d.lineData i
  match s.depositTarget slot site 256 64 (d.linePtr i) with
  | .sram dst off => s.sendItem slot site dst (s.domain slot).dcc 0 (.depositV off (rowVec256 bs)) f d.from_ (some d.id)
  | .bad _ => s

/-- All rows that drnet hands over in a cycle. -/
def State.handRows (s : State) (slot site now : Nat) : State :=
  (s.tile site).ep.drains.foldl (fun s d =>
    if d.kind = .net then
      match d.lineAt now with
      | some i => s.handRow slot site d i
      | none => s
    else s) s

/-- Issue of an EP trigger. -/
def State.issueEp (s : State) (sel : Nat) : State := s.trigger [.ep] fun g => fireEp { g with sel := sel }

/-- `drain` (R168). -/
def execEpDrain (s : State) : Result := .next (s.issueEp 0)

/-- `drtr` (R168). -/
def execEpDrtr (s : State) : Result := .next (s.issueEp 1)

/-- `drsum` (R168, R169). -/
def execEpDrsum (s : State) : Result := .next (s.issueEp 2)

/-- `drnet` (R168). -/
def execEpDrnet (s : State) : Result := .next (s.issueEp 3)

/-- `drrow` (R168). -/
def execEpDrrow (s : State) : Result := .next (s.issueEp 4)

/-- `drop` (R168). -/
def execEpDrop (s : State) : Result := .next (s.issueEp 5)

end Sys2Proof.Machine
end

