-- ==== Sys2Proof/Machine/LoadStore.lean ====
section
/-!
DEFINITION. The load and store sockets LA and LB: forming and checking a pointer, and sending the access on its way
(spec/04 R97 to R103). How an access performs at its bank is Banks.lean's.
-/
namespace Sys2Proof.Machine

/-- The access of a trigger selector (spec/02 R43): widths in bytes; atomics by number 0–4. -/
def AccessOp.ofSel (sel : Nat) : AccessOp :=
  match sel with
  | 0x00 => .load 1 | 0x01 => .load 2 | 0x02 => .load 4 | 0x03 => .load 8 | 0x04 => .loadV | 0x05 | 0x06 => .gatherV
  | 0x08 => .store 1 | 0x09 => .store 2 | 0x0A => .store 4 | 0x0B => .store 8 | 0x0C => .storeV | 0x0D | 0x0E => .scatterV
  | n => .amo (n - 0x10)

/-- A strided or indexed form. -/
def AccessOp.strided : AccessOp → Bool
  | .gatherV | .scatterV => true
  | _ => false

/-- A form that msk governs (R101). -/
def AccessOp.masked : AccessOp → Bool
  | .loadV | .storeV | .gatherV | .scatterV => true
  | _ => false

/-- A load: its pointer is a + b (R97). -/
def AccessOp.isLoad : AccessOp → Bool
  | .load _ | .loadV | .gatherV => true
  | _ => false

def AccessOp.isAmo : AccessOp → Bool
  | .amo _ => true
  | _ => false

/-- A form that lands a result in q0. -/
def AccessOp.lands (op : AccessOp) : Bool := op.isLoad || op.isAmo

/-- A form that writes. -/
def AccessOp.writes : AccessOp → Bool
  | .store _ | .storeV | .scatterV | .amo _ => true
  | _ => false

/-- Bytes of one access or one lane, and the alignment (R97, R102). -/
def AccessOp.width : AccessOp → Nat
  | .load n | .store n => n
  | .amo 4 => 4
  | .amo _ => 8
  | .loadV | .storeV => 256
  | .gatherV | .scatterV => 4

def AccessOp.align : AccessOp → Nat
  | .loadV | .storeV => 64
  | op => op.width

/-- Issue interval (R97). -/
def AccessOp.interval (op : AccessOp) : Nat := if op.strided then 4 else if op.isAmo then 2 else 1

/-- Per-lane offsets: i × stride lane 0, or strd lane i, signed (R97). -/
def laneOffsets (indexed : Bool) (strd : Vec) : Vec :=
  Vec.gen fun i => if indexed then strd.lane i else BitVec.ofInt 32 ((i : Int) * (strd.lane 0).toInt)

/-- The signed offset of lane i: the stride is multiplied exactly (R97). -/
def laneDelta (indexed : Bool) (strd : Vec) (i : Nat) : Int :=
  if indexed then (strd.lane i).toInt else (i : Int) * (strd.lane 0).toInt

/-- SRAM offset of lane i of a strided form, out of range when negative or above 0xF_FFFF. -/
def laneOff (off : Nat) (indexed : Bool) (strd : Vec) (i : Nat) : Int := (off : Int) + laneDelta indexed strd i

/-- Two enabled lanes of one group address one bank in different 64-byte lines (R100). -/
def groupConflict (mask : Word) (offOf : Nat → Int) (g : Nat) : Bool :=
  let lanes := ((List.range 16).map fun k => 16 * g + k).filter fun i => mask.getLsbD i
  lanes.any fun i => lanes.any fun j =>
    let a := (offOf i).toNat / 64
    let b := (offOf j).toNat / 64
    a % 16 == b % 16 && a != b

/-- The lanes of an access that take part. -/
def AccessOp.lanes (op : AccessOp) (mask : Word) : List Nat :=
  if op.masked then (List.range 64).filter fun i => mask.getLsbD i else [0]

/-- Reason 3 or 4 of R100 and R364: alignment, or a byte beyond 0xF_FFFF, of an access at an SRAM offset; 7 for a group in bank
conflict. Disabled lanes are not checked (R101). -/
def extentReason (op : AccessOp) (off : Nat) (mask : Word) (indexed : Bool) (strd : Vec) : Option Nat :=
  let lanes := op.lanes mask
  if op.strided then
    let o := laneOff off indexed strd
    if lanes.any fun i => o i % 4 ≠ 0 then some 3
    else if lanes.any fun i => o i < 0 ∨ 2 ^ 20 ≤ o i + 3 then some 4
    else if (List.range 4).any fun g => groupConflict mask o g then some 7
    else none
  else if lanes.isEmpty then none
  else if off % op.align ≠ 0 then some 3
  else if op.masked then (if lanes.any fun i => 2 ^ 20 ≤ off + 4 * i + 3 then some 4 else none)
  else if 2 ^ 20 < off + op.width then some 4
  else none

/-- The cycles of an access (R98): first perform cycle, and landing cycle of a load or atomic. -/
structure AccessTiming where
  perform : Nat
  land : Nat
  deriving DecidableEq, Repr

/-- R98, with c the firing cycle, from the space of the pointer and the route to the owner. -/
def accessTiming (op : AccessOp) (empty : Bool) (space c h j p : Nat) : AccessTiming :=
  let w := if op.lands then 0 else 1
  match space with
  | 1 => ⟨c + 2 + w, if op.strided ∧ !empty then c + 7 else c + 4⟩
  | 2 => ⟨c + 6 + w, c + 10⟩
  | _ => ⟨c + 3 + h + p / 2 * j + w, c + 6 + 2 * h + p * j⟩

/-- Number of bank uses: four groups of a strided form, read and write of an atomic, else one (R98, R102). -/
def AccessOp.groupCount (op : AccessOp) : Nat := if op.strided then 4 else if op.isAmo then 2 else 1

/-- What is wrong with a pointer before its owner is known: the sum of a load must keep a's space (R80, R97). -/
def pointerReason (op : AccessOp) (a t : Word) : Option Nat :=
  if op.isLoad then sumPointerReason a t else if !ptrSpaceValid a then some 1 else if !ptrMbz a then some 2 else none

/-- The reason of the address fault of an access, or its owner and offset (R97, R100, spec/21 R374): the lowest that applies
(notes/assumptions/27.md), so that a space no access reaches goes before bits that must be zero. -/
def State.accessTarget (s : State) (slot site : Nat) (op : AccessOp) (a t mask : Word) (indexed : Bool) (strd : Vec) : Resolved :=
  match pointerReason op a t with
  | some r => .bad (if r = 2 ∧ ¬[1, 2, 3, 7].contains (ptrSpace t) then 1 else r)
  | none =>
    match s.resolve slot site [1, 2, 3, 7] t with
    | .bad 1 => .bad 1
    | .bad 2 => .bad 2
    | r =>
      match extentReason op (ptrOffset t) mask indexed strd with
      | some 3 => .bad 3
      | some 4 => .bad 4
      | e =>
        match r with
        | .bad k => .bad k
        | .sram owner off =>
          if op.strided ∧ ptrSpace t ≠ 1 then .bad 6
          else match e with
            | some k => .bad k
            | none =>
              if (s.domain slot).frozen ∧ (s.tile site).inSup ∧ ptrSpace t ≠ 1 then .bad 8 else .sram owner off

/-- Hops and crossings between two tiles of a domain (R98). -/
def State.reachRoute (s : State) (slot site owner : Nat) : Nat × Nat := routeCost (s.xy slot site) (s.xy slot owner)

/-- The trigger data an access keeps: the vector to store, or the scalar in lanes 0 and 1; loads keep the lanes read so far. -/
def AccessOp.dataOf (op : AccessOp) (d : Res) : Vec :=
  match op with
  | .storeV | .scatterV => d.vector
  | .store _ | .amo _ => scalarVec d.scalar
  | _ => .zero

/-- The access a trigger sends; outside local space it travels by the domain clock, whatever clock its context counts (spec/21 R372). -/
def State.newAccess (s : State) (g : Trig) (op : AccessOp) (t : Word) (owner off : Nat) (x : LsState) : Access :=
  let (h, j) := s.reachRoute g.slot g.site owner
  let lanes := op.lanes x.msk
  let c := if ptrSpace t = 1 then g.cyc else (s.domain g.slot).dcc
  let tm := accessTiming op lanes.isEmpty (ptrSpace t) c h j (s.domain g.slot).spec.crossing
  { id := s.nextId, op := op, site := g.site, port := if g.sock = .lb then .lb else .la, owner := owner, pointer := t, off := off,
    mask := x.msk, offsets := laneOffsets (g.sel % 8 = 6) x.strd, data := op.dataOf g.data, performAt := tm.perform, group := 0,
    groups := op.groupCount, pending := !lanes.isEmpty, landAt := if op.lands then some tm.land else none, flags := 0,
    locked := (s.tile g.site).locked g.sock, from_ := g.from_ }

/-- An access whose mask enables no lane: it uses no link and no bank (R101). -/
def Access.nothing (a : Access) : Bool := (a.op.lanes a.mask).isEmpty

/-- A remote access travels the reach network; a local one is held with its socket (R98, R99, spec/21 R372). A store whose mask
enables no lane goes nowhere. -/
def State.sendAccess (s : State) (slot : Nat) (q : Sock) (a : Access) : State :=
  let s := s.fresh
  if !a.pending && a.landAt.isNone then s
  else if ptrSpace a.pointer = 1 then
    s.mapTile a.site fun t =>
      { t with cap := t.cap.setLs q { t.cap.ls q with local_ := (t.cap.ls q).local_ ++ [a] } }
  else
    let from0 := (s.domain slot).dcc + (if a.op.lands then 0 else 1)
    s.mapDomain slot fun d => { d with reach := d.reach ++ [⟨a.id, false, 0, from0, a⟩] }

/-- A firing of a load, store or atomic: an address fault, or the access on its way and the socket's interval (R97, R100). -/
def fireAccess (g : Trig) (s : State) : State :=
  let op := AccessOp.ofSel g.sel
  let x := (s.tile g.site).cap.ls g.sock
  let t := if op.isLoad then x.o1 + g.b else x.o1
  match s.accessTarget g.slot g.site op x.o1 t x.msk (g.sel % 8 = 6) x.strd with
  | .bad r => g.fault s 0x2001 t (BitVec.ofNat 64 r)
  | .sram owner off =>
    let a := s.newAccess g op t owner off x
    (s.sendAccess g.slot g.sock a).mapTile g.site fun t => t.mapPipe g.sock fun p => p.fired (g.cyc + op.interval)

/-- A firing of tblw: the entry takes the word rounded to f19 at c + 3 (R103); a pointer beyond the tables is an address fault. -/
def fireTblw (g : Trig) (s : State) : State :=
  let x := (s.tile g.site).cap.ls g.sock
  let a := x.o1
  if a.toNat / 1024 ≠ 0 then g.fault s 0x2001 a 2
  else
    let value := (rne19 (readF32 (g.b.setWidth 32))).lane
    let w : TableWrite := ⟨s.nextId, g.cyc + 3, wbits a 9 8, wbits a 7 0, value⟩
    s.fresh.mapTile g.site fun t =>
      { t with cap := t.cap.setLs g.sock { t.cap.ls g.sock with tableWrites := (t.cap.ls g.sock).tableWrites ++ [w] } }
      |>.mapPipe g.sock fun p => p.fired (g.cyc + 1)

/-- A firing of any LA or LB trigger. -/
def fireLs (g : Trig) (s : State) : State := if g.sel = 0x18 then fireTblw g s else fireAccess g s

/-- Issue of an access with the selector of the instruction. -/
def State.issueLs (s : State) (sel : Nat) : State := s.trigger [.la, .lb] fun g => fireLs { g with sel := sel }

/-- `ld8` (R97). -/
def execLaLd8 (s : State) : Result := .next (s.issueLs 0x00)

/-- `ld16` (R97). -/
def execLaLd16 (s : State) : Result := .next (s.issueLs 0x01)

/-- `ld32` (R97). -/
def execLaLd32 (s : State) : Result := .next (s.issueLs 0x02)

/-- `ld64` (R97). -/
def execLaLd64 (s : State) : Result := .next (s.issueLs 0x03)

/-- `ldv`: 256 bytes (R97). -/
def execLaLdv (s : State) : Result := .next (s.issueLs 0x04)

/-- `ldvs`: strided load (R97). -/
def execLaLdvs (s : State) : Result := .next (s.issueLs 0x05)

/-- `ldvx`: indexed load (R97). -/
def execLaLdvx (s : State) : Result := .next (s.issueLs 0x06)

/-- `st8` (R97). -/
def execLaSt8 (s : State) : Result := .next (s.issueLs 0x08)

/-- `st16` (R97). -/
def execLaSt16 (s : State) : Result := .next (s.issueLs 0x09)

/-- `st32` (R97). -/
def execLaSt32 (s : State) : Result := .next (s.issueLs 0x0A)

/-- `st64` (R97). -/
def execLaSt64 (s : State) : Result := .next (s.issueLs 0x0B)

/-- `stv`: 256 bytes (R97). -/
def execLaStv (s : State) : Result := .next (s.issueLs 0x0C)

/-- `stvs`: strided store (R97). -/
def execLaStvs (s : State) : Result := .next (s.issueLs 0x0D)

/-- `stvx`: indexed store (R97). -/
def execLaStvx (s : State) : Result := .next (s.issueLs 0x0E)

/-- `amoadd` (R102). -/
def execLaAmoadd (s : State) : Result := .next (s.issueLs 0x10)

/-- `amomin`: signed minimum (R102). -/
def execLaAmomin (s : State) : Result := .next (s.issueLs 0x11)

/-- `amomax`: signed maximum (R102). -/
def execLaAmomax (s : State) : Result := .next (s.issueLs 0x12)

/-- `amoswap` (R102). -/
def execLaAmoswap (s : State) : Result := .next (s.issueLs 0x13)

/-- `amocas`: compare and swap of 4 bytes (R102). -/
def execLaAmocas (s : State) : Result := .next (s.issueLs 0x14)

/-- `tblw`: a code-table entry (R103). -/
def execLaTblw (s : State) : Result := .next (s.issueLs 0x18)

end Sys2Proof.Machine
end

