-- ==== Sys2Proof/Machine/Catwalk.lean ====
section
/-!
DEFINITION. The socket SV and the catwalk: messages, receive queues, the send buffer, the requests to launch units
(spec/11 R222 to R230, spec/15 R296 to R298, spec/21 R380, spec/23 R403, R404).
-/
namespace Sys2Proof.Machine

/-- The context counts as supervisor: the supervisor context, or a kernel marked supervisor (spec/17 R317). -/
def Tile.isSupervisor (t : Tile) : Bool := t.inSup || t.privileged

/-! ### Header words (R223) -/

/-- A header word. -/
def headerWord (channel : Nat) (disc : Bool) (n die row col dir : Nat) (label : BitVec 32) : Word :=
  BitVec.ofNat 64 (2 ^ 63 + channel * 2 ^ 61 + (if disc then 2 ^ 60 else 0) + n * 2 ^ 48 + die * 2 ^ 45 + row * 2 ^ 40 + col * 2 ^ 34
    + dir * 2 ^ 32 + label.toNat)

/-- Header of a tile's message: logical position, physical in a discovery message and in boot state (R223, R229). -/
def State.tileHeader (s : State) (site : Nat) (boot : Bool) (channel : Nat) (disc : Bool) (n dir : Nat) (label : BitVec 32) : Word :=
  let col := if disc || boot then siteCol site else (s.logicalCol site).getD 0
  headerWord channel disc n (siteDie site) (siteRow site) col dir label

/-- Header of a launch unit's message: all source fields ones (R228, spec/15 R297). -/
def unitHeader (label : BitVec 32) : Word := headerWord 3 false 1 7 31 63 0 label

/-! ### Putting messages on the catwalk -/

/-- The ordering part of a message: what it waits for, and what its release carries to the tile that pops it (spec/12 R254, R256). -/
structure Carry where
  waits : List Outstanding
  rest : List Outstanding
  deriving DecidableEq, Repr

def Carry.none : Carry := ⟨[], []⟩

/-- The release of a message to some sites, at the smallest scope that holds them; module for a mailbox target (spec/12 R255). -/
def State.messageCarry (s : State) (slot site : Nat) (mailbox : Bool) (sites : List Nat) : Carry :=
  let n := if mailbox then 3 else s.smallestScope slot site sites
  ⟨s.signalWaits slot site (some n), s.signalRest slot site n⟩

/-- Delays of the catwalk are free values without a bound (spec/01 R19; notes/assumptions/15.md). -/
def State.newMessage (s : State) (src dst channel : Nat) (header : Word) (flits : List Word) (buffered : Bool) (c : Carry) : Message :=
  { id := s.nextId, head := s.nextId, src := src, dst := dst, channel := channel, header := header, flits := flits, buffered := buffered,
    taken := !buffered, held := false, placed := false, waits := c.waits, rest := c.rest, takeAt := Config.freeNat s.draws,
    arriveAt := 1 + Config.freeNat (s.draws + 1), writeAt := 1 + Config.freeNat (s.draws + 2), written := 0 }

def State.addMessage (s : State) (m : Message) : State :=
  { s with messages := s.messages ++ [m], nextId := s.nextId + 1, draws := s.draws + 3 }

/-- A message of a tile, which takes a place in its send buffer (R227). -/
def State.postMessage (s : State) (src dst channel : Nat) (header : Word) (flits : List Word) (c : Carry) : State :=
  let m := s.newMessage src dst channel header flits true c
  (s.addMessage m).mapTile src fun t => { t with sv := { t.sv with sendBuffer := t.sv.sendBuffer ++ [m.id] } }

/-- A message that takes no place in a send buffer: of a launch unit, or of a network interface. -/
def State.postLoose (s : State) (src dst channel : Nat) (header : Word) (flits : List Word) (rest : List Outstanding) : State :=
  s.addMessage (s.newMessage src dst channel header flits false ⟨[], rest⟩)

/-- The copies of a multicast: the first holds the place, and each other departs with it (R225). -/
def State.postCopies (s : State) (src channel : Nat) (header : Word) (flits : List Word) (c : Carry) : List Nat → State
  | [] => s
  | d :: ds =>
    let head := s.nextId
    ds.foldl (fun s d =>
      s.addMessage { s.newMessage src d channel header flits false c with head := head, taken := false })
      (s.postMessage src d channel header flits c)

/-- A one-flit message of the launch unit of a slot into a tile's queue 3 (R228, spec/15 R297). -/
def State.unitReply (s : State) (slot site : Nat) (label : BitVec 32) (flit : Word) (rest : List Outstanding := []) : State :=
  s.postLoose (1000000 + slot) site 3 (unitHeader label) [flit] rest

/-- The replies made to a tile leave in the order of its requests: none before an earlier one is made (spec/15 R297). -/
def State.sendOwed (s : State) (site : Nat) : State :=
  let ready := (s.owed.filter fun o => o.site = site).takeWhile fun o => o.reply.isSome
  ready.foldl (fun s o => match o.reply with | some (l, f, r) => s.unitReply o.slot site l f r | none => s)
    { s with owed := s.owed.filter fun o => !ready.contains o }

/-- The unit or the desk of a slot makes its reply to the tile's earliest request that it has taken and not answered; one outside the
order, of a supervisor in a frozen domain, is answered at once (spec/21 R374). -/
def State.answer (s : State) (slot site : Nat) (desk : Bool) (label : BitVec 32) (flit : Word) (rest : List Outstanding := []) : State :=
  let open_ (o : OwedReply) : Bool :=
    o.site == site && o.slot == slot && o.desk == desk && o.reply.isNone && (desk || s.requests.all fun m => m.id != o.id)
  match s.owed.findIdx? open_ with
  | some i => { s with owed := s.owed.modify i fun o => { o with reply := some (label, flit, rest) } }.sendOwed site
  | none => s.unitReply slot site label flit rest

/-- Replies that will not be made are owed no more. -/
def State.forgetOwed (s : State) (gone : OwedReply → Bool) : State :=
  let sites := ((s.owed.filter gone).map (·.site)).eraseDups
  sites.foldl State.sendOwed { s with owed := s.owed.filter fun o => !gone o }

/-! ### Faults and checks (R225, R227, R230) -/

/-- Fault of a trigger with b and o1 (spec/20 R364). -/
def Trig.svFault (g : Trig) (s : State) (cause : Nat) : State := g.fault s cause g.b (s.tile g.site).sv.o1

/-- The send buffer holds 16 messages (R227). -/
def Tile.bufferFull (t : Tile) : Bool := decide (16 ≤ t.sv.sendBuffer.length)

/-- A channel's message limit in flits: a field of 0 stands for 64 (spec/17 R324). -/
def LaunchUnit.limit (u : LaunchUnit) (channel : Nat) : Nat :=
  let n := wbits u.limits (8 * (channel - 1) + 5) (8 * (channel - 1))
  if n = 0 then 64 else n

/-- The word o2 of msg, mcast and disc (R225). -/
structure SendWord where
  label : BitVec 32
  channel : Nat
  n : Nat
  reserved : Bool
  deriving DecidableEq, Repr

def SendWord.ofWord (w : Word) : SendWord := ⟨w.extractLsb' 16 32, wbits w 9 8, wbits w 7 0, wbits w 63 48 != 0 || wbits w 15 10 != 0⟩

/-- The word is allowed to a context under the channel's limit (R225, R230). -/
def SendWord.ok (w : SendWord) (sup : Bool) (u : LaunchUnit) : Bool :=
  !w.reserved && (if sup then w.channel != 0 else w.channel == 2) && decide (1 ≤ w.n) && decide (w.n ≤ 32) && decide (w.n ≤ u.limit w.channel)

/-- The n payload flits of a vector: lanes 2f and 2f + 1 (R225). -/
def payloadFlits (v : Vec) (n : Nat) : List Word := (List.range n).map fun f => v.lane (2 * f + 1) ++ v.lane (2 * f)

/-- The tile a mailbox entry names (R225, spec/17 R324). -/
def State.mailboxSite (s : State) (slot index : Nat) : Option Nat :=
  let w := Table.at (s.unit slot).mailbox 0 index
  if index < 256 ∧ w.getLsbD 63 then s.logicalSite (wbits w 12 10) (wbits w 4 0) (wbits w 9 5) else none

/-- The target of a msg: a tile word, or a mailbox word, which takes channel 2 only (R225); a fused-off site is none (spec/23 R403). -/
def State.msgTarget (s : State) (slot site channel : Nat) (o1 : Word) : Option Nat :=
  if ptrSpace o1 = 0xF then
    (if wbits o1 59 16 = 0 ∧ channel = 2 then s.mailboxSite slot (wbits o1 15 0) else none)
  else if ptrOffset o1 ≠ 0 then none
  else match s.resolve slot site [3, 7] o1 with
    | .sram d _ => if s.live d then some d else none
    | .bad _ => none

/-- msg is a release (R225, spec/12 R255). -/
def fireMsg (g : Trig) (s : State) : State :=
  let t := s.tile g.site
  let w := SendWord.ofWord t.sv.o2
  match s.msgTarget g.slot g.site w.channel t.sv.o1 with
  | none => g.svFault s 0x200A
  | some d =>
    if !w.ok t.isSupervisor (s.unit g.slot) || t.bufferFull then g.svFault s 0x200A
    else
      let h := s.tileHeader g.site (s.domain g.slot).boot w.channel false w.n 0 w.label
      s.postMessage g.site d w.channel h (payloadFlits g.v w.n) (s.messageCarry g.slot g.site (ptrSpace t.sv.o1 == 0xF) [d])

/-- The rectangle of mcast: all other bits zero, corners in order and inside the grid (R225). -/
def State.mcastSites (s : State) (slot : Nat) (o1 : Word) : Option (List Nat) :=
  let x0 := wbits o1 6 0
  let y0 := wbits o1 13 8
  let x1 := wbits o1 22 16
  let y1 := wbits o1 29 24
  let (w, h) := s.grid slot
  if o1 &&& ~~~(0x3F7F3F7F#64) ≠ 0 ∨ x1 < x0 ∨ y1 < y0 ∨ w ≤ x1 ∨ h ≤ y1 then none
  else
    let cells := (List.range (y1 - y0 + 1)).flatMap fun y => (List.range (x1 - x0 + 1)).map fun x => (x0 + x, y0 + y)
    some ((cells.filterMap fun p => s.siteAt slot p.1 p.2).filter s.live)

def fireMcast (g : Trig) (s : State) : State :=
  let t := s.tile g.site
  let w := SendWord.ofWord t.sv.o2
  match s.mcastSites g.slot t.sv.o1 with
  | none => g.svFault s 0x200A
  | some sites =>
    if !w.ok t.isSupervisor (s.unit g.slot) || t.bufferFull then g.svFault s 0x200A
    else
      let h := s.tileHeader g.site (s.domain g.slot).boot w.channel false w.n 0 w.label
      s.postCopies g.site w.channel h (payloadFlits g.v w.n) (s.messageCarry g.slot g.site false sites) sites

/-- The physical neighbour of a site: 0 right, 1 up, 2 left, 3 down; none beyond the edge or fused off (R229). -/
def State.neighbour (s : State) (site dir : Nat) : Option Nat :=
  let (die, row, col) := (siteDie site, siteRow site, siteCol site)
  let n : Option Nat :=
    match dir with
    | 0 => if col + 1 < 33 then some (siteOf die row (col + 1)) else none
    | 1 => if row + 1 < 32 then some (siteOf die (row + 1) col) else none
    | 2 => if 0 < col then some (siteOf die row (col - 1)) else none
    | _ => if 0 < row then some (siteOf die (row - 1) col) else none
  n.filter s.live

/-- disc: a message to the neighbour, or the reply of a missing one, whose header names the direction; its source fields are a free
value (R223, R229). -/
def fireDisc (g : Trig) (s : State) : State :=
  let t := s.tile g.site
  let w := SendWord.ofWord t.sv.o2
  let dir := t.sv.o1.toNat
  if 4 ≤ dir || !w.ok true (s.unit g.slot) || w.channel != 1 || t.bufferFull then g.svFault s 0x200A
  else
    let carry : Carry := ⟨s.signalWaits g.slot g.site none, []⟩
    match s.neighbour g.site dir with
    | some d => s.postMessage g.site d 1 (s.tileHeader g.site true 1 true w.n dir w.label) (payloadFlits g.v w.n) carry
    | none =>
      let h := headerWord 1 true 1 0 0 0 dir 0xFFFFFFFF#32 ||| (Config.freeWord s.draws &&& 0x0000FFFC00000000#64)
      s.drawn.postMessage g.site g.site 1 h [BitVec.ofNat 64 dir] carry

/-! ### Queue forms (R226) -/

def RxQueue.size (q : RxQueue) : Nat := if q.z = 0 then 0 else 2 ^ q.z

/-- Lines allocated to messages. -/
def RxQueue.used (q : RxQueue) : Nat := q.messages.foldl (fun n m => n + m.lines) 0
def RxQueue.free (q : RxQueue) : Nat := q.size - q.used

def SvState.rx (v : SvState) (q : Nat) : RxQueue := v.queues.getD (q - 1) .reset
def SvState.setRx (v : SvState) (q : Nat) (x : RxQueue) : SvState := { v with queues := v.queues.setIfInBounds (q - 1) x }

/-- A queue that the context may name: 1 only in the supervisor context (R226). -/
def queueOk (sup : Bool) (q : Nat) : Bool := decide (1 ≤ q) && decide (q ≤ 3) && (sup || q != 1)

/-- qset's words are valid (R226). -/
def qsetOk (sup : Bool) (spec base : Word) : Bool :=
  let z := wbits spec 11 8
  queueOk sup (wbits spec 1 0) && spec &&& ~~~(0xF03#64) == 0 && (z == 0 || (decide (2 ≤ z) && decide (z ≤ 12))) &&
    (z == 0 || (ptrSpace base == 1 && ptrMbz base && ptrOffset base % (64 * 2 ^ z) == 0 && decide (ptrOffset base + 64 * 2 ^ z ≤ 2 ^ 20)))

def fireQset (g : Trig) (s : State) : State :=
  let t := s.tile g.site
  let spec := t.sv.o1
  let z := wbits spec 11 8
  if !qsetOk t.isSupervisor spec g.b then g.svFault s 0x200A
  else
    let q := wbits spec 1 0
    s.mapTile g.site fun t =>
      { t with sv := { t.sv.setRx q ⟨if z = 0 then 0 else ptrOffset g.b, z, 0, []⟩ with current := q } }

/-- A result of SV at c + 1. -/
def Trig.svResult (g : Trig) (s : State) (w : Word) : State :=
  s.mapTile g.site fun t => t.launchResult .sv ⟨g.cyc + 1, some (.s w), none, 0, false, none⟩

/-- qpop: the header of the first presented message, whose lines are freed; 0 when there is none (R226). The header's landing is the
acquire of its message, observed at c + 1 (spec/12 R255). -/
def fireQpop (g : Trig) (s : State) : State :=
  let t := s.tile g.site
  let q := g.b.toNat
  if !queueOk t.isSupervisor q then g.svFault s 0x200A
  else
    let x := t.sv.rx q
    let s := s.mapTile g.site fun t => { t with sv := { t.sv with current := q } }
    match x.presented with
    | [] => g.svResult s 0
    | m :: _ =>
      g.svResult (s.mapTile g.site fun t => { t.learn m.rest with sv := t.sv.setRx q { x with messages := x.messages.drop 1 } }) m.header

/-- qstat (R226). -/
def fireQstat (g : Trig) (s : State) : State :=
  let t := s.tile g.site
  let q := g.b.toNat
  if q = 0 then g.svResult s (BitVec.ofNat 64 (t.sv.sendBuffer.length * 2 ^ 32))
  else if 3 < q then g.svFault s 0x200A
  else
    let x := t.sv.rx q
    let s := s.mapTile g.site fun t => { t with sv := { t.sv with current := q } }
    g.svResult s (BitVec.ofNat 64 (x.presented.length * 2 ^ 32 + x.free * 2 ^ 16 + x.size))

/-! ### Requests (R228, spec/15 R296, R298, spec/21 R380) -/

/-- The desk quantum Q of the running launch; 0 gives 4096 (spec/15 R284). -/
def Domain.quantum (d : Domain) : Nat :=
  match d.launch.bind fun l => l.desc with
  | some x => if x.quantum = 0 then 4096 else x.quantum
  | none => 4096

/-- A release at domain scope: wreq, and the requests to launch units (spec/12 R255, spec/15 R296). -/
def State.domainCarry (s : State) (slot site : Nat) : Carry := ⟨s.signalWaits slot site (some 2), s.signalRest slot site 2⟩

/-- wreq: n items in the quantum that the tile has reached (R228, spec/15 R303). -/
def fireWreq (g : Trig) (s : State) : State :=
  let t := s.tile g.site
  let n := g.b.toNat
  if n = 0 ∨ 65535 < n ∨ t.bufferFull then g.svFault s 0x200A
  else
    let k := s.cur.pre.retired / (s.domain g.slot).quantum
    let carry := s.domainCarry g.slot g.site
    s.postUnit g.site g.slot (.desk (.request (s.flat g.slot g.site) t.bay k n)) true carry.waits carry.rest

/-- A handle: slot, level, index (spec/15 R279). -/
def handleSlot (h : Word) : Nat := wbits h 15 12
def handleLevel (h : Word) : Nat := wbits h 11 10
def handleIndex (h : Word) : Nat := wbits h 7 0

/-- Counters of a level (spec/15 R278). -/
def levelCount (level : Nat) : Nat := match level with | 0 => 256 | 1 => 64 | 2 => 16 | _ => 4

/-- The reserved bits and the index range of a handle (spec/15 R279). -/
def handleOk (h : Word) : Bool := h.toNat < 2 ^ 16 && wbits h 9 8 == 0 && decide (handleIndex h < levelCount (handleLevel h))

/-- The slot a context may name: its own, or any of the partition for the supervisor (spec/15 R296). -/
def State.slotOk (s : State) (slot : Nat) (sup : Bool) (named : Nat) : Bool :=
  if sup then s.slotInPartition slot named else named == slot

/-- A handle that the context may name, at a level up to `top` for the user context (spec/15 R296, R298). -/
def State.mayName (s : State) (slot : Nat) (sup : Bool) (top : Nat) (h : Word) : Bool :=
  handleOk h && s.slotOk slot sup (handleSlot h) && (sup || decide (handleLevel h ≤ top))

/-- A counter word that cntw may write to a counter (spec/15 R280, R298). -/
def State.cntwWordOk (s : State) (slot : Nat) (sup : Bool) (h w : Word) : Bool :=
  let p : Word := (w.extractLsb' 32 16).setWidth 64
  wbits w 63 48 == 0 && (p == 0 || (handleLevel p == handleLevel h + 1 && s.mayName slot sup 3 p))

/-- Post a request to a slot's launch unit as a domain-scope release (spec/15 R296); a full buffer is a catwalk fault (R230). In a
frozen domain the requests of R374 go at once and take no place. -/
def Trig.request (g : Trig) (s : State) (dest : Nat) (r : UnitRequest) : State :=
  if (s.domain g.slot).frozen ∧ (s.tile g.site).inSup then s.postUnit g.site dest r false [] []
  else if (s.tile g.site).bufferFull then g.svFault s 0x200A
  else s.postUnit g.site dest r true (s.domainCarry g.slot g.site).waits []

def fireCnt (g : Trig) (s : State) : State :=
  if !s.mayName g.slot (s.tile g.site).isSupervisor 3 g.b then g.svFault s 0x200C else g.request s (handleSlot g.b) (.cnt g.b)

def fireCntw (g : Trig) (s : State) : State :=
  let t := s.tile g.site
  if !s.mayName g.slot t.isSupervisor 1 g.b || handleLevel g.b == 0 || !s.cntwWordOk g.slot t.isSupervisor g.b t.sv.o1 then g.svFault s 0x200C
  else g.request s (handleSlot g.b) (.cntw g.b t.sv.o1)

def fireCancel (g : Trig) (s : State) : State :=
  if !s.mayName g.slot (s.tile g.site).isSupervisor 1 g.b then g.svFault s 0x200C else g.request s (handleSlot g.b) (.cancel g.b)

/-- Tag and slot of fire and arm (spec/15 R296). -/
def State.ftagOk (s : State) (slot : Nat) (sup : Bool) (b : Word) : Bool := b.toNat < 2 ^ 16 && wbits b 11 8 == 0 && s.slotOk slot sup (wbits b 15 12)

def fireFire (g : Trig) (s : State) : State :=
  let t := s.tile g.site
  if !s.ftagOk g.slot t.isSupervisor g.b then g.svFault s 0x200C
  else g.request s (wbits g.b 15 12) (.fire (wbits g.b 7 0) (!t.isSupervisor) t.sv.o1)

/-- arm: the image is a timed local read at c + 2 that the message carries (spec/15 R296). -/
def fireArm (g : Trig) (s : State) : State :=
  let t := s.tile g.site
  let p := t.sv.o1
  if !s.ftagOk g.slot t.isSupervisor g.b || ptrSpace p != 1 || !ptrMbz p || ptrOffset p % 32 != 0 then g.svFault s 0x200C
  else if t.bufferFull then g.svFault s 0x200A
  else
    let waits := (s.domainCarry g.slot g.site).waits
    let block : BlockRead := ⟨s.nextId, g.cyc + 2, ptrOffset p, 32, .arm (s.nextId + 1), g.from_⟩
    let s := s.fresh.mapTile g.site fun t => { t with blocks := t.blocks ++ [block] }
    s.postUnit g.site (wbits g.b 15 12) (.arm (wbits g.b 7 0) []) true (waits ++ [⟨block.id, g.site, false, [g.site]⟩]) []

/-- stop (spec/21 R380). -/
def fireStop (g : Trig) (s : State) : State :=
  let k := wbits g.b 9 8
  if g.b &&& ~~~(0x30F#64) ≠ 0 ∨ 1 < k ∨ !s.slotInPartition g.slot (wbits g.b 3 0) then g.svFault s 0x200A
  else g.request s (wbits g.b 3 0) (.stop k)

/-- dbg (spec/21 R380). -/
def fireDbg (g : Trig) (s : State) : State :=
  let op := wbits g.b 7 4
  let n := wbits g.b 31 16
  if g.b &&& ~~~(0xFFFF00FF#64) ≠ 0 ∨ 2 < op ∨ (if op = 1 then n = 0 else n ≠ 0) ∨ !s.slotInPartition g.slot (wbits g.b 3 0) then
    g.svFault s 0x200A
  else g.request s (wbits g.b 3 0) (.dbg op n)

/-! ### The catwalk's steps (R222, R227, spec/23 R404) -/

/-- The message with an identifier. -/
def State.message (s : State) (id : Nat) : Option Message := s.messages.find? fun m => m.id == id
def State.putMessage (s : State) (m : Message) : State := { s with messages := s.messages.map fun x => if x.id = m.id then m else x }
def State.dropMessage (s : State) (id : Nat) : State := { s with messages := s.messages.filter fun x => x.id ≠ id }
def State.unitMessage (s : State) (id : Nat) : Option UnitMessage := s.requests.find? fun m => m.id == id

/-- A message of a tile's send buffer whose last flit the catwalk takes now: its wait is over, and what it waits for has performed
(R227, spec/12 R254). -/
def State.takable (s : State) (id : Nat) : Bool :=
  match s.message id, s.unitMessage id with
  | some m, _ => m.takeAt == 0 && s.departs m.waits
  | none, some m => m.takeAt == 0 && s.departs m.waits
  | none, none => true

/-- The catwalk takes a message: it leaves the send buffer, with the copies that go with it. -/
def State.takeMessage (s : State) (site id : Nat) : State :=
  let s := s.mapTile site fun t => { t with sv := { t.sv with sendBuffer := t.sv.sendBuffer.filter fun k => k ≠ id } }
  { s with messages := s.messages.map (fun m => if m.head = id then { m with taken := true } else m),
           requests := s.requests.map fun m => if m.id = id then { m with taken := true } else m }

/-- The first message of the send buffer leaves it once the catwalk takes its last flit (R227). -/
def execSendBufferRelease (site : Nat) (s : State) : Result :=
  .next (match (s.tile site).sv.sendBuffer with
    | [] => s
    | id :: _ => if s.takable id then s.takeMessage site id else s)

/-- Lines of a message: header and flits (R222). -/
def Message.lines (m : Message) : Nat := (m.flits.length + 1 + 7) / 8

/-- The queue-overflow trap of a receiving tile (R227): queue and header in its record (spec/20 R364). -/
def State.overflow (s : State) (m : Message) : State :=
  match s.slotOf m.dst with
  | some slot => s.raiseBare slot m.dst 0x6001 (BitVec.ofNat 64 m.channel) m.header []
  | none => s

/-- The header reaches the interface: lines are allocated; or the message is held, or, when it can never be stored, discarded; the
first two failures trap once (R222, R227). -/
def State.placeMessage (s : State) (m : Message) : State :=
  let q := (s.tile m.dst).sv.rx m.channel
  if q.z ≠ 0 ∧ q.size < m.lines then (s.dropMessage m.id).overflow m
  else if q.z = 0 ∨ q.free < m.lines then
    if m.held then s else (s.putMessage { m with held := true }).overflow m
  else
    let q' : RxQueue := { q with tail := (q.tail + m.lines) % q.size, messages := q.messages ++ [⟨q.tail, m.lines, false, m.header, m.id, m.rest⟩] }
    (s.putMessage { m with held := false, placed := true }).mapTile m.dst fun t => { t with sv := t.sv.setRx m.channel q' }

/-- Write one 64-byte line of words into a ring. -/
def State.writeLine (s : State) (site : Nat) (q : RxQueue) (line : Nat) (ws : List Word) : State :=
  s.sramWrite site (q.base + 64 * (line % q.size)) (ws.flatMap fun w => leBytes 8 w.toNat)

/-- The words of line i of a message: the header, then the flits (R222). -/
def Message.lineWords (m : Message) (i : Nat) : List Word := ((m.header :: m.flits).drop (8 * i)).take 8

/-- The last line of a message has performed: it has arrived (R222). -/
def State.messageArrived (s : State) (m : Message) : State :=
  let q := (s.tile m.dst).sv.rx m.channel
  let q' : RxQueue := { q with messages := q.messages.map fun y => if y.id = m.id then { y with arrived := true } else y }
  (s.dropMessage m.id).mapTile m.dst fun t => { t with sv := t.sv.setRx m.channel q' }

/-- The next line of a message performs, in a cycle in which nothing else uses its bank (R222, spec/10 R197, R200); the time to the line
after it is a free value. A queue that has been reset since no longer holds the message (R226). -/
def State.storeMessage (s : State) (m : Message) : State :=
  let q := (s.tile m.dst).sv.rx m.channel
  match q.messages.find? fun x => x.id == m.id with
  | none => s.dropMessage m.id
  | some x =>
    let off := q.base + 64 * ((x.line + m.written) % q.size)
    if s.bankTaken m.dst off 64 then s
    else
      let s := (s.writeLine m.dst q (x.line + m.written) (m.lineWords m.written)).useBanks m.dst off 64
      if x.lines ≤ m.written + 1 then s.messageArrived m
      else s.drawn.putMessage { m with written := m.written + 1, writeAt := 1 + Config.freeNat s.draws }

/-- A message's header reaches its tile's interface, or one of its lines performs (R222, R227). -/
def execCatwalkMessageArrival (id : Nat) (s : State) : Result :=
  .next (match s.message id with
    | some m => if m.placed then s.storeMessage m else s.placeMessage m
    | none => s)

/-- A message that counts as an install message in boot state (spec/23 R404). -/
def Message.isInstall (m : Message) : Bool :=
  m.channel == 1 && wbits m.header 60 60 == 0 && m.flits.length == 32 && wbits m.header 31 24 == 0xB1 && wbits m.header 23 10 == 0 &&
    wbits m.header 9 0 % 2 == 0 && decide (wbits m.header 9 0 ≤ 958)

/-- An install message writes bundles b and b + 1 of the receiving tile's instruction store (spec/23 R404). -/
def execInstallMessage (id : Nat) (s : State) : Result :=
  .next (match s.message id with
    | some m =>
      if m.isInstall then (s.dropMessage id).istoreWrite m.dst (128 * wbits m.header 9 0) (m.flits.flatMap fun w => leBytes 8 w.toNat)
      else s
    | none => s)

/-- `msg` (R225). -/
def execSvMsg (s : State) : Result := .next (s.trigger [.sv] fireMsg)

/-- `mcast` (R225). -/
def execSvMcast (s : State) : Result := .next (s.trigger [.sv] fireMcast)

/-- `qset` (R226). -/
def execSvQset (s : State) : Result := .next (s.trigger [.sv] fireQset)

/-- `qpop` (R226). -/
def execSvQpop (s : State) : Result := .next (s.trigger [.sv] fireQpop)

/-- `qstat` (R226). -/
def execSvQstat (s : State) : Result := .next (s.trigger [.sv] fireQstat)

/-- `wreq` (R228). -/
def execSvWreq (s : State) : Result := .next (s.trigger [.sv] fireWreq)

/-- `cnt` (R296). -/
def execSvCnt (s : State) : Result := .next (s.trigger [.sv] fireCnt)

/-- `cntw` (R296). -/
def execSvCntw (s : State) : Result := .next (s.trigger [.sv] fireCntw)

/-- `cancel` (R296). -/
def execSvCancel (s : State) : Result := .next (s.trigger [.sv] fireCancel)

/-- `fire` (R296). -/
def execSvFire (s : State) : Result := .next (s.trigger [.sv] fireFire)

/-- `arm` (R296). -/
def execSvArm (s : State) : Result := .next (s.trigger [.sv] fireArm)

/-- `stop` (R380). -/
def execSvStop (s : State) : Result := .next (s.trigger [.sv] fireStop)

/-- `disc` (R229). -/
def execSvDisc (s : State) : Result := .next (s.trigger [.sv] fireDisc)

/-- `dbg` (R380). -/
def execSvDbg (s : State) : Result := .next (s.trigger [.sv] fireDbg)

end Sys2Proof.Machine
end

