-- ==== Sys2Proof/Machine/Translate.lean ====
section
/-!
DEFINITION. HBM: range tables and translation (spec/10 R209, R210), the three aperture mappings (R202), windows, refresh and the
sequences of a command's blocks (R204 to R208, spec/11 R238, R241), and access to HBM bytes with their error sectors and live
barrier words (spec/11 R246, spec/20 R367, R368).
-/
namespace Sys2Proof.Machine

/-! ### Range tables (R209) -/

def entryValid (e : Word × Word) : Bool := e.1.getLsbD 63
def entryBase (e : Word × Word) : Nat := wbits e.1 47 21 * 2 ^ 21
def entrySize (e : Word × Word) : Nat := (wbits e.2 61 42 + 1) * 2 ^ 21
def entryPhys (e : Word × Word) : Nat := wbits e.2 40 21 * 2 ^ 21

/-- Bit of word 0 that allows an aperture. -/
def apertureBit (space : Nat) : Nat := match space with | 4 => 59 | 5 => 60 | 6 => 61 | _ => 62

/-- The lowest-numbered valid entry that contains a virtual offset (R210). -/
def rangeFind (t : Vector (Word × Word) 64) (v : Nat) : Option (Word × Word) :=
  t.toList.find? fun e => entryValid e && decide (entryBase e ≤ v) && decide (v < entryBase e + entrySize e)

/-- The virtual offset of a pointer. -/
def ptrVirtual (p : Word) : Nat := p.toNat % 2 ^ 48

/-- The range table of a context: the domain slot's supervisor or user table (spec/17 R318). -/
def State.rangeTable (s : State) (slot : Nat) (sup : Bool) : Vector (Word × Word) 64 :=
  if sup then (s.unit slot).supRange else (s.unit slot).userRange

/-- A physical address, or the reason of a translation fault (spec/20 R364). -/
inductive Xlat where
  | ok (phys : Nat)
  | bad (reason : Nat)
  deriving DecidableEq, Repr

/-- The stacks from the first to the last byte of an extent. -/
def stacksOf (p len : Nat) : List Nat :=
  let a := p / 2 ^ 36
  (List.range ((p + len - 1) / 2 ^ 36 + 1 - a)).map fun k => a + k

/-- translate of R210. -/
def State.translate (s : State) (slot : Nat) (t : Vector (Word × Word) 64) (space v len : Nat) (rd wr timed : Bool) : Xlat :=
  -- reduced service has no HBM (spec/22 R400)
  if s.reduced && slot == 0 then .bad 6
  else match rangeFind t v with
  | none => .bad 1
  | some e =>
    let p := entryPhys e + (v - entryBase e)
    if entryBase e + entrySize e < v + len then .bad 2
    else if !e.1.getLsbD (apertureBit space) then .bad 3
    else if (rd && !e.1.getLsbD 58) || (wr && !e.1.getLsbD 57) then .bad 4
    else if 2 ^ 41 < p + len then .bad 5
    else match (stacksOf p (max len 1)).find? fun k => !s.stackInPartition slot k || (timed && !(s.domain slot).spec.owns k) with
      | some k => .bad (if s.stackInPartition slot k then 7 else 6)
      | none => .ok p

/-! ### The mappings (R202, R203) -/

/-- The row-major address of the location that a physical address names through an aperture: memory is held by location. -/
def hbmLoc (space p : Nat) : Nat :=
  match space with
  | 5 => p / 4096 * 4096 + (p / 256 % 16 ^^^ p / 2 ^ 20 % 16) * 256 + p % 256
  | 6 => p / 2 ^ 36 * 2 ^ 36 + p / 1024 % 65536 * 2 ^ 20 + p / 256 % 4 * 2 ^ 18 + p / 2 ^ 30 % 64 * 4096 + p / 2 ^ 26 % 16 * 256 + p % 256
  | _ => p

def locStack (a : Nat) : Nat := a / 2 ^ 36
def locChannel (a : Nat) : Nat := a / 4096 % 64
def locBank (a : Nat) : Nat := a / 256 % 16

/-- Bytes i to j of an extent that lie in one 256-byte block of its aperture. -/
def blockAt (space p len k place : Nat) : Block :=
  let base := (p / 256 + k) * 256
  let lo := if base < p then p - base else 0
  let hi := min 256 (p + len - base)
  ⟨base, hbmLoc space base, lo, hi, 0, 0, place + (base + lo - p)⟩

/-- The blocks an extent touches, in address order; `place` is where its first byte stands in the command's stream. -/
def blocksOf (space p len place : Nat) : List Block :=
  if len = 0 then [] else (List.range ((p + len - 1) / 256 + 1 - p / 256)).map fun k => blockAt space p len k place

def Block.bank (b : Block) : Nat := locBank b.loc
def Block.stack (b : Block) : Nat := locStack b.loc

/-- Sector k of a block has a byte in range; line m has. -/
def Block.hasSector (b : Block) (k : Nat) : Bool := decide (32 * k < b.hi) && decide (b.lo < 32 * k + 32)
def Block.hasLine (b : Block) (m : Nat) : Bool := decide (64 * m < b.hi) && decide (b.lo < 64 * m + 64)

/-! ### Windows (R204 to R206, R238) -/

/-- Window n is a refresh window of its bank (R206). -/
def refreshWindow (n : Nat) : Bool := decide (304 ≤ n % 320)

/-- First non-refresh window of a bank from window n on. -/
def nextWindow (bank n : Nat) : Nat :=
  let m := n + (bank + 16 - n % 16) % 16
  if refreshWindow m then m + 16 else m

/-- Windows and u numbers of a sequence whose next block may take window n (R238). -/
def placeFrom : Nat → Option (Nat × Nat) → List Block → List Block
  | _, _, [] => []
  | n, prev, b :: bs =>
    let w := nextWindow b.bank n
    let u := match prev with | none => 0 | some (bank, u) => u + (b.bank + 15 - bank) % 16 + 1
    { b with window := w, u := u } :: placeFrom (w + 1) (some (b.bank, u)) bs

/-- The sequence of R238: the first block takes the first window that opens at or after DCC t. -/
def placeBlocks (t : Nat) (bs : List Block) : List Block := placeFrom ((t + 3) / 4) none bs

/-- g of a block: its u with the refresh windows added (R239). -/
def Block.g (b : Block) : Nat := b.u + 16 * (b.u / 304)

def lastG (bs : List Block) : Nat := (bs.getLast?.map Block.g).getD 0

/-- First claimed rotation at or after a DCC (R241). -/
def firstRotation (t : Nat) : Nat :=
  let r := (t + 63) / 64
  if r % 20 = 19 then r + 1 else r

/-- The k-th claimed rotation; those with ρ mod 20 = 19 are skipped (R241). -/
def claimedRotation (r0 k : Nat) : Nat := r0 + k + (r0 % 20 + k) / 19

/-- A rotation is among the claimed ones. -/
def rotationClaimed (r0 count r : Nat) : Bool :=
  decide (r0 ≤ r) && r % 20 != 19 && decide (r - r0 - (r / 20 - r0 / 20) < count)

/-- A command claims window n of a bank of a stack's pseudo-channel (R208, R238, R241). -/
def Command.claims (c : Command) (stack channel n : Nat) : Bool :=
  (c.blocks.any fun b => b.window == n && b.stack == stack && locChannel b.loc == channel) ||
    (c.stack == stack && rotationClaimed c.rot0 c.rotCount (n / 16))

/-! ### Who keeps a stack's time (R204) -/

/-- The domain whose DCC counts a stack's windows: the one that owns it; the lowest-numbered domain when none does. -/
def State.stackClock (s : State) (stack : Nat) : Option Nat :=
  match s.domains.find? fun p => p.1 < 16 && p.2.spec.owns stack with
  | some p => some p.1
  | none => (s.domains.find? fun p => p.1 < 16).map (·.1)

/-- A stack gives no window to untimed work: it is in self-refresh while the uncore of its die is away, or while it is hot and the domain
that keeps its time is frozen (spec/22 R394, R395). -/
def State.stackHeld (s : State) (stack : Nat) : Bool :=
  decide (0 < (s.die (stack / 4)).away) ||
    ((s.stack stack).critical && match s.stackClock stack with | some slot => (s.domain slot).frozen | none => true)

/-- Die of a sender: of a tile, or of a slot's launch unit. -/
def senderDie (src : Nat) : Nat :=
  if src < 1000000 then siteDie src else if src < 1000016 then (src - 1000000) / 2 else src - 1000016

/-- A route that crosses a die that is away: what travels it is held (spec/22 R394). -/
def State.routeAway (s : State) (a b : Nat) : Bool :=
  (List.range 8).any fun d => decide (0 < (s.die d).away) && (a == d || b == d || Config.catwalkCrosses a b d)
/-! ### HBM bytes -/

/-- The 8-byte word at a location is a live barrier word (spec/11 R246). -/
def State.liveWord (s : State) (a : Nat) : Bool := (s.stack (locStack a)).live.contains (a / 8)

/-- The sector of a location holds a live barrier word (spec/11 R246). -/
def State.liveBarrier (s : State) (a : Nat) : Bool := (s.stack (locStack a)).live.any fun w => w / 4 == a / 32

/-- Mark a word live or ordinary. -/
def State.setLive (s : State) (a : Nat) (live : Bool) : State :=
  let k := s.stack (locStack a)
  let rest := k.live.filter fun x => x ≠ a / 8
  s.setStack (locStack a) { k with live := if live then rest ++ [a / 8] else rest }

/-- One more in a count of a pseudo-channel. -/
def bump (v : Vector Nat 64) (c : Nat) : Vector Nat 64 := v.setIfInBounds c (v.getD c 0 + 1)

/-- The sector of an address holds an uncorrectable error (spec/20 R367). -/
def State.hbmBad (s : State) (a : Nat) : Bool := s.badWords.contains (a / 32 * 32)

/-- Read bytes of one sector. -/
def State.hbmRead (s : State) (a n : Nat) : List Byte := s.readBytes (hbmAddr a) n

/-- Write bytes of HBM; a whole sector replaces an error (spec/20 R368). -/
def State.hbmWrite (s : State) (a : Nat) (bs : List Byte) : State :=
  let s := s.writeBytes (hbmAddr a) bs
  if bs.length < 32 then s else { s with badWords := s.badWords.filter fun x => !(decide (a ≤ x) && decide (x + 32 ≤ a + bs.length)) }

end Sys2Proof.Machine
end

