-- ==== Sys2Proof/Machine/EngineForms.lean ====
section
/-!
DEFINITION. The socket DM at the issuing tile: the command word, the checks of a form at its firing cycle c, the stack a command
travels to, and the loose limit (spec/11 R231 to R233, R237, R239 to R247, R415).
-/
namespace Sys2Proof.Machine

/-! ### The command word (R231) -/

def cmdStart (w : Word) : Nat := wbits w 63 32
def cmdWaits (w : Word) : Bool := w.getLsbD 31
def cmdWaitEngine (w : Word) : Nat := wbits w 30 29
def cmdWaitSlot (w : Word) : Nat := wbits w 28 25
def cmdLoose (w : Word) : Bool := w.getLsbD 24
def cmdSlot (w : Word) : Nat := wbits w 23 20
def cmdBeats (w : Word) : Nat := wbits w 19 0

/-- The engine of a form (R231, R232). -/
def DmForm.engine : DmForm → Nat
  | .gath | .gathl => 1
  | .radd | .rmin | .rmax => 2
  | .conv => 3
  | _ => 0

/-- Forms whose reply is awaited, when loose (R237). -/
def DmForm.replies : DmForm → Bool
  | .copy | .copy2 | .gath | .ovl | .ucopy => false
  | _ => true

/-- Forms that may be loose or timed by their word. -/
def DmForm.either : DmForm → Bool
  | .radd | .rmin | .rmax | .conv => true
  | _ => false

/-- Forms that carry a command word: the timed ones and those of `either`. -/
def DmForm.timed : DmForm → Bool
  | .copy | .copy2 | .gath | .ovl => true
  | f => f.either

/-- A timed command word: L clear, a beat count from 1 to the maximum (R231, R233). -/
def timedWordOk (w : Word) (maxBeats : Nat) : Bool := !cmdLoose w && decide (1 ≤ cmdBeats w) && decide (cmdBeats w ≤ maxBeats)

/-- The trigger data of a form is allowed (R231, R233, R246, R247). -/
def DmForm.wordOk (f : DmForm) (w : Word) (maxBeats : Nat) : Bool :=
  if f.timed then timedWordOk w maxBeats || (f.either && w == 0x1000000#64)
  else match f with
    | .gathl | .walk | .ucopy | .bchk => w == 0
    | .barr => w != 0
    | .poolget => decide (w.toNat < 8)
    | _ => true

/-! ### Pointer checks: space, must-be-zero bits, alignment (R233, item 1) -/

/-- A pointer of one of some spaces with its alignment: the reason of its address fault. -/
def pointerCheck (spaces : List Nat) (align : Nat) (p : Word) : Option Nat :=
  if !spaces.contains (ptrSpace p) then some 1
  else if !ptrMbz p then some 2
  else if p.toNat % align ≠ 0 then some 3
  else none

def sramSpaces : List Nat := [1, 2, 3, 7]
def hbmSpaces : List Nat := [4, 5, 6]

/-- An SRAM end, with its grid check. -/
def State.sramCheck (s : State) (slot site align : Nat) (p : Word) : Option Nat :=
  match pointerCheck sramSpaces align p with
  | some r => some r
  | none => match s.resolve slot site sramSpaces p with
    | .bad r => some r
    | .sram _ _ => none

/-- Owner and offset of an SRAM end that has passed its checks. -/
def State.sramEnd (s : State) (slot site : Nat) (p : Word) : Nat × Nat :=
  match s.resolve slot site sramSpaces p with
  | .sram k off => (k, off)
  | .bad _ => (site, ptrOffset p)

/-- An extent runs past offset 0xF_FFFF (R233, item 2). -/
def extentBad (p : Word) (n : Nat) : Option Nat := if 2 ^ 20 < ptrOffset p + n then some 4 else none

/-- A barrier word, or a pool handle, which only the supervisor context may name (R246, R247). -/
def barrierCheck (pool sup : Bool) (p : Word) : Option Nat :=
  if ptrSpace p = 8 ∧ pool then
    (if !sup then some 8 else if p.toNat / 2048 = 0x8000040000000000 / 2048 then (if p.toNat % 8 = 0 then none else some 3) else some 1)
  else pointerCheck [4, 5, 6, 15] 8 p

/-- A pool handle (R247). -/
def isPoolHandle (p : Word) : Bool := p.toNat / 2048 == 0x8000040000000000 / 2048 && p.toNat % 8 == 0

/-- First operand, in order, that fails, with its reason. -/
def firstFailure : List (Word × Option Nat) → Option (Word × Nat)
  | [] => none
  | (p, some r) :: _ => some (p, r)
  | (_, none) :: t => firstFailure t

/-! ### Fields of the forms (R232) -/

/-- What a form's operands say. -/
structure DmArgs where
  word : Word
  o1 : Word
  o2 : Word
  dp : Vector Word 4
  deriving DecidableEq, Repr

def DmArgs.d (a : DmArgs) (i : Nat) : Word := a.dp.getD i 0

/-- Row length, row count and pitches of copy and copy2 (R232). -/
def DmArgs.rowLen (a : DmArgs) : Nat := wbits (a.d 0) 23 0
def DmArgs.rows (a : DmArgs) (f : DmForm) : Nat := if f = .copy2 then wbits (a.d 0) 47 32 else 1
def DmArgs.sramPitch (a : DmArgs) (f : DmForm) : Int := if f = .copy2 then strideLowOf (a.d 1) else 0
where strideLowOf (w : Word) : Int := (w.setWidth 32).toInt
def DmArgs.hbmPitch (a : DmArgs) (f : DmForm) : Int := if f = .copy2 then ((a.d 1).extractLsb' 32 32).toInt else 0

/-- The copy runs from SRAM to HBM: its first operand is no HBM pointer (R232). -/
def DmArgs.toHbm (a : DmArgs) : Bool := !hbmSpaces.contains (ptrSpace a.o1)
def DmArgs.hbmPtr (a : DmArgs) : Word := if a.toHbm then a.o2 else a.o1
def DmArgs.sramPtr (a : DmArgs) : Word := if a.toHbm then a.o1 else a.o2

/-- Sectors or elements n of gath, gathl, radd, rmin, rmax, conv. -/
def DmArgs.n (a : DmArgs) (f : DmForm) : Nat :=
  match f with
  | .gath | .gathl => wbits (a.d 1) 12 0
  | .conv => wbits (a.d 0) 15 0
  | _ => wbits (a.d 0) 12 0

/-- Element width of a reduction in bytes; none for a format it does not take (R243). -/
def reduceWidth (code : Nat) : Option Nat :=
  match Fmt.ofCode code with
  | some .f32 | some .i32 | some .n32 => some 4
  | some .i64 | some .n64 => some 8
  | _ => none

def DmArgs.reduceCode (a : DmArgs) : Nat := wbits (a.d 0) 20 16
def DmArgs.width (a : DmArgs) : Nat := (reduceWidth a.reduceCode).getD 4

/-- walk's numbers: w, L, V, e0 (R232, R242). -/
def DmArgs.walks (a : DmArgs) : Nat := wbits (a.d 2) 15 0
def DmArgs.steps (a : DmArgs) : Nat := wbits (a.d 2) 31 16
def DmArgs.vertices (a : DmArgs) : Nat := wbits (a.d 2) 63 32
def DmArgs.e0 (a : DmArgs) : Nat := wbits (a.d 3) 39 0

/-- Formats of conv: source, result, table (R244, R42). -/
def DmArgs.convFmt (a : DmArgs) : Option (Fmt × Fmt × Nat) :=
  let q := FmtWord.ofWord (a.d 1)
  if q.reserved ≠ 0 then none
  else match Fmt.ofCode q.f1, Fmt.ofCode q.f2, Fmt.ofCode q.g with
    | some f, some _, some g => some (f, g, q.table)
    | _, _, _ => none

/-- Bytes of n elements. -/
def elemBytes (f : Fmt) (n : Nat) : Nat := n * (f.width / 8)

/-- The rectangle of ovl (R225, R240). -/
def State.ovlSites (s : State) (slot : Nat) (o2 : Word) : Option (List Nat) := s.mcastSites slot o2

/-! ### The checks at c (R233) -/

/-- Lowest and highest start of the rows of an SRAM end. -/
def DmArgs.rowsOutside (a : DmArgs) (f : DmForm) : Bool :=
  let off : Int := ptrOffset a.sramPtr
  let last := off + (a.rows f - 1 : Nat) * a.sramPitch f
  let lo := if last < off then last else off
  let hi := if last < off then off else last
  decide (lo < 0) || decide ((2 ^ 20 : Nat) < hi + a.rowLen)

/-- Item 1 of R233: spaces, must-be-zero bits, alignment. -/
def State.dmPointers (s : State) (slot site : Nat) (sup : Bool) (f : DmForm) (a : DmArgs) : List (Word × Option Nat) :=
  match f with
  | .copy | .copy2 =>
    let c1 := if a.toHbm then s.sramCheck slot site 32 a.o1 else pointerCheck hbmSpaces 32 a.o1
    let c2 := if a.toHbm then pointerCheck hbmSpaces 32 a.o2 else s.sramCheck slot site 32 a.o2
    let c2 := match c2 with
      | some r => some r
      | none => if a.o1.toNat % 256 = a.o2.toNat % 256 then none else some 3
    [(a.o1, c1), (a.o2, c2)]
  | .gath | .gathl =>
    [(a.o1, pointerCheck hbmSpaces 32 a.o1), (a.o2, s.sramCheck slot site 64 a.o2), (a.d 0, pointerCheck [1] 4 (a.d 0))]
  | .walk =>
    [(a.o1, pointerCheck hbmSpaces 8 a.o1), (a.o2, s.sramCheck slot site 4 a.o2), (a.d 0, pointerCheck hbmSpaces 4 (a.d 0)),
      (a.d 1, pointerCheck [1] 4 (a.d 1))]
  | .radd | .rmin | .rmax =>
    [(a.o1, pointerCheck hbmSpaces a.width a.o1), (a.o2, s.sramCheck slot site 64 a.o2),
      (a.d 1, if a.d 1 = 0 then none else pointerCheck [1] 64 (a.d 1))]
  | .conv => [(a.o1, pointerCheck hbmSpaces 1 a.o1), (a.o2, pointerCheck hbmSpaces 1 a.o2)]
  | .ovl => [(a.o1, pointerCheck hbmSpaces 256 a.o1)]
  | .ucopy => [(a.o1, pointerCheck [1] 32 a.o1)]
  | .bset => [(a.o1, barrierCheck false sup a.o1)]
  | .barr | .bchk => [(a.o1, barrierCheck true sup a.o1)]
  | .poolget | .poolrel | .fabric => []

/-- Item 2: SRAM extents. -/
def DmArgs.extents (a : DmArgs) (f : DmForm) : List (Word × Option Nat) :=
  match f with
  | .copy | .copy2 => [(a.sramPtr, if a.rowsOutside f then some 4 else none)]
  | .gath | .gathl => [(a.o2, extentBad a.o2 (32 * a.n f)), (a.d 0, extentBad (a.d 0) (4 * a.n f))]
  | .walk => [(a.o2, extentBad a.o2 (4 * (a.steps + 1) * a.walks)), (a.d 1, extentBad (a.d 1) (4 * a.walks))]
  | .radd | .rmin | .rmax =>
    [(a.o2, extentBad a.o2 (a.width * a.n f)), (a.d 1, if a.d 1 = 0 then none else extentBad (a.d 1) (4 * a.n f))]
  | .ucopy => [(a.o1, extentBad a.o1 32)]
  | _ => []

/-- Some bits of a word outside a mask are set. -/
def outside (w : Word) (mask : Word) : Bool := w &&& ~~~mask != 0

/-- Item 3: counts and fields within their ranges, unnamed bits zero (R232). R239's multiples, and a poolget's o2 that is neither 0 nor a pool
handle, are checked here, as fields (notes/assumptions/102.md). -/
def State.dmFieldsBad (s : State) (slot : Nat) (f : DmForm) (a : DmArgs) : Bool :=
  let zeroFrom (i : Nat) : Bool := (List.range 4).any fun k => decide (i ≤ k) && a.d k != 0
  match f with
  | .copy => outside (a.d 0) 0xFFFFFF#64 || a.rowLen % 32 != 0 || zeroFrom 1
  | .copy2 =>
    outside (a.d 0) 0x0000FFFF00FFFFFF#64 || a.rowLen % 32 != 0 || a.rows f == 0 || a.sramPitch f % 256 != 0 || a.hbmPitch f % 256 != 0
      || zeroFrom 2
  | .gath | .gathl => outside (a.d 1) 0x1FFF#64 || a.n f == 0 || decide (4096 < a.n f) || zeroFrom 2
  | .walk => a.walks == 0 || a.steps == 0 || decide (255 < a.steps) || a.vertices == 0 || outside (a.d 3) 0xFFFFFFFFFF#64
  | .radd | .rmin | .rmax => outside (a.d 0) 0x1F1FFF#64 || (reduceWidth a.reduceCode).isNone || zeroFrom 2
  | .conv =>
    outside (a.d 0) 0xFFFF#64 || ((RndWord.ofWord (a.d 2)).check).isNone || a.d 3 != 0 ||
      (match a.convFmt with
        | some (x, g, _) => decide (65536 < elemBytes x (a.n f)) || decide (65536 < elemBytes g (a.n f))
        | none => true)
  | .ovl => (s.ovlSites slot a.o2).isNone || outside (a.d 0) 0xF#64 || zeroFrom 1
  | .ucopy => a.o2 != 0 || zeroFrom 0
  | .bset => outside a.o2 0x17#64 || decide (4 < wbits a.o2 2 0) || zeroFrom 0
  | .barr | .bchk => outside a.o2 0x7#64 || decide (4 < wbits a.o2 2 0) || zeroFrom 0
  | .poolget => (a.o2 != 0 && !isPoolHandle a.o2) || zeroFrom 0
  | .poolrel => !isPoolHandle a.word || a.o1 != 0 || a.o2 != 0 || zeroFrom 0
  | .fabric => true

/-- Element range of a walk or a stochastic conv that reaches 2⁴⁰: the element base refused (R242, R244). -/
def DmArgs.streamFault (a : DmArgs) (f : DmForm) : Option Nat :=
  match f with
  | .walk => if 2 ^ 40 ≤ a.e0 + a.walks * a.steps - 1 then some a.e0 else none
  | .conv =>
    let r := RndWord.ofWord (a.d 2)
    if RMode.ofCode r.mode = some .stoch ∧ a.n f ≠ 0 ∧ 2 ^ 40 ≤ r.elem + a.n f - 1 then some r.elem else none
  | _ => none

/-- The command copy of a record (spec/20 R366). -/
def DmArgs.copy (a : DmArgs) : List Word := a.word :: a.o1 :: a.o2 :: a.dp.toList
def Command.copy (c : Command) : List Word := c.word :: c.o1 :: c.o2 :: c.dp.toList
def Command.args (c : Command) : DmArgs := ⟨c.word, c.o1, c.o2, c.dp⟩

/-- The command is loose: a loose form, or the loose word of R231. -/
def DmForm.isLoose (f : DmForm) (w : Word) : Bool := !f.timed || cmdLoose w

/-- At most 16 loose replies and 16 untimed copies (R237). -/
def Tile.dmFull (t : Tile) (f : DmForm) (loose : Bool) : Bool :=
  if f = .ucopy then decide (16 ≤ t.dm.copies.length) else loose && decide (16 ≤ t.dm.replies.length)

/-- The first HBM or untimed-window operand in column order (R415). -/
def DmForm.firstHbm (f : DmForm) (a : DmArgs) : Option Word :=
  match f with
  | .copy | .copy2 => some a.hbmPtr
  | .ucopy | .poolget | .poolrel => none
  | .barr | .bchk => if isPoolHandle a.o1 then none else some a.o1
  | _ => some a.o1

/-- The stack of the first byte of a pointer, by the routing copy (R415). -/
def State.routeStack (s : State) (slot : Nat) (sup : Bool) (p : Word) : Option Nat :=
  (rangeFind (s.rangeTable slot sup) (ptrVirtual p)).map fun e => (entryPhys e + (ptrVirtual p - entryBase e)) / 2 ^ 36

/-- The SRAM end a command delivers to or takes from. -/
def DmForm.sramOperand (f : DmForm) (a : DmArgs) : Option Word :=
  match f with
  | .copy | .copy2 => some a.sramPtr
  | .gath | .gathl | .walk | .radd | .rmin | .rmax => some a.o2
  | _ => none

/-- Dt: the SRAM end's delivery latency, the largest over ovl's tiles, the issuing tile's for a form with no SRAM end, 0 for conv
(R238, R240, R244). -/
def State.deliveryOf (s : State) (slot site stack : Nat) (f : DmForm) (owner : Nat) (targets : List Nat) : Nat :=
  match f with
  | .conv => 0
  | .ovl => targets.foldl (fun n k => max n (s.delivery slot k stack)) 0
  | .copy | .copy2 | .gath | .gathl | .walk | .radd | .rmin | .rmax => s.delivery slot owner stack
  | _ => s.delivery slot site stack

/-- Scope of a release among the barrier forms: bset and barr (R246, spec/12 R255). -/
def DmForm.releaseScope (f : DmForm) (a : DmArgs) : Option Nat :=
  match f with
  | .bset | .barr => some (wbits a.o2 2 0)
  | _ => none

/-- Delay that the manual leaves open for a loose command: 0 for a timed one; on the catwalk at least one cycle, without a bound
(R415). -/
def State.acceptDelay (s : State) (loose owned : Bool) : Nat :=
  if !loose then 0 else (if owned then 0 else 1) + Config.freeNat s.draws

/-- The places a command writes, as a release knows them (spec/12 R254): its SRAM end, its stack, of conv the result's too, the tiles
of ovl, the pool. -/
def State.commandPlaces (s : State) (g : Trig) (f : DmForm) (a : DmArgs) (stack owner : Nat) (targets : List Nat) : List Nat :=
  match f with
  | .copy | .copy2 => [if a.toHbm then stackPlace stack else owner]
  | .gath | .gathl | .walk => [owner]
  | .radd | .rmin | .rmax | .bset => [stackPlace stack]
  | .conv => [stackPlace stack, stackPlace ((s.routeStack g.slot (s.tile g.site).isSupervisor a.o2).getD stack)]
  | .ovl => targets
  | .barr | .bchk => [if isPoolHandle a.o1 then poolPlace else stackPlace stack]
  | .poolget | .poolrel => [poolPlace]
  | .ucopy | .fabric => []

/-- A command that has passed its checks departs, or waits for what it releases (R233, R415, spec/12 R254). -/
def State.sendCommand (s : State) (g : Trig) (f : DmForm) (a : DmArgs) (stack : Nat) : State :=
  let t := s.tile g.site
  let d := s.domain g.slot
  let loose := f.isLoose a.word
  let owned := d.spec.owns stack
  let (owner, off) := ((f.sramOperand a).map (s.sramEnd g.slot g.site)).getD (g.site, ptrOffset a.o1)
  let targets := if f = .ovl then (s.ovlSites g.slot a.o2).getD [] else []
  let dt := s.deliveryOf g.slot g.site stack f owner targets
  let di := if f = .ucopy then 0 else s.delivery g.slot g.site stack
  let scope := f.releaseScope a
  let waits := if loose then s.signalWaits g.slot g.site scope else []
  let copy : BlockRead := ⟨s.nextId + 1, g.cyc + 2, ptrOffset a.o1, 32, .ucopy s.nextId, g.from_⟩
  let c : Command :=
    { id := s.nextId, form := f, site := g.site, slot := g.slot, supTable := t.isSupervisor, word := a.word, o1 := a.o1, o2 := a.o2,
      dp := a.dp, loose := loose, launch := (d.launch.map (·.id)).getD 0, bayStart := t.bayStart.toNat, fired := g.cyc, stack := stack, owned := owned, di := di, dt := dt,
      owner := owner, off := off, targets := targets, phase := if waits.isEmpty && f != .ucopy then .delivery else .waiting,
      acceptAt := g.cyc + (if loose && !owned then 0 else di) + s.acceptDelay loose owned, startAt := (t.bayStart + cmdStart a.word).toNat,
      busyUntil := 0, blocks := [], split := 0, rot0 := 0, rotCount := 0, table := .replicate 64 (0, 0), p0 := 0, p1 := 0, index := [],
      buffer := [], bad := [], sched := [], work := [t.dm.nextXfer], need := .nothing, progress := 0,
      draw := ⟨t.gn.key, t.gn.stream, t.gn.member⟩, codeTable := t.tables.getD (wbits (a.d 1) 16 15) (resetCodeTable 0), block := [],
      waits := waits, release := scope.map fun n => ⟨g.site, n, s.signalRest g.slot g.site n⟩,
      places := s.commandPlaces g f a stack owner targets, rank := 0, from_ := g.from_ }
  let s := ((s.fresh).fresh).drawn.mapDomain g.slot fun d => { d with commands := d.commands ++ [c] }
  if f = .ucopy then
    s.mapTile g.site fun t =>
      let dm := { t.dm with copies := t.dm.copies ++ [t.dm.nextXfer], nextXfer := t.dm.nextXfer + 1 }
      let t := { t with dm := dm, blocks := t.blocks ++ [copy] }
      t.launchResult .dm ⟨g.cyc + 1, some (.s (BitVec.ofNat 64 (t.dm.nextXfer - 1))), none, 0, false, none⟩
  else if loose then
    s.mapTile g.site fun t => { t with dm := { t.dm with replies := t.dm.replies ++ [⟨c.id, false, 0, none, none, f == .bchk, []⟩] } }
  else s

/-- An address fault of DM carries the command copy (spec/20 R364). -/
def Trig.dmAddress (g : Trig) (s : State) (a : DmArgs) (cause : Nat) (p : Word) (r : Nat) : State :=
  s.raise g.slot g.site g.from_ cause p (BitVec.ofNat 64 r) a.copy

/-- A firing of a DM trigger: the checks of R233 in their order, its pointers among them at c (notes/assumptions/78.md), the stream fault
and then the limit of R237 (notes/assumptions/69.md), and the route of R415. -/
def fireDm (f : DmForm) (g : Trig) (s : State) : State :=
  let t := s.tile g.site
  let a : DmArgs := ⟨g.b, t.dm.o1, t.dm.o2, t.dm.dp⟩
  let refuse := g.fault s 0x200B g.b a.o1
  match firstFailure (s.dmPointers g.slot g.site t.isSupervisor f a) with
  | some (p, r) => g.dmAddress s a 0x2001 p r
  | none =>
    match firstFailure (a.extents f) with
    | some (p, r) => g.dmAddress s a 0x2001 p r
    | none =>
      if s.dmFieldsBad g.slot f a || !f.wordOk g.b (s.unit g.slot).maxBeats.toNat then refuse
      else
        match a.streamFault f with
        | some e => g.fault s 0x2006 (BitVec.ofNat 64 e) 1
        | none =>
          if t.dmFull f (f.isLoose g.b) then refuse
          else match f.firstHbm a with
          | none => s.sendCommand g f a 0
          | some p =>
            -- reduced service has no HBM (spec/22 R400)
            if s.reduced && g.slot == 0 then g.dmAddress s a 0x2005 p 6
            else match s.routeStack g.slot t.isSupervisor p with
            | none => g.dmAddress s a 0x2005 p 1
            | some k =>
              if !f.isLoose g.b && !(s.domain g.slot).spec.owns k then g.dmAddress s a 0x2005 p 7 else s.sendCommand g f a k

/-- `copy` (R239). -/
def execDmCopy (s : State) : Result := .next (s.trigger [.dm] (fireDm .copy))

/-- `copy2` (R239). -/
def execDmCopy2 (s : State) : Result := .next (s.trigger [.dm] (fireDm .copy2))

/-- `gath` (R241). -/
def execDmGath (s : State) : Result := .next (s.trigger [.dm] (fireDm .gath))

/-- `gathl` (R241). -/
def execDmGathl (s : State) : Result := .next (s.trigger [.dm] (fireDm .gathl))

/-- `walk` (R242). -/
def execDmWalk (s : State) : Result := .next (s.trigger [.dm] (fireDm .walk))

/-- `radd` (R243). -/
def execDmRadd (s : State) : Result := .next (s.trigger [.dm] (fireDm .radd))

/-- `rmin` (R243). -/
def execDmRmin (s : State) : Result := .next (s.trigger [.dm] (fireDm .rmin))

/-- `rmax` (R243). -/
def execDmRmax (s : State) : Result := .next (s.trigger [.dm] (fireDm .rmax))

/-- `conv` (R244). -/
def execDmConv (s : State) : Result := .next (s.trigger [.dm] (fireDm .conv))

/-- `ovl` (R240). -/
def execDmOvl (s : State) : Result := .next (s.trigger [.dm] (fireDm .ovl))

/-- `ucopy` (R245). -/
def execDmUcopy (s : State) : Result := .next (s.trigger [.dm] (fireDm .ucopy))

/-- `bset` (R246). -/
def execDmBset (s : State) : Result := .next (s.trigger [.dm] (fireDm .bset))

/-- `barr` (R246). -/
def execDmBarr (s : State) : Result := .next (s.trigger [.dm] (fireDm .barr))

/-- `bchk` (R246). -/
def execDmBchk (s : State) : Result := .next (s.trigger [.dm] (fireDm .bchk))

/-- `poolget` (R247). -/
def execDmPoolget (s : State) : Result := .next (s.trigger [.dm] (fireDm .poolget))

/-- `poolrel` (R247). -/
def execDmPoolrel (s : State) : Result := .next (s.trigger [.dm] (fireDm .poolrel))

end Sys2Proof.Machine
end

