-- ==== Sys2Proof/Machine/Shake.lean ====
section
/-!
DEFINITION. SHAKE256, the function that extends the accession registers (spec/17 R322, R330): Keccak-f[1600] over 25 lanes with a
rate of 136 bytes, the domain bits 1111 and pad10*1.
-/
namespace Sys2Proof.Machine

/-- The sponge: 25 words, that of column x and row y at x + 5y. -/
abbrev Sponge := List Word

/-- Word i of a sponge. -/
def Sponge.word (a : Sponge) (i : Nat) : Word := a.getD i 0

/-- One step of the shift register x⁸ + x⁶ + x⁵ + x⁴ + 1, whose lowest bits make the round constants. -/
def registerStep (v : Nat) : Nat := if v < 128 then 2 * v else Nat.xor (2 * v) 0x171

/-- The register's lowest bits from a content on, one per step. -/
def registerBits : Nat → Nat → List Nat
  | 0, _ => []
  | n + 1, v => v % 2 :: registerBits n (registerStep v)

/-- The constant of a round from its seven register bits: bit j stands at place 2^j − 1. -/
def roundConstant (bits : List Nat) : Word := BitVec.ofNat 64 ((bits.zipIdx.map fun x => x.1 * 2 ^ (2 ^ x.2 - 1)).sum)

/-- The constants of the 24 rounds. -/
def roundConstants : List Word :=
  let bits := registerBits 168 1
  (List.range 24).map fun r => roundConstant ((bits.drop (7 * r)).take 7)

/-- The walk over the words other than word 0, from column 1 and row 0, with the number of each: it gives their rotations. -/
def rotationWalk : Nat → Nat → Nat → Nat → List (Nat × Nat)
  | 0, _, _, _ => []
  | n + 1, k, x, y => (x + 5 * y, (k + 1) * (k + 2) / 2 % 64) :: rotationWalk n (k + 1) y ((2 * x + 3 * y) % 5)

/-- The rotation of each word. -/
def rotations : List Nat :=
  let w := rotationWalk 24 0 1 0
  (List.range 25).map fun i => ((w.find? fun p => p.1 == i).map (·.2)).getD 0

/-- Each word is mixed with the parities of the columns beside its own. -/
def Sponge.mixColumns (a : Sponge) : Sponge :=
  let sum (x : Nat) : Word := (List.range 5).foldl (fun w y => w ^^^ a.word (x % 5 + 5 * y)) 0
  let parity := (List.range 5).map sum
  a.zipIdx.map fun p => p.1 ^^^ parity.getD ((p.2 + 4) % 5) 0 ^^^ (parity.getD ((p.2 + 1) % 5) 0).rotateLeft 1

/-- Each word is rotated and moved: the word of column u and row x comes to column x and that row y for which u = x + 3y. -/
def Sponge.scatter (a : Sponge) : Sponge :=
  (List.range 25).map fun i =>
    let source := (i % 5 + 3 * (i / 5)) % 5 + 5 * (i % 5)
    (a.word source).rotateLeft (rotations.getD source 0)

/-- Each word takes in the two words that follow it in its row. -/
def Sponge.mixRows (a : Sponge) : Sponge :=
  a.zipIdx.map fun p =>
    let row := p.2 / 5 * 5
    p.1 ^^^ (a.word (row + (p.2 + 2) % 5) &&& ~~~(a.word (row + (p.2 + 1) % 5)))

/-- The 24 rounds. -/
def Sponge.stir (a : Sponge) : Sponge :=
  roundConstants.foldl (fun a c =>
    match a.mixColumns.scatter.mixRows with
    | w :: rest => (w ^^^ c) :: rest
    | [] => []) a

/-- Absorb n blocks of `rate` words from the front of a message. -/
def Sponge.take (rate : Nat) : Nat → Sponge → List Byte → Sponge
  | 0, a, _ => a
  | n + 1, a, bs =>
    let filled := a.zipIdx.map fun p => if p.2 < rate then p.1 ^^^ BitVec.ofNat 64 (leNat ((bs.drop (8 * p.2)).take 8)) else p.1
    Sponge.take rate n (Sponge.stir filled) (bs.drop (8 * rate))

/-- The padding of a message of n bytes to blocks of `rate` words: a first byte, zeros, and the top bit of the block. -/
def spongePad (rate : Nat) (first : Byte) (n : Nat) : List Byte :=
  let m := 8 * rate - n % (8 * rate)
  if m = 1 then [first ||| 0x80] else first :: (List.replicate (m - 2) 0 ++ [0x80])

/-- The state after a padded message, as bytes. -/
def spongeBytes (rate : Nat) (first : Byte) (bs : List Byte) : List Byte :=
  let a := Sponge.take rate (bs.length / (8 * rate) + 1) (List.replicate 25 0) (bs ++ spongePad rate first bs.length)
  a.flatMap fun w => leBytes 8 w.toNat

/-- SHAKE256 with up to 136 bytes of output: blocks of 17 words. -/
def shakeBytes (n : Nat) (bs : List Byte) : List Byte := (spongeBytes 17 0x1F bs).take n

/-- SHA3-512: blocks of nine words, 64 bytes of output (spec/17 R331). -/
def sha3_512 (bs : List Byte) : List Byte := (spongeBytes 9 0x06 bs).take 64

/-- SHAKE256 with 64 bytes of output. -/
def shake256 (bs : List Byte) : List Byte := shakeBytes 64 bs

/-- A 64-byte register as a bit vector, byte 0 lowest. -/
def digestBits (bs : List Byte) : BitVec 512 := BitVec.ofNat 512 (leNat bs)

/-- Extension of an accession register: A := SHAKE256(A ‖ d) (spec/17 R322). -/
def extendAccession (a : BitVec 512) (d : List Byte) : BitVec 512 := digestBits (shake256 (leBytes 64 a.toNat ++ d))

/-- The digest of a folio fill (spec/17 R330). -/
def folioDigest (folio : Nat) (image : List Byte) : List Byte := shake256 (1 :: BitVec.ofNat 8 folio :: image)

end Sys2Proof.Machine
end

