-- ==== Sys2Proof/Machine/EngineRun.lean ====
section
/-!
DEFINITION. DM commands at the base dies: acceptance and its slips, the start, every SRAM line and HBM sector of the timed forms,
loose and untimed work in unclaimed windows, barrier words and the pool, replies, and untimed copies (spec/10 R208 to R214,
spec/11 R233 to R247, R415, spec/17 R326, R330, spec/20 R364 to R368).
-/
namespace Sys2Proof.Machine

/-- An accession register of a slot is extended now: AU, or AS (spec/17 R322). -/
def State.extendNow (s : State) (slot : Nat) (user : Bool) (d : List Byte) : State :=
  let u := s.unit slot
  s.setUnit slot (if user then { u with accU := extendAccession u.accU d } else { u with accS := extendAccession u.accS d })

/-! ### The list of commands -/

def Domain.command (d : Domain) (id : Nat) : Option Command := d.commands.find? fun c => c.id == id
def State.putCommand (s : State) (slot : Nat) (c : Command) : State :=
  s.mapDomain slot fun d => { d with commands := d.commands.map fun o => if o.id = c.id then c else o }
def State.dropCommand (s : State) (slot id : Nat) : State :=
  s.mapDomain slot fun d => { d with commands := d.commands.filter fun o => o.id ≠ id }

/-- A fault of a command, delivered to its issuing tile with the command copy (spec/20 R366). -/
def State.commandFault (s : State) (slot : Nat) (c : Command) (cause : Nat) (w7 : Word) (w15 : Nat) : State :=
  s.raise slot c.site c.from_ cause w7 (BitVec.ofNat 64 w15) c.copy

/-- A command that ends without its effect: its reply or its transfer is awaited no more (R237). -/
def State.stopCommand (s : State) (slot : Nat) (c : Command) : State :=
  (s.dropCommand slot c.id).mapTile c.site fun t =>
    let copies := if c.form = .ucopy then t.dm.copies.erase (c.work.headD 0) else t.dm.copies
    { t with dm := { t.dm with replies := t.dm.replies.filter (fun r => r.id ≠ c.id), copies := copies } }

/-- A fault that stops its command (R234, R237). -/
def State.failCommand (s : State) (slot : Nat) (c : Command) (cause : Nat) (w7 : Word) (w15 : Nat) : State :=
  (s.commandFault slot c cause w7 w15).stopCommand slot c

/-- A form that travels to the keystone die's uncore and not to a stack (R246, R247, R415). -/
def Command.toPool (c : Command) : Bool :=
  c.form == .poolget || c.form == .poolrel || ((c.form == .barr || c.form == .bchk) && isPoolHandle c.o1)

/-- A loose command is done: its reply may land, at a cycle the manual leaves open: within Dt, or without a bound on the catwalk from a stack
that the domain does not own (R237, R415, spec/15 R302). -/
def State.finishLoose (s : State) (slot : Nat) (c : Command) (q0 : Option Word) (pred : Option (Nat × Bool))
    (acquired : List Outstanding := []) : State :=
  let due := (s.domain slot).dcc + (if c.owned || c.toPool then s.draw (c.dt + 1) else 1 + Config.freeNat s.draws)
  let s := (s.dropCommand slot c.id).drawn
  s.mapTile c.site fun t =>
    let replies := t.dm.replies.map fun r => if r.id = c.id then { r with done := true, due := due, q0 := q0, pred := pred, acquired := acquired } else r
    { t with dm := { t.dm with replies := replies } }

/-! ### Operands translated at acceptance (R210, R233) -/

/-- An operand: its pointer, its virtual offset unless the address overflows, its extent and access. -/
structure Operand where
  ptr : Word
  v : Option Nat
  len : Nat
  rd : Bool
  wr : Bool
  deriving DecidableEq, Repr

def operandAt (p : Word) (len : Nat) (rd wr : Bool) : Operand := ⟨p, some (ptrVirtual p), len, rd, wr⟩

/-- A pointer moved by a distance; the sum must stay a virtual offset. -/
def operandMoved (p : Word) (d : Int) (len : Nat) (rd wr : Bool) : Operand :=
  let v := (ptrVirtual p : Int) + d
  ⟨p + BitVec.ofInt 64 d, if 0 ≤ v ∧ v < (2 ^ 48 : Nat) then some v.toNat else none, len, rd, wr⟩

/-- The operands of a form in column order; those with a data-dependent footprint come later (R241 to R243). -/
def Command.operands (c : Command) : List Operand :=
  let a := c.args
  match c.form with
  | .copy | .copy2 =>
    (List.range (a.rows c.form)).map fun (r : Nat) => operandMoved a.hbmPtr ((r : Int) * a.hbmPitch c.form) a.rowLen (!a.toHbm) a.toHbm
  | .walk => [operandAt a.o1 (8 * (a.vertices + 1)) true false]
  | .radd | .rmin | .rmax => [operandAt a.o1 (a.width * (if a.d 1 = 0 then a.n c.form else 1)) true true]
  | .conv =>
    match a.convFmt with
    | some (f, g, _) => [operandAt a.o1 (elemBytes f (a.n .conv)) true false, operandAt a.o2 (elemBytes g (a.n .conv)) false true]
    | none => []
  | .ovl => [operandAt a.o1 8192 true false]
  | .bset => [operandAt a.o1 8 true true]
  | .barr => if isPoolHandle a.o1 then [] else [operandAt a.o1 8 true true]
  | .bchk => if isPoolHandle a.o1 then [] else [operandAt a.o1 8 true false]
  | .gath | .gathl | .ucopy | .poolget | .poolrel | .fabric => []

/-- Translate one operand through the command's table. -/
def State.translateOperand (s : State) (slot : Nat) (c : Command) (o : Operand) : Xlat :=
  match o.v with
  | none => .bad 1
  | some v => s.translate slot c.table (ptrSpace o.ptr) v o.len o.rd o.wr (!c.loose)

/-- Translate all operands in order: their physical addresses, or the first failure. -/
def State.translateAll (s : State) (slot : Nat) (c : Command) : List Operand → Except (Word × Nat) (List Nat)
  | [] => .ok []
  | o :: os =>
    match s.translateOperand slot c o with
    | .bad r => .error (o.ptr, r)
    | .ok p => (State.translateAll s slot c os).map fun ps => p :: ps

/-- The stack of the first operand, looked up again at acceptance, is not the one travelled to (R415). -/
def Command.strayed (c : Command) : Option Word :=
  match c.form.firstHbm c.args with
  | none => none
  | some p =>
    match rangeFind c.table (ptrVirtual p) with
    | none => none
    | some e => if (entryPhys e + (ptrVirtual p - entryBase e)) / 2 ^ 36 = c.stack then none else some p

/-- The translation step of an acceptance (R234, item 1). -/
def State.acceptOperands (s : State) (slot : Nat) (c : Command) : Except (Word × Nat) (List Nat) :=
  match c.strayed with
  | some p => .error (p, 1)
  | none => s.translateAll slot c c.operands

/-! ### What a timed command will do (R238 to R244) -/

def ceilDiv (a b : Nat) : Nat := (a + b - 1) / b

/-- Lines of values and of indices of a reduction; index lines of a gather. -/
def Command.valueLines (c : Command) : Nat :=
  match c.form with
  | .radd | .rmin | .rmax => ceilDiv (c.args.n c.form * c.args.width) 64
  | _ => 0
def Command.indexLines (c : Command) : Nat :=
  match c.form with
  | .gath | .gathl => ceilDiv (c.args.n c.form) 16
  | .radd | .rmin | .rmax => if c.args.d 1 = 0 then 0 else ceilDiv (c.args.n c.form) 16
  | _ => 0

/-- W(n) of a gather (R241). -/
def Command.releaseOffset (c : Command) : Nat :=
  let n := c.args.n c.form
  ceilDiv n 16 + c.di + c.dt + 128 + 64 * (n + ceilDiv n 19)

/-- Rows of a copy with their physical addresses, as blocks whose place is the SRAM offset. -/
def Command.rowBlocks (c : Command) (ps : List Nat) : List Block :=
  let a := c.args
  (ps.zipIdx).flatMap fun (p, r) =>
    blocksOf (ptrSpace a.hbmPtr) p a.rowLen ((c.off : Int) + r * a.sramPitch c.form).toNat

/-- The block sequence of a streamer or conversion command, before it has windows, and how many of it are read. -/
def Command.sequence (c : Command) (ps : List Nat) : List Block × Nat :=
  let a := c.args
  match c.form with
  | .copy | .copy2 =>
    let bs := c.rowBlocks ps
    (bs, if a.toHbm then 0 else bs.length)
  | .ovl =>
    let bs := blocksOf (ptrSpace a.o1) (ps.headD 0) 8192 (8192 * wbits (a.d 0) 3 0)
    (bs, bs.length)
  | .conv =>
    match a.convFmt with
    | some (f, g, _) =>
      let src := blocksOf (ptrSpace a.o1) (ps.headD 0) (elemBytes f (a.n .conv)) 0
      (src ++ blocksOf (ptrSpace a.o2) (ps.getD 1 0) (elemBytes g (a.n .conv)) 0, src.length)
    | none => ([], 0)
  | _ => ([], 0)

/-- The command with its windows or rotations, and its true beat count B. -/
def Command.fix (c : Command) (ps : List Nat) : Command × Nat :=
  let a := c.args
  let n := a.n c.form
  let c := { c with p0 := ps.headD 0, p1 := ps.getD 1 0 }
  match c.form with
  | .gath =>
    ({ c with rot0 := firstRotation (c.startAt + ceilDiv n 16 + c.di), rotCount := n }, c.releaseOffset + ceilDiv n 2)
  | .radd | .rmin | .rmax =>
    let lead := c.valueLines + c.indexLines + max c.di c.dt
    ({ c with rot0 := firstRotation (c.startAt + lead), rotCount := 2 * n }, lead + 128 + 64 * (2 * n + ceilDiv (2 * n) 19))
  | _ =>
    let (bs, split) := c.sequence ps
    let write := c.form ≠ .conv ∧ split = 0
    let bs := placeBlocks (c.startAt + 4 + (if write then c.dt else 0)) bs
    -- With no block g_last has no value: it is a free value.
    let g := if bs.isEmpty then Config.freeNat c.id % 304 else lastG bs
    ({ c with blocks := bs, split := split }, 4 * g + c.dt + 136)

/-- Two commands name one engine slot. -/
def Command.sameSlot (c : Command) (stack engine slot : Nat) : Bool :=
  c.stack == stack && !c.loose && c.form.timed && c.form.engine == engine && cmdSlot c.word == slot

/-- The command is accepted and busy at a cycle (R235). -/
def Command.busyAt (c : Command) (t : Nat) : Bool :=
  (c.phase == .accepted || c.phase == .started) && decide (c.startAt ≤ t) && decide (t < c.busyUntil)

/-- Rotation windows that two rotation claims share: the first one. -/
def rotationMeet (c o : Command) : Option Nat :=
  let last (x : Command) : Nat := claimedRotation x.rot0 (x.rotCount - 1)
  let r := max c.rot0 o.rot0
  if 0 < c.rotCount ∧ 0 < o.rotCount ∧ c.stack = o.stack ∧ r ≤ min (last c) (last o) then some (16 * r) else none

/-- The first window of a new command that an earlier one holds (R214). -/
def windowMeet (c o : Command) : Option Nat :=
  let own := c.blocks.find? fun b => o.claims b.stack (locChannel b.loc) b.window
  match own with
  | some b => some b.window
  | none =>
    match o.blocks.find? fun b => c.stack == b.stack && rotationClaimed c.rot0 c.rotCount (b.window / 16) with
    | some b => some b.window
    | none => rotationMeet c o

/-- The earlier command that holds a window of the new one, with the window. -/
def Domain.windowHolder (d : Domain) (c : Command) : Option (Command × Nat) :=
  d.commands.findSome? fun o =>
    if o.id ≠ c.id ∧ (o.phase = .accepted ∨ o.phase = .started) then (windowMeet c o).map fun w => (o, w) else none

/-- Acceptance of a timed command: the checks of R234 in order. -/
def State.acceptTimed (s : State) (slot : Nat) (c : Command) : State :=
  let d := s.domain slot
  match s.acceptOperands slot c with
  | .error (p, r) => s.failCommand slot c 0x2005 p r
  | .ok ps =>
    let (c, b) := c.fix ps
    let at_ := BitVec.ofNat 64 (unbiased c.startAt d.sigma)
    if cmdBeats c.word ≠ b then s.failCommand slot c 0x3005 at_ b
    else if c.startAt < d.dcc then s.failCommand slot c 0x3002 at_ b
    else if d.commands.any fun o => o.id != c.id && o.busyAt c.startAt && o.sameSlot c.stack c.form.engine (cmdSlot c.word) then
      s.failCommand slot c 0x3004 at_ b
    else match d.windowHolder c with
      | some (o, w) =>
        s.failCommand slot c 0x3007 (BitVec.ofNat 64 w) ((if refreshWindow w then 2 ^ 63 else 0) + s.flat slot o.site)
      | none => s.putCommand slot { c with phase := .accepted, busyUntil := c.startAt + b }

/-! ### Plans of loose and untimed commands -/

/-- Bytes of an extent, as the blocks it touches. -/
def accessBlock (space p len : Nat) : Block := blockAt space p len 0 0

/-- The physical address of a gathered sector or an indexed element, or the reason it has none (R241, R243). -/
def State.translateElement (s : State) (slot : Nat) (c : Command) (p : Word) (off len : Nat) (wr sameStack : Bool) : Xlat :=
  match s.translateOperand slot c (operandMoved p off len true wr) with
  | .ok q => if sameStack ∧ q / 2 ^ 36 ≠ c.stack then .bad 6 else .ok q
  | .bad r => .bad r

/-- A command with a new need. -/
def State.needs (s : State) (slot : Nat) (c : Command) (n : Need) : State := s.putCommand slot { c with need := n }

/-- Cover of several extents in one block. -/
def Block.hull (b : Block) (o : Block) : Block := { b with lo := min b.lo o.lo, hi := max b.hi o.hi }

/-- The first line of a gathl's destination whose sectors have all been fetched. -/
def Command.fullLine (c : Command) : Option Nat :=
  (c.buffer.map fun x => x.1 / 2).find? fun u =>
    ([2 * u, 2 * u + 1].filter fun q => decide (q < c.args.n .gathl)).all fun q => (Table.find c.buffer q).isSome

/-- gathl: index lines, then block by block the sectors asked of it; a destination line is written, whole, once its sectors are there
(R241, spec/10 R198). -/
def State.planGather (s : State) (slot : Nat) (c : Command) : State :=
  let a := c.args
  let n := a.n c.form
  if c.progress < c.indexLines then
    s.needs slot c (.line false c.site (ptrOffset (a.d 0) + 64 * c.progress) (4 * min 16 (n - 16 * c.progress)))
  else match c.fullLine with
    | some u => s.needs slot c (.line true c.owner (c.off + 64 * u) (32 * min 2 (n - 2 * u)))
    | none =>
      match c.index with
      | [] => s.finishLoose slot c none none
      | (_, i) :: _ =>
        match s.translateElement slot c a.o1 (32 * i) 32 false false with
        | .bad r => s.failCommand slot c 0x4001 (a.o1 + BitVec.ofNat 64 (32 * i)) r
        | .ok p =>
          let b := accessBlock (ptrSpace a.o1) p 32
          let here := c.index.filterMap fun (q, j) =>
            match s.translateElement slot c a.o1 (32 * j) 32 false false with
            | .ok p' =>
              let b' := accessBlock (ptrSpace a.o1) p' 32
              if b'.loc = b.loc then some (q, b') else none
            | .bad _ => none
          s.needs slot { c with work := here.map (·.1) } (.block (here.foldl (fun x y => x.hull y.2) b) false)

/-- walk's registers: walk r, step t, vertex v; behind them stand the words of the start list that have been read with walk r's line. -/
def Command.walkReg (c : Command) (i : Nat) : Nat := c.work.getD i 0
def Command.setWalk (c : Command) (r t v : Nat) : Command := { c with work := r :: t :: v :: c.work.drop 3 }

/-- The next vertex of a walk: of the same walk, or the start of the next one. -/
def Command.nextVertex (c : Command) : Command :=
  let (r, t, v) := (c.walkReg 0, c.walkReg 1, c.walkReg 2)
  if t < c.args.steps then { c.setWalk r (t + 1) v with progress := 1 } else { c.setWalk (r + 1) 0 0 with progress := 0 }

/-- The vertices that stand in `index`, by their places in the walk table, are written: they lie in one line. -/
def State.writeWalk (s : State) (slot : Nat) (c : Command) : State :=
  s.needs slot c (.line true c.owner (c.off + 4 * (c.index.headD (0, 0)).1) (4 * c.index.length))

/-- A fault of a walk, reported at once; the vertices found so far are written, and stand (R242). -/
def State.walkFault (s : State) (slot : Nat) (c : Command) (cause : Nat) (w7 : Word) (w15 : Nat) : State :=
  let s := s.commandFault slot c cause w7 w15
  if c.index.isEmpty then s.stopCommand slot c else s.writeWalk slot { c with progress := 5 }

/-- Stages of a walk: 0 start word, 1 next step, 2 row offsets, 3 column, 4 output, 5 the end after a fault (R242). The start list is read
line by line, and the vertices of one line of the table are written together (spec/10 R198); `fuel` bounds those that need no access. -/
def State.planWalk (s : State) (slot : Nat) : Nat → Command → State
  | 0, _ => s
  | fuel + 1, c =>
    let a := c.args
    let (r, t, v) := (c.walkReg 0, c.walkReg 1, c.walkReg 2)
    match c.progress with
    | 0 =>
      if a.walks ≤ r then s.finishLoose slot c none none
      else
        match c.work.drop 3 with
        | [] =>
          let off := ptrOffset (a.d 1) + 4 * r
          s.needs slot c (.line false c.site off (min (64 - off % 64) (4 * (a.walks - r))))
        | v :: rest =>
          let c := { c with work := r :: 0 :: v :: rest }
          if a.vertices ≤ v then s.walkFault slot c 0x4003 (BitVec.ofNat 64 v) r
          else s.planWalk slot fuel { c with progress := 4 }
    | 1 =>
      if v = 0xFFFFFFFF then s.planWalk slot fuel { c with progress := 4 }
      else
        match blocksOf (ptrSpace a.o1) (c.p0 + 8 * v) 16 0 with
        | [] => s
        | b :: rest => s.needs slot { c with progress := 2, blocks := rest, buffer := [] } (.block b false)
    | 5 => s.stopCommand slot c
    | _ =>
      let k := (a.steps + 1) * r + t
      let c := { c with progress := 4, index := c.index ++ [(k, v)] }
      if (c.off + 4 * (k + 1)) % 64 = 0 ∨ (a.steps + 1) * a.walks ≤ k + 1 then s.writeWalk slot c
      else s.planWalk slot fuel c.nextVertex

/-- Index of element k: its place in the list, or k itself without a list (R243). -/
def Command.elementIndex (c : Command) (k : Nat) : Nat := if c.args.d 1 = 0 then k else Table.at c.index 0 k

/-- Element k has an index: its index line was read without an error (spec/20 R367). -/
def Command.hasIndex (c : Command) (k : Nat) : Bool := c.args.d 1 == 0 || (Table.find c.index k).isSome

/-- Physical address of element k of a reduction. -/
def State.reduceAddress (s : State) (slot : Nat) (c : Command) (k : Nat) : Xlat :=
  let a := c.args
  if a.d 1 = 0 then .ok (c.p0 + a.width * k)
  else s.translateElement slot c a.o1 (a.width * c.elementIndex k) a.width true true

/-- Elements from k on that lie in one block with sectors in rising order: they share a window. -/
def State.reduceGroup (s : State) (slot : Nat) (c : Command) (b : Block) : Nat → Nat → List (Nat × Block)
  | 0, _ => []
  | f + 1, k =>
    match s.reduceAddress slot c k with
    | .ok p =>
      let x := accessBlock (ptrSpace c.o1) p c.args.width
      if x.loc = b.loc ∧ b.lo / 32 ≤ x.lo / 32 then (k, x) :: State.reduceGroup s slot c x f (k + 1) else []
    | .bad _ => []

/-- Loose radd, rmin, rmax: value lines, index lines, then the elements in order of k (R243). -/
def State.planReduce (s : State) (slot : Nat) (c : Command) : State :=
  let a := c.args
  let n := a.n c.form
  let (gv, gi) := (c.valueLines, c.indexLines)
  let k := c.progress - gv - gi
  if c.progress < gv then s.needs slot c (.line false c.owner (c.off + 64 * c.progress) (min 64 (n * a.width - 64 * c.progress)))
  else if c.progress < gv + gi then
    let g := c.progress - gv
    s.needs slot c (.line false c.site (ptrOffset (a.d 1) + 64 * g) (4 * min 16 (n - 16 * g)))
  else if n ≤ k then s.finishLoose slot c none none
  else match s.reduceAddress slot c k with
    | .bad r => s.failCommand slot c 0x4001 (a.o1 + BitVec.ofNat 64 (a.width * c.elementIndex k)) r
    | .ok p =>
      let b := accessBlock (ptrSpace a.o1) p a.width
      let g := s.reduceGroup slot c b (n - k) k
      s.needs slot { c with work := g.map (·.1) } (.block (g.foldl (fun x y => x.hull y.2) b) false)

/-- Loose conv: the source blocks, then the result blocks (R244). -/
def State.planConv (s : State) (slot : Nat) (c : Command) : State :=
  match c.blocks[c.progress]? with
  | none => s.finishLoose slot c none none
  | some b => s.needs slot c (.block b false)

/-- Ends of an untimed copy (R245). -/
def Command.copyWord (c : Command) (i : Nat) : Word := c.block.getD i 0
def Command.copyLength (c : Command) : Nat := (c.copyWord 2).toNat
def Command.endpoint (c : Command) : Nat := wbits (c.copyWord 3) 31 16

/-- Bytes from a position of an end, 0 the source, to the end of its unit: a line of SRAM (spec/10 R198), a block of HBM. -/
def Command.copyReach (c : Command) (i x : Nat) : Nat :=
  let p := c.copyWord i
  if sramSpaces.contains (ptrSpace p) then 64 - (ptrOffset p + x) % 64 else 256 - ((if i = 0 then c.p0 else c.p1) + x) % 256

/-- Bytes that are written at once: to the end of the destination's unit; a frame's for another endpoint (spec/13 R260). -/
def Command.chunk (c : Command) : Nat :=
  min (c.copyLength - c.progress) (if c.endpoint = 0 then c.copyReach 1 c.progress else 1024)

/-- Bytes that have been read and not written, and bytes of the next read: to the end of the source's unit (R198, R248). -/
def Command.got (c : Command) : Nat := c.buffer.foldl (fun n x => n + x.2.length) 0
def Command.piece (c : Command) : Nat := min (c.copyLength - c.progress - c.got) (c.copyReach 0 (c.progress + c.got))

/-- The bytes of the chunk, and what has been read beyond it: a source unit is read whole, whatever the destination's units are (R248). -/
def Command.chunkBytes (c : Command) : List Byte := (c.buffer.flatMap (·.2)).take c.chunk
def Command.afterChunk (c : Command) : Command :=
  let rest := (c.buffer.flatMap (·.2)).drop c.chunk
  { c with buffer := if rest.isEmpty then [] else [(0, rest)], progress := c.progress + c.chunk }

/-- The 16 slots of each of the four timed engines of a stack, engine by engine: the stated end cycle of the command that is busy there
(R235), in its domain's DCC. -/
def State.slotStates (s : State) (stack : Nat) : List (Option Nat) :=
  (List.range 64).map fun i => s.domains.findSome? fun p =>
    (p.2.commands.find? fun c => c.busyAt p.2.dcc && c.sameSlot stack (i / 16) (i % 16)).map fun c => c.busyUntil

/-- A status window's bytes (spec/17 R326): the temperature and the critical flag as two words, the count of untimed windows, and
a free function of the contents where the manual does not state their layout (notes/assumptions/88.md). -/
def State.statusBytes (s : State) (stack off n : Nat) : List Byte :=
  let k := s.stack stack
  let slots := s.slotStates stack
  (List.range n).map fun i =>
    let a := off + i
    if a < 0x100 then Config.slotWindow slots a
    else if a < 0x140 then Config.errorWindow k.correctedCount.toList k.uncorrectedCount.toList (a - 0x100)
    else if a < 0x148 then BitVec.ofNat 8 (k.temperature / 256 ^ (a - 0x140))
    else if a < 0x150 then BitVec.ofNat 8 ((if k.critical then 1 else 0) / 256 ^ (a - 0x148))
    else if a < 0x158 then BitVec.ofNat 8 (k.untimedWindows / 256 ^ (a - 0x150))
    else 0

/-- An end of an untimed copy that is read and written by lines: SRAM, and in reduced service the staging store, which appears as space
0xF (spec/22 R400). -/
def State.copyLine (s : State) (slot : Nat) (p : Word) : Bool :=
  sramSpaces.contains (ptrSpace p) || (s.reduced && slot == 0 && ptrSpace p == 15)

/-- The store and the offset of such an end. -/
def State.copyStore (s : State) (slot site : Nat) (p : Word) : Nat × Nat :=
  if ptrSpace p = 15 then (stagingSite, wbits p 47 0) else s.sramEnd slot site p

/-- The write of a chunk that has been read; bytes for another endpoint wait for a slot of the fabric (R245, spec/13 R270). -/
def State.planCopyWrite (s : State) (slot : Nat) (c : Command) : State :=
  let n := c.chunk
  let dst := c.copyWord 1
  if c.endpoint ≠ 0 then s.needs slot c .frame
  else if s.copyLine slot dst then
    let (owner, off) := s.copyStore slot c.site dst
    s.needs slot c (.line true owner (off + c.progress) n)
  else s.needs slot c (.block (accessBlock (ptrSpace dst) (c.p1 + c.progress) n) false)

/-- An untimed copy's next access (R245). One to another endpoint, all of whose bytes have left, awaits the endpoint's report
(spec/13 R270). -/
def State.planCopy (s : State) (slot : Nat) (c : Command) : State :=
  let now := (s.domain slot).dcc
  let n := c.chunk
  let src := c.copyWord 0
  if c.copyLength ≤ c.progress then s.needs slot c (if c.endpoint = 0 then .ending now else .nothing)
  else if n ≤ c.got then s.planCopyWrite slot c
  else if ptrSpace src = 8 then
    let bs := s.statusBytes (wbits src 47 43) (wbits src 42 0 + c.progress) n
    s.drawn.planCopyWrite slot { c with buffer := [(0, bs)] }
  else
    let at_ := c.progress + c.got
    if s.copyLine slot src then
      let (owner, off) := s.copyStore slot c.site src
      s.needs slot c (.line false owner (off + at_) c.piece)
    else s.needs slot { c with bad := [1] } (.block (accessBlock (ptrSpace src) (c.p0 + at_) c.piece) false)

/-- The read of a piece of a copy is complete: `bad`, the mark that it is under way, goes. -/
def Command.tookPiece (c : Command) : Command := { c with bad := [] }

/-- The next need of a loose or untimed command. -/
def State.planCommand (s : State) (slot : Nat) (c : Command) : State :=
  match c.form with
  | .gathl => s.planGather slot c
  | .walk => s.planWalk slot 40 c
  | .radd | .rmin | .rmax => s.planReduce slot c
  | .conv => s.planConv slot c
  | .bset | .barr | .bchk => s.needs slot c (.block (accessBlock (ptrSpace c.o1) c.p0 8) false)
  | .ucopy => s.planCopy slot c
  | _ => s

/-! ### The pool (R247) -/

def poolHandle (k : Nat) : Word := BitVec.ofNat 64 (0x8000040000000000 + 8 * k)
def poolIndex (h : Word) : Nat := h.toNat / 8 % 256

/-- Barriers that the slot's partition may hold at once (spec/17 R313); none outside every partition. -/
def State.poolQuota (s : State) (slot : Nat) : Nat :=
  match s.partitionOf slot with
  | some k => wbits (s.mmc.partitions.getD k 0) 56 48
  | none => 0

def State.poolHeld (s : State) (owner : Nat) : Nat := (s.pool.filter fun x => x.2.owner == owner).length

/-- The lowest free barrier. -/
def State.poolFree (s : State) : Option Nat := (List.range 256).find? fun k => (Table.find s.pool k).isNone

/-- poolget: a reference more, a free barrier, or none within the quota. -/
def State.acceptPoolget (s : State) (slot : Nat) (c : Command) : State :=
  let owner := (s.partitionOf slot).getD 16
  let k := wbits c.word 2 0
  let done (s : State) (q : Word) (refused : Bool) : State := s.finishLoose slot c (some q) (some (k, refused))
  if c.o2 ≠ 0 then
    match Table.find s.pool (poolIndex c.o2) with
    | none => s.failCommand slot c 0x4005 c.o2 3
    | some b => done { s with pool := Table.put s.pool (poolIndex c.o2) { b with refs := b.refs + 1 } } c.o2 false
  else if s.poolQuota slot ≤ s.poolHeld owner then done s 0 true
  else match s.poolFree with
    | none => done s 0 true
    | some i => done { s with pool := Table.put s.pool i ⟨c.o1, 1, owner, []⟩ } (poolHandle i) false

/-- poolrel: a reference less; at 0 the barrier is free. -/
def State.acceptPoolrel (s : State) (slot : Nat) (c : Command) : State :=
  let i := poolIndex c.word
  match Table.find s.pool i with
  | none => s.failCommand slot c 0x4005 c.word 3
  | some b =>
    let pool := if b.refs ≤ 1 then Table.drop s.pool i else Table.put s.pool i { b with refs := b.refs - 1 }
    { s with pool := pool }.finishLoose slot c none none

/-- word − b, or 0 (R246). -/
def barrierSub (w b : Word) : Word := if b.toNat ≤ w.toNat then w - b else 0

/-- barr and bchk on a pool barrier. -/
def State.acceptPoolBarrier (s : State) (slot : Nat) (c : Command) : State :=
  let i := poolIndex c.o1
  match Table.find s.pool i with
  | none => s.failCommand slot c 0x4005 c.o1 3
  | some b =>
    if c.form = .bchk then s.finishLoose slot c (some b.count) none (s.acquireFrom slot c.site (wbits c.o2 2 0) b.releases)
    else
      let releases := match c.release with | some r => s.withRelease b.releases r | none => b.releases
      { s with pool := Table.put s.pool i { b with count := barrierSub b.count c.word, releases := releases } }.finishLoose slot c none none

/-! ### Acceptance -/

/-- Space 0x8 in an untimed copy (spec/17 R326): the pointer refused, and why. -/
def State.statusFault (s : State) (slot : Nat) (c : Command) : Option (Word × Nat) :=
  let (a, b) := (c.copyWord 0, c.copyWord 1)
  if ptrSpace a = 8 ∧ !c.supTable then some (a, 8)
  else if ptrSpace a = 8 ∧ !s.stackInPartition slot (wbits a 47 43) then some (a, 8)
  else if ptrSpace b = 8 ∧ c.endpoint = 0 then some (b, if c.supTable then 1 else 8)
  else none

/-- The physical base of one end of an untimed copy; SRAM and status windows have none. -/
def State.copyEnd (s : State) (slot : Nat) (c : Command) (i : Nat) : Xlat :=
  let p := c.copyWord i
  if s.copyLine slot p && ptrSpace p == 15 then
    if 2 ^ 20 < wbits p 47 0 + c.copyLength then .bad 5 else .ok 0
  else if sramSpaces.contains (ptrSpace p) ∨ ptrSpace p = 8 ∨ (i = 1 ∧ c.endpoint ≠ 0) then .ok 0
  else s.translateOperand slot c (operandAt p c.copyLength (i == 0) (i == 1))

/-- Acceptance of an untimed copy by the copy path of its tile (R245). -/
def State.acceptCopy (s : State) (slot : Nat) (c : Command) : State :=
  match s.statusFault slot c with
  | some (p, r) => s.failCommand slot c 0x2001 p r
  | none =>
    match s.copyEnd slot c 0 with
    | .bad r => s.failCommand slot c 0x2005 (c.copyWord 0) r
    | .ok p0 =>
      match s.copyEnd slot c 1 with
      | .bad r => s.failCommand slot c 0x2005 (c.copyWord 1) r
      | .ok p1 => s.planCommand slot { c with p0 := p0, p1 := p1, progress := 0, phase := .untimed }

/-- Acceptance of a loose command: translation, then its work begins. -/
def State.acceptLoose (s : State) (slot : Nat) (c : Command) : State :=
  match s.acceptOperands slot c with
  | .error (p, r) => s.failCommand slot c 0x2005 p r
  | .ok ps =>
    let (bs, split) := c.sequence ps
    s.planCommand slot { c with p0 := ps.headD 0, p1 := ps.getD 1 0, blocks := bs, split := split, phase := .untimed, work := [] }

/-- A command reaches its base die and is accepted (R233, R234, R415). The table is read now and serves all later translations
(spec/10 R210). -/
def State.acceptCommand (s : State) (slot : Nat) (c : Command) : State :=
  let c := { c with table := s.rangeTable slot c.supTable, rank := s.nextId }
  let s := s.fresh
  match c.form with
  | .poolget => s.acceptPoolget slot c
  | .poolrel => s.acceptPoolrel slot c
  | .ucopy => s.acceptCopy slot c
  | _ =>
    if !c.loose then s.acceptTimed slot c
    else if (c.form = .barr ∨ c.form = .bchk) ∧ isPoolHandle c.o1 then s.acceptPoolBarrier slot c
    else s.acceptLoose slot c

/-- DM command acceptance (R234). -/
def execDmCommandAcceptance (slot id : Nat) (s : State) : Result :=
  .next (match (s.domain slot).command id with
    | some c => if c.phase = .delivery then s.acceptCommand slot c else s
    | none => s)

/-- The start of a timed command: with W, the named slot must hold no command busy at S (R235). -/
def State.startCommand (s : State) (slot : Nat) (c : Command) : State :=
  let d := s.domain slot
  let blocked := d.commands.any fun o =>
    o.id != c.id && o.busyAt c.startAt && o.sameSlot c.stack (cmdWaitEngine c.word) (cmdWaitSlot c.word)
  if cmdWaits c.word && blocked then
    s.failCommand slot c 0x3003 (BitVec.ofNat 64 (unbiased c.startAt d.sigma)) (c.busyUntil - c.startAt)
  else s.putCommand slot { c with phase := .started }

/-- Timed command start (R235). -/
def execTimedCommandStart (slot id : Nat) (s : State) : Result :=
  .next (match (s.domain slot).command id with
    | some c => if c.phase = .accepted then s.startCommand slot c else s
    | none => s)

/-! ### Windows for loose and untimed work (R208) -/

/-- A command waits for a window of a bank of a stack's pseudo-channel. -/
def Command.wants (c : Command) (stack channel bank : Nat) : Bool :=
  match c.need with
  | .block b false => b.stack == stack && locChannel b.loc == channel && b.bank == bank
  | _ => false

/-- Give window n of every unclaimed pseudo-channel to the first command, in the order of acceptance, that waits for it; the commands of
a frozen domain stand still. -/
def State.grantWindows (s : State) (stack n : Nat) : State :=
  (List.range 64).foldl (init := s) fun s channel =>
    if s.domains.any fun p => p.2.commands.any fun c => (c.phase == .accepted || c.phase == .started) && c.claims stack channel n then s
    else
      let waiting := (s.domains.filter fun p => !p.2.frozen).flatMap fun p =>
        (p.2.commands.filter fun c => c.phase == .untimed && c.wants stack channel (n % 16)).map fun c => (p.1, c)
      match (sortBy (fun (x y : Nat × Command) => decide (x.2.rank < y.2.rank)) waiting).head? with
      | none => s
      | some (slot, c) =>
        let s := match c.need with
          | .block b _ => s.needs slot c (.block { b with window := n } true)
          | _ => s
        let k := s.stack stack
        s.setStack stack { k with untimedWindows := k.untimedWindows + 1 }

/-- Windows for untimed work of other domains while the domain that keeps a stack's time is frozen: they count reference ticks, from
beyond every window of a DCC (spec/12 R258; notes/assumptions/80.md). -/
def freezeCycle (tick : Nat) : Nat := 2 ^ 62 + tick

/-- The cycle in which a stack's windows count: DCC of the domain that keeps its time, or that of its freeze. -/
def State.windowCycle (s : State) (slot : Nat) : Nat := if (s.domain slot).frozen then freezeCycle s.tick else (s.domain slot).dcc

/-- The base die allocates window n at DCC 4n − 4 of the domain that keeps its time; a refresh window moves no data (R206, R208), and
untimed work waits while the stack is held. -/
def execWindowAllocation (slot stack : Nat) (s : State) : Result :=
  let n := (s.windowCycle slot + 4) / 4
  .next (if refreshWindow n ∨ s.stackHeld stack then s else s.grantWindows stack n)

/-! ### HBM sectors (R205, R236 to R246) -/

/-- The in-range bytes of sector k of a block: location and length. -/
def Block.sectorSpan (b : Block) (k : Nat) : Nat × Nat :=
  let lo := max b.lo (32 * k)
  (b.loc + lo, min b.hi (32 * k + 32) - lo)

/-- The physical sector address a record names. -/
def Block.sectorPhys (b : Block) (k : Nat) : Word := BitVec.ofNat 64 (b.phys + 32 * k)

/-- What stands in the way of a write to a sector: a live barrier word, or a partial write over an error (R246, spec/20 R368). -/
inductive WriteCheck where
  | fine | live | error
  deriving DecidableEq, Repr

def State.checkWrite (s : State) (a n : Nat) : WriteCheck :=
  if s.liveBarrier a then .live else if s.hbmBad a && n != 32 then .error else .fine

/-- An uncorrectable error at a location of HBM counts in its pseudo-channel (spec/17 R326, spec/10 R202). -/
def State.countError (s : State) (a : Nat) : State :=
  let k := s.stack (a / 2 ^ 36)
  s.setStack (a / 2 ^ 36) { k with uncorrectedCount := bump k.uncorrectedCount (locChannel a) }

/-- A sector that is in error meets a read (spec/20 R367). -/
def State.sectorFault (s : State) (slot : Nat) (c : Command) (a : Nat) (phys : Word) : State :=
  (s.countError a).commandFault slot c 0x5004 phys 0

/-- Raise what a refused write raises; the write does not perform. -/
def State.refuseWrite (s : State) (slot : Nat) (c : Command) (w : WriteCheck) (a : Nat) (phys : Word) : State :=
  match w with
  | .live => s.commandFault slot c 0x4004 phys 2
  | .error => s.sectorFault slot c a phys
  | .fine => s

/-- Byte x of a command's source stream, when its sector was read (R244). -/
def Command.sourceByte (c : Command) (x : Nat) : Option Byte :=
  ((c.blocks.take c.split).zipIdx).findSome? fun (b, i) =>
    if b.place ≤ x ∧ x < b.place + (b.hi - b.lo) then
      let at_ := b.lo + (x - b.place)
      let k := at_ / 32
      (Table.find c.buffer (8 * i + k)).bind fun bs => bs[at_ - max b.lo (32 * k)]?
    else none

/-- Byte y of a conversion's result (R244). -/
def Command.convByte (c : Command) (y : Nat) : Option Byte :=
  let a := c.args
  match a.convFmt with
  | none => none
  | some (f, g, _) =>
    let (wf, wg) := (f.width / 8, g.width / 8)
    let e := y / wg
    let bs := (List.range wf).map fun j => c.sourceByte (e * wf + j)
    if bs.any Option.isNone then none
    else
      let r := RndWord.ofWord (a.d 2)
      let draw := draw24 ({ c.draw with member := 19 }.call 1 (r.elem + e))
      let out := (convertElem f g c.codeTable ((RMode.ofCode r.mode).getD .rne) r.sat draw (leNat (bs.map fun b => b.getD 0))).1
      (leBytes wg out)[y % wg]?

/-- The bytes a block command writes to sector k of block i; none when what they derive from was not read. -/
def Command.outBytes (c : Command) (b : Block) (i k : Nat) : Option (List Byte) :=
  let lo := max b.lo (32 * k)
  let n := min b.hi (32 * k + 32) - lo
  if c.form = .conv then
    let bs := (List.range n).map fun j => c.convByte (b.place + (lo - b.lo) + j)
    if bs.any Option.isNone then none else some (bs.map fun x => x.getD 0)
  else Table.find c.buffer (8 * i + k)

/-- Sector k of block i of a command in sequence performs: read into the buffer, or write from it; `stop` ends a loose command at
a fault. -/
def State.blockSector (s : State) (slot : Nat) (c : Command) (b : Block) (i k : Nat) : State :=
  let (a, n) := b.sectorSpan k
  let refuse (s : State) (c : Command) : State := if c.loose then s.stopCommand slot c else s
  if i < c.split then
    if s.hbmBad a then refuse (s.sectorFault slot c a (b.sectorPhys k)) c
    else s.putCommand slot { c with buffer := Table.put c.buffer (8 * i + k) (s.hbmRead a n) }
  else match c.outBytes b i k with
    | none => s
    | some bs =>
      match s.checkWrite a n with
      | .fine => s.hbmWrite a bs
      | w => refuse (s.refuseWrite slot c w a (b.sectorPhys k)) c

/-- The new value of a reduced element (R243). -/
def reduceElement (f : DmForm) (code : Nat) (old v : List Byte) : List Byte :=
  let (o, x) := (leNat old, leNat v)
  let w := old.length
  match Fmt.ofCode code with
  | some .f32 =>
    let op : VecOp := match f with | .rmin => .fmin | .rmax => .fmax | _ => .fadd
    leBytes 4 ((floatLaneRounded op ⟨.f32, .f32, .f32, 0⟩ (BitVec.ofNat 32 o) 0 (BitVec.ofNat 32 x)).1).toNat
  | some g =>
    let val (n : Nat) : Int := if g.isSigned then (BitVec.ofNat (8 * w) n).toInt else n
    match f with
    | .radd => leBytes w (o + x)
    | .rmin => if val x < val o then v else old
    | _ => if val o < val x then v else old
  | none => old

/-- The value bytes of element k; none when its line was not read. -/
def Command.valueBytes (c : Command) (k : Nat) : Option (List Byte) :=
  let w := c.args.width
  (Table.find c.buffer (k * w / 64)).map fun bs => (bs.drop (k * w % 64)).take w

/-- Apply element k at its sector: read, combine, write, in one granted window (R243; notes/assumptions/101.md). -/
def State.applyElement (s : State) (slot : Nat) (c : Command) (p k : Nat) : State :=
  let b := accessBlock (ptrSpace c.o1) p c.args.width
  let a := b.loc + b.lo
  let phys := BitVec.ofNat 64 (p / 32 * 32)
  match c.valueBytes k with
  | none => s
  | some v =>
    if s.hbmBad a then s.sectorFault slot c a phys
    else match s.checkWrite a c.args.width with
      | .fine => s.hbmWrite a (reduceElement c.form c.args.reduceCode (s.hbmRead a c.args.width) v)
      | w => s.refuseWrite slot c w a phys

/-- The element can be read and written. -/
def State.elementFine (s : State) (c : Command) (p : Nat) : Bool :=
  let b := accessBlock (ptrSpace c.o1) p c.args.width
  !s.hbmBad (b.loc + b.lo) && s.checkWrite (b.loc + b.lo) c.args.width == .fine

/-- The elements of a loose reduction in one sector, in order; a fault stops the command (R243, R237). -/
def State.reduceSector (s : State) (slot : Nat) (c : Command) : List (Nat × Nat) → State × Bool
  | [] => (s, true)
  | (k, p) :: rest =>
    if s.elementFine c p then State.reduceSector (s.applyElement slot c p k) slot c rest
    else (((s.applyElement slot c p k)).stopCommand slot c, false)

/-- A walk's state after the data of its stage has come (R242). -/
def State.walkNext (s : State) (slot : Nat) (c : Command) : State :=
  let a := c.args
  let (r, t, v) := (c.walkReg 0, c.walkReg 1, c.walkReg 2)
  let data := c.buffer.flatMap (·.2)
  match c.progress with
  | 2 =>
    let lo := leNat (data.take 8)
    let hi := leNat (data.drop 8)
    if hi < lo then s.walkFault slot c 0x4003 (BitVec.ofNat 64 v) r
    else if hi = lo then s.planCommand slot { c.setWalk r t 0xFFFFFFFF with progress := 4, buffer := [] }
    else
      let x := ((c.draw.call 2 (a.e0 + r * a.steps + t - 1)).setWidth 32).toNat
      let i := lo + x * (hi - lo) / 2 ^ 32
      match s.translateElement slot c (a.d 0) (4 * i) 4 false false with
      | .bad e => s.walkFault slot c 0x4001 (a.d 0 + BitVec.ofNat 64 (4 * i)) e
      | .ok p =>
        match blocksOf (ptrSpace (a.d 0)) p 4 0 with
        | [] => s
        | b :: rest => s.needs slot { c with progress := 3, blocks := rest, buffer := [] } (.block b false)
  | 3 =>
    let v := leNat data
    if a.vertices ≤ v then s.walkFault slot c 0x4003 (BitVec.ofNat 64 v) r
    else s.planCommand slot { c.setWalk r t v with progress := 4, buffer := [] }
  | _ => s

/-- The last sector of a loose access has performed: the next need. -/
def State.blockDone (s : State) (slot : Nat) (c : Command) : State :=
  match c.form with
  | .walk =>
    match c.blocks with
    | b :: rest => s.needs slot { c with blocks := rest } (.block b false)
    | [] => s.walkNext slot c
  | .radd | .rmin | .rmax => s.planCommand slot { c with progress := c.progress + c.work.length, work := [] }
  | .conv => s.planCommand slot { c with progress := c.progress + 1 }
  | _ => s.planCommand slot c

/-- The signal of a bset or barr performs at its word: its release stands there for later acquires (spec/12 R255, R256). -/
def State.noteRelease (s : State) (a : Nat) (c : Command) : State :=
  match c.release with
  | some r =>
    let rs := s.withRelease (Table.at s.barriers [] (a / 8)) r
    { s with barriers := if rs.isEmpty then Table.drop s.barriers (a / 8) else Table.put s.barriers (a / 8) rs }
  | none => s

/-- One sector of the current access of a loose or untimed command, before its progress is taken up. -/
def State.looseSector (s : State) (slot : Nat) (c : Command) (b : Block) (k : Nat) : State :=
  let (a, n) := b.sectorSpan k
  let bad := s.hbmBad a
  let stop (cause reason : Nat) : State := s.failCommand slot c cause (b.sectorPhys k) reason
  match c.form with
  | .gathl =>
    let here := c.index.filter fun (q, j) =>
      c.work.contains q &&
        (match s.translateElement slot c c.o1 (32 * j) 32 false false with
          | .ok p => p / 32 % 8 == k
          | .bad _ => false)
    if here.isEmpty then s
    else if bad then (s.countError a).failCommand slot c 0x5004 (b.sectorPhys k) 0
    else
      let rest := c.index.filter fun (q, _) => !(here.any fun h => h.1 == q)
      s.putCommand slot { c with index := rest, buffer := c.buffer ++ here.map fun h => (h.1, s.hbmRead (b.loc + 32 * k) 32) }
  | .walk => if bad then (s.countError a).walkFault slot c 0x5004 (b.sectorPhys k) 0 else s.putCommand slot { c with buffer := c.buffer ++ [(b.place + (max b.lo (32 * k) - b.lo), s.hbmRead a n)] }
  | .radd | .rmin | .rmax =>
    let here := c.work.filterMap fun j =>
      match s.reduceAddress slot c j with
      | .ok p => if p / 32 % 8 = k then some (j, p) else none
      | .bad _ => none
    (s.reduceSector slot c here).1
  | .conv => s.blockSector slot c b c.progress k
  | .bset =>
    if bad then (s.countError a).failCommand slot c 0x5004 (b.sectorPhys k) 0
    else (((s.hbmWrite a (leBytes 8 c.word.toNat)).setLive a (!c.o2.getLsbD 4)).noteRelease a c).finishLoose slot c none none
  | .barr =>
    if bad then (s.countError a).failCommand slot c 0x5004 (b.sectorPhys k) 0
    else if !s.liveWord a then stop 0x4004 1
    else
      let w := BitVec.ofNat 64 (leNat (s.hbmRead a 8))
      ((s.hbmWrite a (leBytes 8 (barrierSub w c.word).toNat)).noteRelease a c).finishLoose slot c none none
  | .bchk =>
    if bad then (s.countError a).failCommand slot c 0x5004 (b.sectorPhys k) 0
    else if !s.liveWord a then stop 0x4004 1
    else s.finishLoose slot c (some (BitVec.ofNat 64 (leNat (s.hbmRead a 8)))) none
      (s.acquireFrom slot c.site (wbits c.o2 2 0) (Table.at s.barriers [] (a / 8)))
  | .ucopy =>
    if !c.bad.isEmpty then
      if bad then (s.countError a).failCommand slot c 0x5004 (b.sectorPhys k) 0 else s.putCommand slot { c with buffer := c.buffer ++ [(k, s.hbmRead a n)] }
    else
      let at_ := max b.lo (32 * k) - b.lo
      let bs := (c.chunkBytes.drop at_).take n
      match s.checkWrite a n with
      | .fine => s.hbmWrite a bs
      | .live => stop 0x4004 2
      | .error => (s.countError a).failCommand slot c 0x5004 (b.sectorPhys k) 0
  | _ => s

/-- A sector of a granted access performs; after the last one the command goes on. -/
def State.untimedSector (s : State) (slot : Nat) (c : Command) (k : Nat) : State :=
  match c.need with
  | .block b true =>
    let s := s.looseSector slot c b k
    if b.hi ≤ 32 * k + 32 then
      match (s.domain slot).command c.id with
      | some c' =>
        if c.form = .ucopy ∧ !c'.bad.isEmpty then s.planCommand slot c'.tookPiece
        else if c.form = .ucopy then s.planCommand slot c'.afterChunk
        else s.blockDone slot c'
      | none => s
    else s
  | _ => s

/-! ### Timed gathers and reductions (R241, R243) -/

/-- Physical address of sector q of a timed gather. -/
def State.gatherAddress (s : State) (slot : Nat) (c : Command) (q : Nat) : Xlat :=
  s.translateElement slot c c.o1 (32 * Table.at c.index 0 q) 32 false true

/-- Distinct blocks asked of one bank before and including the q-th request: their locations in order of first request. -/
def requestOrder (locs : Table Nat) (loc : Nat) : List Nat :=
  locs.foldl (fun acc x =>
    if locChannel x.2 = locChannel loc ∧ locBank x.2 = locBank loc ∧ !acc.contains x.2 then acc ++ [x.2] else acc) []

/-- The cycles of a timed gather's sectors: in the k-th claimed rotation each bank serves its k-th distinct block; a sector that has no
translation is found at a claimed rotation that the manual leaves open. -/
def State.scheduleGather (s : State) (slot : Nat) (c : Command) : Table Nat :=
  let found := c.index.filterMap fun (q, _) =>
    match s.gatherAddress slot c q with
    | .ok p => some (q, hbmLoc (ptrSpace c.o1) p)
    | .bad _ => none
  let blocks : Table Nat := found.map fun (q, a) => (q, a / 256 * 256)
  c.index.map fun (q, _) =>
    match Table.find found q with
    | some a =>
      let k := ((requestOrder blocks (a / 256 * 256)).findIdx? (· = a / 256 * 256)).getD 0
      (q, 4 * (16 * claimedRotation c.rot0 k + locBank a) + a / 32 % 8 / 2)
    | none => (q, 64 * claimedRotation c.rot0 (Config.freeNat (c.id + q) % max 1 c.rotCount))

/-- The cycles of a timed reduction: element k is read in claimed rotation 2k and written in rotation 2k + 1. -/
def State.scheduleReduce (s : State) (slot : Nat) (c : Command) : Table Nat :=
  ((List.range (c.args.n c.form)).filter c.hasIndex).flatMap fun k =>
    match s.reduceAddress slot c k with
    | .ok p =>
      let a := hbmLoc (ptrSpace c.o1) p
      let cyc (r : Nat) : Nat := 4 * (16 * claimedRotation c.rot0 r + locBank a) + a / 32 % 8 / 2
      [(2 * k, cyc (2 * k)), (2 * k + 1, cyc (2 * k + 1))]
    | .bad _ => [(2 * k, 64 * claimedRotation c.rot0 (2 * k))]

/-- A sector of a timed gather performs into the buffer. -/
def State.gatherSector (s : State) (slot : Nat) (c : Command) (q : Nat) : State :=
  match s.gatherAddress slot c q with
  | .bad r => s.commandFault slot c 0x4001 (c.o1 + BitVec.ofNat 64 (32 * Table.at c.index 0 q)) r
  | .ok p =>
    let a := hbmLoc (ptrSpace c.o1) p
    if s.hbmBad a then s.sectorFault slot c a (BitVec.ofNat 64 p)
    else s.putCommand slot { c with buffer := Table.put c.buffer (c.indexLines + q) (s.hbmRead a 32) }

/-- An access of a timed reduction: even, the read of element k; odd, its write. A failed translation ends the updates: later
elements are not applied (R243). -/
def State.reduceTimed (s : State) (slot : Nat) (c : Command) (x : Nat) : State :=
  let k := x / 2
  if !c.bad.isEmpty then s
  else match s.reduceAddress slot c k with
    | .bad r =>
      (s.commandFault slot c 0x4001 (c.o1 + BitVec.ofNat 64 (c.args.width * c.elementIndex k)) r).putCommand slot { c with bad := [k] }
    | .ok p =>
      let b := accessBlock (ptrSpace c.o1) p c.args.width
      let a := b.loc + b.lo
      let phys := BitVec.ofNat 64 (p / 32 * 32)
      let key := 2 ^ 20 + k
      if x % 2 = 0 then
        if s.hbmBad a then s.sectorFault slot c a phys
        else s.putCommand slot { c with buffer := Table.put c.buffer key (s.hbmRead a c.args.width) }
      else match Table.find c.buffer key, c.valueBytes k with
        | some old, some v =>
          match s.checkWrite a c.args.width with
          | .fine => s.hbmWrite a (reduceElement c.form c.args.reduceCode old v)
          | w => s.refuseWrite slot c w a phys
        | _, _ => s

/-- An HBM sector performs (R205): of a block sequence, a timed gather or reduction, or a granted access. -/
def execHbmSectorPerform (slot id sector : Nat) (s : State) : Result :=
  .next (match (s.domain slot).command id with
    | none => s
    | some c =>
      if c.phase = .untimed then s.untimedSector slot c sector
      else match c.form with
        | .gath => s.gatherSector slot c sector
        | .radd | .rmin | .rmax => s.reduceTimed slot c sector
        | _ =>
          match c.blocks[sector / 8]? with
          | some b => s.blockSector slot c b (sector / 8) (sector % 8)
          | none => s)

/-! ### SRAM lines (R239 to R243) -/

/-- Line m of block i in its SRAM end: offset and length. -/
def Block.lineSpan (b : Block) (m : Nat) : Nat × Nat :=
  let lo := max b.lo (64 * m)
  (b.place + (lo - b.lo), min b.hi (64 * m + 64) - lo)

/-- Index words of a line of n bytes. -/
def indexWords (g : Nat) (bs : List Byte) : Table Nat :=
  (List.range (bs.length / 4)).map fun j => (16 * g + j, leNat ((bs.drop (4 * j)).take 4))

/-- A timed line: the SRAM place it accesses, and whether it writes; ovl's lines use no bank and have none. -/
def Command.linePlace (c : Command) (line : Nat) : Option (Nat × Nat × Nat × Bool) :=
  let a := c.args
  let n := a.n c.form
  match c.form with
  | .copy | .copy2 => (c.blocks[line / 4]?).map fun b =>
      let (off, len) := b.lineSpan (line % 4)
      (c.owner, off, len, decide (0 < c.split))
  | .gath =>
    if line < c.indexLines then some (c.site, ptrOffset (a.d 0) + 64 * line, 4 * min 16 (n - 16 * line), false)
    else
      let u := line - c.indexLines
      some (c.owner, c.off + 64 * u, 32 * min 2 (n - 2 * u), true)
  | .radd | .rmin | .rmax =>
    if line < c.valueLines then some (c.owner, c.off + 64 * line, min 64 (n * a.width - 64 * line), false)
    else
      let g := line - c.valueLines
      some (c.site, ptrOffset (a.d 1) + 64 * g, 4 * min 16 (n - 16 * g), false)
  | _ => none

/-- The line lost its bank in this cycle (spec/10 R213). -/
def State.lostLineDm (s : State) (id line : Nat) : Bool := s.losers.contains (3, id, line)

/-- The two sectors of a line that are in range, by their keys in the buffer. -/
def Command.lineSectors (c : Command) (line : Nat) : List Nat :=
  match c.form with
  | .gath => (List.range 2).filterMap fun j =>
      let q := 2 * (line - c.indexLines) + j
      if q < c.args.n .gath then some (c.indexLines + q) else none
  | _ =>
    match c.blocks[line / 4]? with
    | some b => (List.range 2).filterMap fun j => let k := 2 * (line % 4) + j; if b.hasSector k then some (8 * (line / 4) + k) else none
    | none => []

/-- The bytes of a line that is written; none when a sector it derives from was not read. -/
def Command.lineBytes (c : Command) (line : Nat) : Option (List Byte) :=
  let xs := (c.lineSectors line).map fun k => Table.find c.buffer k
  if xs.any Option.isNone then none else some (xs.flatMap fun x => x.getD [])

/-- After the last line that a timed gather or reduction reads, the cycles of its sectors are known: of those whose indices could be read
(spec/20 R367). -/
def State.linesRead (s : State) (slot : Nat) (c : Command) (line : Nat) : Command :=
  match c.form with
  | .gath => if line + 1 = c.indexLines then { c with sched := s.scheduleGather slot c } else c
  | .radd | .rmin | .rmax => if line + 1 = c.valueLines + c.indexLines then { c with sched := s.scheduleReduce slot c } else c
  | _ => c

/-- A line brings no data: it lost its bank, or holds an uncorrectable error. The other lines perform (spec/10 R213, spec/20 R367). -/
def State.missLine (s : State) (slot : Nat) (c : Command) (line : Nat) : State := s.putCommand slot (s.linesRead slot c line)

/-- The data of a line that has been read go where its form keeps them. -/
def State.keepLine (s : State) (slot : Nat) (c : Command) (line : Nat) (bs : List Byte) : State :=
  match c.form with
  | .gath => s.missLine slot { c with index := c.index ++ indexWords line bs } line
  | .radd | .rmin | .rmax =>
    s.missLine slot (if line < c.valueLines then { c with buffer := Table.put c.buffer line bs }
      else { c with index := c.index ++ indexWords (line - c.valueLines) bs }) line
  | _ =>
    let keys := c.lineSectors line
    s.putCommand slot { c with buffer := (keys.zipIdx).foldl (fun b (k, j) => Table.put b k ((bs.drop (32 * j)).take 32)) c.buffer }

/-- A line of a folio performs in every tile of the rectangle: bundles issued from the next cycle on hold it. The last one extends the
accession register in its cycle (R240, spec/17 R322, R330). -/
def State.folioLine (s : State) (slot : Nat) (c : Command) (line : Nat) : State :=
  match c.blocks[line / 4]? with
  | none => s
  | some b =>
    let off := (b.lineSpan (line % 4)).1
    let s := match c.lineBytes line with
      | none => s
      | some bs => c.targets.foldl (fun s k => s.istoreLater k off bs) s
    if line = 127 then
      let folio := wbits (c.args.d 0) 3 0
      let image := s.settleStores.readBytes (istoreAddr (c.targets.headD c.site) (8192 * folio)) 8192
      s.extendNow slot (folio != 15) (folioDigest folio image)
    else s

/-- A timed line performs, unless it lost its bank. -/
def State.timedLine (s : State) (slot : Nat) (c : Command) (line : Nat) : State :=
  if c.form = .ovl then s.folioLine slot c line
  else if s.lostLineDm c.id line then s.missLine slot c line
  else match c.linePlace line with
    | none => s
    | some (site, off, len, true) =>
      (match c.lineBytes line with
        | some bs => if bs.length = len then s.sramWrite site off bs else s
        | none => s)
    | some (site, off, len, false) =>
      if s.sramBad site off len then (s.commandFault slot c 0x5001 (BitVec.ofNat 64 (s.badLine site off len)) 0).missLine slot c line else s.keepLine slot c line (s.sramRead site off len)

/-- A read of a loose or untimed command has come: what it does with the bytes. -/
def State.tookLine (s : State) (slot : Nat) (c : Command) (bs : List Byte) : State :=
  match c.form with
  | .gathl => s.planCommand slot { c with progress := c.progress + 1, index := c.index ++ indexWords c.progress bs }
  | .walk => s.planCommand slot { c with work := [c.walkReg 0, 0, 0] ++ (indexWords 0 bs).map (·.2) }
  | .radd | .rmin | .rmax =>
    s.planCommand slot (if c.progress < c.valueLines then { c with buffer := Table.put c.buffer c.progress bs, progress := c.progress + 1 }
      else { c with index := c.index ++ indexWords (c.progress - c.valueLines) bs, progress := c.progress + 1 })
  | _ => s.planCommand slot { c with buffer := c.buffer ++ [(c.got, bs)] }.tookPiece

/-- The bytes of a write of a loose or untimed command, and the command after it. -/
def Command.gaveLine (c : Command) : List Byte × Command :=
  match c.form with
  | .gathl =>
    let u := c.fullLine.getD 0
    ([2 * u, 2 * u + 1].flatMap fun q => (Table.find c.buffer q).getD [], { c with buffer := c.buffer.filter fun x => x.1 / 2 ≠ u })
  | .walk =>
    let c' := { c with index := [] }
    (c.index.flatMap fun x => leBytes 4 x.2, if c.progress = 5 then c' else c'.nextVertex)
  | _ => (c.chunkBytes, c.afterChunk)

/-- An SRAM access of a loose or untimed command, in a cycle in which nothing else uses its bank (R237, spec/10 R197, R200). -/
def State.untimedLine (s : State) (slot : Nat) (c : Command) : State :=
  match c.need with
  | .line write site off len =>
    if s.bankTaken site off len then s
    else
      let s := s.useBanks site off len
      let line := BitVec.ofNat 64 (s.badLine site off len)
      if !write then (if s.sramBad site off len then (if c.form = .walk then s.walkFault else s.failCommand) slot c 0x5001 line 0 else s.tookLine slot c (s.sramRead site off len))
      else if s.sramPartial site off len then s.failCommand slot c 0x5001 line 0
      else
        let (bs, c') := c.gaveLine
        (s.sramWrite site off bs).planCommand slot c'
  | _ => s

/-- An SRAM line of an engine performs (R239 to R243). -/
def execEngineSramLinePerform (slot id line : Nat) (s : State) : Result :=
  .next (match (s.domain slot).command id with
    | some c => if c.phase = .untimed then s.untimedLine slot c else s.timedLine slot c line
    | none => s)

/-! ### Which accesses fall in a cycle -/

/-- Lines of a timed command that perform in cycle t (R239 to R243; notes/assumptions/78.md). -/
def Command.linesAt (c : Command) (t : Nat) : List Nat :=
  let one (from_ count base : Nat) : List Nat := if from_ ≤ t ∧ t < from_ + count then [base + (t - from_)] else []
  match c.form with
  | .copy | .copy2 | .ovl =>
    (c.blocks.zipIdx).flatMap fun (b, i) =>
      let start := if c.split = 0 then c.startAt + 4 * b.u else c.startAt + 132 + c.dt + 4 * b.g
      if start ≤ t ∧ t < start + 4 ∧ b.hasLine (t - start) then [4 * i + (t - start)] else []
  | .gath =>
    one c.startAt c.indexLines 0 ++ one (c.startAt + c.releaseOffset) (ceilDiv (c.args.n .gath) 2) c.indexLines
  | .radd | .rmin | .rmax => one c.startAt (c.valueLines + c.indexLines) 0
  | _ => []

/-- HBM sectors of a timed command that perform in cycle t. -/
def Command.sectorsAt (c : Command) (t : Nat) : List Nat :=
  ((c.blocks.zipIdx).flatMap fun (b, i) =>
      if b.window = t / 4 then ([2 * (t % 4), 2 * (t % 4) + 1].filter b.hasSector).map fun k => 8 * i + k else [])
    ++ (c.sched.filter fun x => x.2 = t).map (·.1)

/-- Sectors of a granted access that perform in cycle t of the stack's time keeper. -/
def Command.grantedAt (c : Command) (t : Nat) : List Nat :=
  match c.need with
  | .block b true => if b.window = t / 4 then [2 * (t % 4), 2 * (t % 4) + 1].filter b.hasSector else []
  | _ => []

/-! ### Replies and untimed copies -/

/-- The oldest awaited reply may land at a cycle. -/
def DmState.landable (d : DmState) (now : Nat) : Bool :=
  match d.replies with
  | r :: _ => r.done && decide (r.due ≤ now)
  | [] => false

/-- The oldest reply lands: q0 and the predicate of its form (R237, R246, R247), and what a bchk has acquired (spec/12 R255). -/
def Tile.landReply (t : Tile) : Tile :=
  match t.dm.replies with
  | r :: rest =>
    if r.done then
      let t := { t with dm := { t.dm with replies := rest, q0 := r.q0.getD t.dm.q0 }, known := t.known ++ r.acquired }
      match r.pred with
      | some (k, b) => t.setPred k b
      | none => t
    else t
  | [] => t

/-- Loose reply landing (R237). -/
def execLooseReplyLanding (site : Nat) (s : State) : Result :=
  .next (match (s.tile site).dm.replies with
    | r :: _ => if r.done then (s.mapTile site Tile.landReply).passAcquired site r.id r.acquired else s
    | [] => s)

/-- The words of a parameter block are valid: the word refused and the reason of its fault (R245). -/
def State.copyBlockFault (s : State) (slot site : Nat) (sup : Bool) (w : List Word) : Option (Word × Nat) :=
  let (src, dst, len, ctl) := (w.getD 0 0, w.getD 1 0, w.getD 2 0, w.getD 3 0)
  let remote : Bool := wbits ctl 31 16 != 0
  let check (p : Word) : Option Nat :=
    match pointerCheck [1, 2, 3, 4, 5, 6, 7, 8, 15] 32 p with
    | some r => some r
    | none =>
      if sramSpaces.contains (ptrSpace p) then
        (match s.resolve slot site sramSpaces p with
          | .bad r => some r
          | .sram _ off => if 2 ^ 20 < off + len.toNat then some 4 else none)
      else none
  match check src with
  | some r => some (src, r)
  | none =>
    match (if remote then pointerCheck [1, 2, 3, 4, 5, 6, 7, 8, 15] 32 dst else check dst) with
    | some r => some (dst, r)
    | none =>
      if len.toNat % 32 ≠ 0 ∨ 2 ^ 40 < len.toNat then some (len, 3)
      else if wbits ctl 15 11 ≠ 0 ∨ wbits ctl 63 32 ≠ 0 then some (ctl, 2)
      else if !sup ∧ 959 < wbits ctl 9 0 then some (ctl, 8)
      else none

/-- The parameter block of an untimed copy has been read at c + 2 (R245). A copy of length 0 completes in that cycle; another
waits for what the tile's fences hold it for, then for a time the manual leaves open. -/
def State.takeCopyBlock (s : State) (slot id : Nat) (w : List Word) : State :=
  match (s.domain slot).command id with
  | none => s
  | some c =>
    let now := (s.domain slot).dcc
    match s.copyBlockFault slot c.site c.supTable w with
    | some (p, r) => s.failCommand slot c 0x4002 p r
    | none =>
      let c := { c with block := w }
      if c.copyLength = 0 then
        match s.statusFault slot c with
        | some (p, r) => s.failCommand slot c 0x2001 p r
        | none => s.putCommand slot { c with phase := .untimed, need := .ending now }
      else
        s.drawn.putCommand slot
          { c with acceptAt := now + 1 + Config.freeNat s.draws, phase := if c.waits.isEmpty then .delivery else .waiting }

/-- The task that issued a copy still runs on its tile: it has started since, and has not ended (R245). -/
def State.taskRuns (s : State) (slot : Nat) (c : Command) : Bool :=
  (s.tile c.site).running && (match (s.domain slot).launch with | some l => l.started && l.id == c.launch | none => false)

/-- A copy's transfer is complete in a tile: its interrupt becomes pending when enabled. -/
def Tile.copyDone (t : Tile) (xfer : Nat) (ctl : Word) : Tile :=
  let t := { t with dm := { t.dm with copies := t.dm.copies.erase xfer } }
  if ctl.getLsbD 10 then { t with irqs := t.irqs ++ [⟨xfer, wbits ctl 9 0⟩] } else t

/-- An untimed copy is complete (R245, R91): the interrupt of a saved context's copy stays pending with it (spec/12 R259), and one
whose task has ended is only archived (spec/22 R388). -/
def State.completeCopy (s : State) (slot : Nat) (c : Command) : State :=
  let xfer := c.work.headD 0
  let ctl := c.copyWord 3
  let u := s.unit slot
  let s := s.dropCommand slot c.id
  let untaken (s : State) : State := if ctl.getLsbD 10 then s.archiveUncore (slot % 16 / 2) slot 0x0B 4 (BitVec.ofNat 64 xfer) 0 else s
  match (u.away.flatMap (·.copies)).find? fun k => k.id == c.id with
  | some k =>
    let put (x : AwayContext) : AwayContext :=
      if x.copies.contains k then { x with copies := x.copies.erase k, ended := x.ended ++ [(k.tile, xfer, if k.halted then 0 else ctl)] } else x
    let s := s.setUnit slot { u with away := u.away.map put }
    if k.halted then untaken s else s
  | none =>
    if s.taskRuns slot c then s.mapTile c.site fun t => t.copyDone xfer ctl
    else untaken (s.mapTile c.site fun t => t.copyDone xfer 0)

/-- A copy has nothing left to do: its end has come, or all its bytes have left for another endpoint, whose report this is. -/
def Command.copyOver (c : Command) (now : Nat) : Bool :=
  match c.need with
  | .ending t => decide (t ≤ now)
  | .nothing => c.phase == .untimed && c.endpoint != 0 && decide (c.copyLength ≤ c.progress)
  | _ => false

/-- Untimed copy completion, or the report of another endpoint that every byte has performed (R245, spec/13 R270). -/
def execUcopyCompletion (site xfer : Nat) (s : State) : Result :=
  .next (match s.slotOf site with
    | none => s
    | some slot =>
      let d := s.domain slot
      match d.commands.find? fun c => c.site == site && c.form == .ucopy && c.work.contains xfer && c.copyOver d.dcc with
      | some c => s.completeCopy slot c
      | none => s)

/-! ### Upkeep within a tick -/

/-- At c + 1 a conv command takes the code table it names (R244, spec/05 R112). -/
def State.takeTables (s : State) (slot : Nat) : State :=
  let now := (s.domain slot).dcc
  s.mapDomain slot fun d =>
    { d with commands := d.commands.map fun c =>
        if c.form = .conv ∧ c.fired + 1 = now then
          { c with codeTable := (s.tile c.site).tables.getD (wbits (c.args.d 1) 16 15) (resetCodeTable 0) }
        else c }

/-- A loose command or copy whose accesses to wait for have performed departs (spec/12 R254); its delay on the catwalk is a free value. -/
def State.departCommands (s : State) (slot : Nat) : State :=
  let now := (s.domain slot).dcc
  let free (c : Command) : Bool := c.phase == .waiting && (c.form != .ucopy || !c.block.isEmpty) && s.departs c.waits
  ((s.domain slot).commands.filter free).foldl (fun s c =>
    s.drawn.putCommand slot
      { c with phase := .delivery, acceptAt := now + (if c.owned then c.di else 0) + 1 + Config.freeNat s.draws }) s

/-- A timed command that is past its busy interval leaves the list. -/
def Domain.sweepCommands (d : Domain) : Domain :=
  { d with commands := d.commands.filter fun c => !(c.phase == .started && decide (c.busyUntil ≤ d.dcc + 1)) }

end Sys2Proof.Machine
end

