-- ==== Sys2Proof/Machine/System.lean ====
section
/-!
DEFINITION. The system socket SY: range tables, accession registers, archive entries, throttle, configuration registers, halt groups,
watchdog, fuses, and the return from the supervisor context (spec/17 R319 to R325, spec/21 R378, R386, spec/23 R403, R405).
-/
namespace Sys2Proof.Machine

/-- A privilege parameter fault with b and o1 (R319, spec/20 R364). -/
def Trig.privilege (g : Trig) (s : State) : State := g.fault s 0x200D g.b (s.tile g.site).sy.o1

/-- A result of SY in q0 after n cycles. -/
def Trig.syResult (g : Trig) (s : State) (n : Nat) (w : Word) : State :=
  s.mapTile g.site fun t => t.launchResult .sy ⟨g.cyc + n, some (.s w), none, 0, false, none⟩

/-- A write that takes effect at c + 1 (R320). -/
def State.slotWrite (s : State) (slot : Nat) (w : SlotWrite) : State := s.mapDomain slot fun d => { d with writes := d.writes ++ [w] }

/-! ### The return (R320, R378, R386, R405) -/

/-- A tile halted by a halt group leaves its supervisor context loose (R386, R369). -/
def Tile.leaveGroupHalt (t : Tile) : Tile := { t.leaveSupervisor with groupHalted := false, loose := true }

/-- RETURN FROM EXCEPTION: eret clears the record's V and marks the tile ready; the domain resumes when every tile is (R378). A tile
halted by a halt group returns at once; in boot state the leader's eret asks for boot's end, and another tile's wedges it. -/
def fireEret (g : Trig) (s : State) : State :=
  let d := s.domain g.slot
  let t := s.tile g.site
  let ready (t : Tile) : Tile := { t.clearRecord with ready := true }
  if g.b ≠ 0 then g.privilege s
  else if d.boot then
    if g.site % 1056 = 0 then
      let die := siteDie g.site
      (s.mapTile g.site ready).setDie die { s.die die with leaderDone := true }
    else s.wedge g.slot g.site 0x200D
  else if !t.inSup then g.privilege s
  else if d.frozen then s.mapTile g.site ready
  else if t.groupHalted then s.mapTile g.site fun t => t.clearRecord.leaveGroupHalt
  else g.privilege s

/-! ### Range tables (R321) -/

/-- Table and entry of o1. -/
def rangeIndex (o1 : Word) : Option (Bool × Nat) :=
  if o1.toNat < 128 then some (o1.getLsbD 6, o1.toNat % 64) else none

/-- The checks of an entry before it is written. -/
def State.rangeEntryOk (s : State) (slot : Nat) (w0 w1 : Word) : Bool :=
  let e := (w0, w1)
  let reserved : Bool := wbits w0 56 48 != 0 || wbits w0 20 0 != 0 || wbits w1 63 62 != 0 || wbits w1 41 41 != 0 || wbits w1 20 0 != 0
  !reserved && (!entryValid e ||
    (decide (entryBase e + entrySize e ≤ 2 ^ 48) && decide (entryPhys e + entrySize e ≤ 2 ^ 41) &&
      (stacksOf (entryPhys e) (entrySize e)).all fun k => s.stackInPartition slot k))

def fireRngw (g : Trig) (s : State) : State :=
  let t := s.tile g.site
  match rangeIndex t.sy.o1 with
  | some (sup, e) => if s.rangeEntryOk g.slot g.b t.sy.o2 then s.slotWrite g.slot (.range sup e g.b t.sy.o2) else g.privilege s
  | none => g.privilege s

def fireRngr (g : Trig) (s : State) : State :=
  match rangeIndex (s.tile g.site).sy.o1 with
  | some (sup, e) =>
    if 2 ≤ g.b.toNat then g.privilege s
    else
      let x := (s.rangeTable g.slot sup).getD e (0, 0)
      g.syResult s 1 (if g.b = 0 then x.1 else x.2)
  | none => g.privilege s

def fireRngi (g : Trig) (s : State) : State :=
  let o1 := (s.tile g.site).sy.o1
  if 2 ≤ o1.toNat then g.privilege s else s.slotWrite g.slot (.invalidate (o1 == 1) g.b)

/-- Clear V in the entries of a mask. -/
def invalidateEntries (t : Vector (Word × Word) 64) (mask : Word) : Vector (Word × Word) 64 :=
  Vector.ofFn fun k => let e := t.getD k.val (0, 0); if mask.getLsbD k.val then (e.1 &&& 0x7FFFFFFFFFFFFFFF#64, e.2) else e

/-! ### Accession registers (R322) -/

/-- A timed local read of SY: the word of its pointer must be local and aligned (R322, R323). -/
def Trig.localRead (g : Trig) (s : State) (align len : Nat) (use : BlockUse) : State :=
  match pointerCheck [1] align g.b with
  | some r => g.fault s 0x2001 g.b (BitVec.ofNat 64 r)
  | none =>
    if 2 ^ 20 < ptrOffset g.b + len then g.fault s 0x2001 g.b 4
    else
      let block : BlockRead := ⟨s.nextId, g.cyc + 2, ptrOffset g.b, len, use, g.from_⟩
      let hold : Bool := match use with | .accx _ => true | _ => false
      s.fresh.mapTile g.site fun t =>
        { t with blocks := t.blocks ++ [block], sy := if hold then { t.sy with accxReadyAt := g.cyc + 40 } else t.sy }

def fireAccx (g : Trig) (s : State) : State :=
  let n := (s.tile g.site).sy.o1.toNat
  if 2 ≤ n then g.privilege s
  else g.localRead s 64 64 (.accx n)

/-- Accession register n as a slot sees it. -/
def State.accession (s : State) (slot n : Nat) : BitVec 512 :=
  match n with
  | 0 => (s.unit slot).accU
  | 1 => (s.unit slot).accS
  | 2 => s.mmc.ap
  | n => s.mmc.af.getD (n - 3) 0

def fireAccr (g : Trig) (s : State) : State :=
  let n := (s.tile g.site).sy.o1.toNat
  if 7 ≤ n ∨ 8 ≤ g.b.toNat then g.privilege s
  else g.syResult s 1 ((s.accession g.slot n).extractLsb' (64 * g.b.toNat) 64)

/-- The data of an accx have been read: the extension is visible from c + 40, two cycles of which have passed. -/
def State.extendFrom (s : State) (slot site n : Nat) (bs : List Byte) : State :=
  s.mapDomain slot fun d => { d with extensions := d.extensions ++ [⟨d.pulses + 38, n == 0, s.flat slot site, bs⟩] }

/-- The extensions by accx that take effect at this pulse, in the order of their tiles, before its folio fills (R322). -/
def State.applyExtensions (s : State) (slot : Nat) : State :=
  let d := s.domain slot
  let due := sortBy (fun (a b : Extension) => decide (a.order < b.order)) (d.extensions.filter fun e => e.due ≤ d.pulses)
  if due.isEmpty then s
  else (due.foldl (fun s e => s.extendNow slot e.user e.data) s).mapDomain slot fun d =>
    { d with extensions := d.extensions.filter fun e => !decide (e.due ≤ d.pulses) }

/-! ### Archive entry, throttle (R323) -/

def fireArcw (g : Trig) (s : State) : State := g.localRead s 8 24 .arcw

/-- The 24 bytes of an arcw have been read: a software entry stamped with the DCC at c (R323, spec/22 R388). -/
def State.softwareEntry (s : State) (slot site cycle : Nat) (bs : List Byte) : State :=
  let die := siteDie site
  let w (i n : Nat) : Nat := leNat ((bs.drop i).take n)
  let boot := (s.domain slot).boot
  let e : ArchiveEvent := ⟨if boot then (s.die die).refCycles * 6 else cycle, slot % 16,
    siteRow site * 32 + (s.logicalCol site).getD 0, boot, false, 0x0A, w 0 4, BitVec.ofNat 64 (w 8 8), BitVec.ofNat 64 (w 16 8)⟩
  s.setDie die ((s.die die).archive (if Config.checkpointMark (w 4 4) then { e with kind := 0x11, code := 3, w2 := 0, w3 := 0 } else e))

/-- thr: a pending change replaces an earlier one; a module of a multi-module domain announces it in a beacon flit, at least 2 048 cycles
ahead (spec/13 R266). -/
def fireThr (g : Trig) (s : State) : State :=
  let d := s.domain g.slot
  let k := (s.tile g.site).sy.o1.toNat
  let lead := if d.spec.cls = .multi then 2048 else 64
  -- the DCC named, in the domain's own count
  let x := (g.b.toNat + d.sigma) % 2 ^ 64
  if 16 < k ∨ x < d.dcc + lead then g.privilege s else (s.mapDomain g.slot fun d => { d with throttleNext := some (x, k) }).announce g.slot fun b => { b with throttle := some (x, k) }

/-! ### Configuration registers (R324) -/

/-- The address is listed. -/
def configListed (a : Word) : Bool := decide (a.toNat < 4) || (decide (0x100 ≤ a.toNat) && decide (a.toNat ≤ 0x1FF))

/-- A configuration register. -/
def LaunchUnit.config (u : LaunchUnit) (a : Nat) : Word :=
  match a with
  | 0 => u.limits
  | 1 => u.maxBeats
  | 2 => u.debugEnable
  | 3 => u.profile
  | a => Table.at u.mailbox 0 (a - 0x100)

def LaunchUnit.setConfig (u : LaunchUnit) (a : Nat) (v : Word) : LaunchUnit :=
  match a with
  | 0 => { u with limits := v }
  | 1 => { u with maxBeats := v }
  | 2 => { u with debugEnable := v }
  | 3 => { u with profile := v }
  | a => { u with mailbox := Table.put u.mailbox (a - 0x100) v }

/-- A value is in its register's range; a valid mailbox entry names a tile of the partition, and bit 0 of a profile mask is set in every
context (spec/02 R53; notes/assumptions/98.md). -/
def State.configOk (s : State) (slot : Nat) (a v : Word) : Bool :=
  match a.toNat with
  | 0 => !outside v 0x3F3F3F#64
  | 1 => decide (1 ≤ v.toNat) && decide (v.toNat < 2 ^ 20)
  | 2 => !outside v 3
  | 3 => v == 1
  | _ =>
    !outside v 0x8000000000001FFF#64 &&
      (!v.getLsbD 63 || (match s.partitionOf slot with
        | some p => s.partitionOfIsland (2 * wbits v 12 10 + wbits v 9 5 / 16) == some p
        | none => false))

def fireCfgr (g : Trig) (s : State) : State :=
  if configListed g.b then g.syResult s 1 ((s.unit g.slot).config g.b.toNat) else g.privilege s

def fireCfgw (g : Trig) (s : State) : State :=
  let a := (s.tile g.site).sy.o1
  if configListed a && s.configOk g.slot a g.b then s.slotWrite g.slot (.config a.toNat g.b) else g.privilege s

/-! ### Halt groups (R386) -/

def fireHgrp (g : Trig) (s : State) : State :=
  if outside g.b 0x10F#64 then g.privilege s else s.slotWrite g.slot (.group g.site (wbits g.b 3 0) (g.b.getLsbD 8))

/-- Raise halt groups of a partition: each member halts within 64 cycles, at a cycle the manual leaves open. -/
def State.raiseGroups (s : State) (partition : Option Nat) (mask : BitVec 16) : State :=
  let slots := (s.domains.map (·.1)).filter fun k => k < 16 ∧ s.partitionOf k = partition
  slots.foldl (fun s k =>
    (s.domainSites k).foldl (fun s site =>
      if (s.tile site).groups &&& mask ≠ 0 then
        let at_ := (s.domain k).pulses + 1 + s.draw 64
        s.drawn.mapTile site fun t => { t with groupHaltAt := t.groupHaltAt ++ [at_] }
      else s) s) s

def fireXtrig (g : Trig) (s : State) : State :=
  if outside g.b 0xFFFF#64 then g.privilege s else s.raiseGroups (s.partitionOf g.slot) (g.b.setWidth 16)

/-! ### Watchdog, fuses -/

def fireWdog (g : Trig) (s : State) : State := if 2 ^ 32 ≤ g.b.toNat then g.privilege s else s.slotWrite g.slot (.watchdog g.b.toNat)

/-- Fuse words 40 to 63 are unassigned and read as zero (R325). -/
def State.fuse (s : State) (i : Nat) : Word := if 40 ≤ i then 0 else s.mmc.fuses.getD i 0

def fireFusr (g : Trig) (s : State) : State := if 64 ≤ g.b.toNat then g.privilege s else g.syResult s 4 (s.fuse g.b.toNat)

/-! ### Writes that take effect at the next pulse -/

/-- Apply one write of R320. -/
def State.applyWrite (s : State) (slot : Nat) : SlotWrite → State
  | .range sup e w0 w1 =>
    let u := s.unit slot
    s.setUnit slot (if sup then { u with supRange := u.supRange.setIfInBounds e (w0, w1) } else { u with userRange := u.userRange.setIfInBounds e (w0, w1) })
  | .invalidate sup mask =>
    let u := s.unit slot
    s.setUnit slot (if sup then { u with supRange := invalidateEntries u.supRange mask } else { u with userRange := invalidateEntries u.userRange mask })
  | .config a v => s.setUnit slot ((s.unit slot).setConfig a v)
  | .watchdog n => s.mapDomain slot fun d => { d with pier := { d.pier with watchdog := n } }
  | .group site k join =>
    s.mapTile site fun t => { t with groups := if join then t.groups ||| (1#16 <<< k) else t.groups &&& ~~~(1#16 <<< k) }

/-- Apply the writes that wait, in order. -/
def State.applyWrites (s : State) (slot : Nat) : State :=
  let ws := (s.domain slot).writes
  if ws.isEmpty then s
  else ws.foldl (fun s w => s.applyWrite slot w) (s.mapDomain slot fun d => { d with writes := [] })

/-- `eret` (R320). -/
def execSyEret (s : State) : Result := .next (s.trigger [.sy] fireEret)

/-- `rngw` (R321). -/
def execSyRngw (s : State) : Result := .next (s.trigger [.sy] fireRngw)

/-- `rngr` (R321). -/
def execSyRngr (s : State) : Result := .next (s.trigger [.sy] fireRngr)

/-- `rngi` (R321). -/
def execSyRngi (s : State) : Result := .next (s.trigger [.sy] fireRngi)

/-- `accx` (R322). -/
def execSyAccx (s : State) : Result := .next (s.trigger [.sy] fireAccx)

/-- `accr` (R322). -/
def execSyAccr (s : State) : Result := .next (s.trigger [.sy] fireAccr)

/-- `arcw` (R323). -/
def execSyArcw (s : State) : Result := .next (s.trigger [.sy] fireArcw)

/-- `thr` (R323). -/
def execSyThr (s : State) : Result := .next (s.trigger [.sy] fireThr)

/-- `cfgr` (R324). -/
def execSyCfgr (s : State) : Result := .next (s.trigger [.sy] fireCfgr)

/-- `cfgw` (R324). -/
def execSyCfgw (s : State) : Result := .next (s.trigger [.sy] fireCfgw)

/-- `hgrp` (R386). -/
def execSyHgrp (s : State) : Result := .next (s.trigger [.sy] fireHgrp)

/-- `xtrig` (R386). -/
def execSyXtrig (s : State) : Result := .next (s.trigger [.sy] fireXtrig)

/-- `wdog` (R306). -/
def execSyWdog (s : State) : Result := .next (s.trigger [.sy] fireWdog)

/-- `fusr` (R325). -/
def execSyFusr (s : State) : Result := .next (s.trigger [.sy] fireFusr)

end Sys2Proof.Machine
end

