-- ==== Sys2Proof/Machine/Banks.lean ====
section
/-!
DEFINITION. How timed accesses perform: the requesters of a cycle and their bank collisions (spec/10 R197, R213), the accesses of
LA and LB with their atomics and strided groups (spec/04 R97 to R102), the reach network (R99), code-table writes (R103), and the
timed local reads of accx, arcw, SV.arm and ucopy.
-/
namespace Sys2Proof.Machine

/-! ### Banks (R197) -/

/-- A requester of one SRAM: its kind (spec/20 R364), whose tile it acts in, its rank, its span, the keys it is known by. -/
structure Requester where
  kind : Nat
  owner : Nat
  site : Nat
  flat : Nat
  fired : Nat
  sub : Nat
  off : Nat
  len : Nat
  all : Bool
  key : Nat × Nat × Nat
  from_ : Origin
  deriving DecidableEq, Repr

def Requester.banks (r : Requester) : List Nat := if r.all then List.range 16 else banksOf r.off r.len

/-- Line of the span that lies in a bank. -/
def Requester.lineIn (r : Requester) (bank : Nat) : Nat := r.off / 64 + (bank + 16 - r.off / 64 % 16) % 16

/-- The total order of R213. -/
def Requester.before (a b : Requester) : Bool :=
  if a.kind ≠ b.kind then decide (a.kind < b.kind)
  else if a.flat ≠ b.flat then decide (a.flat < b.flat)
  else if a.fired ≠ b.fired then decide (a.fired < b.fired)
  else decide (a.sub < b.sub)

/-- Two requesters meet in a bank, and do not count as one: MX fetches of one line do (R213). -/
def Requester.clash (a b : Requester) (bank : Nat) : Bool :=
  a.banks.contains bank && b.banks.contains bank && !(a.kind == 4 && b.kind == 4 && a.lineIn bank == b.lineIn bank)

def Requester.meets (a b : Requester) : Bool := (List.range 16).any fun k => a.clash b k

/-- Taken in rank order, a requester performs when none of its banks has been given to an earlier one (R213). -/
def performers : List Requester → List Requester → List Requester
  | given, [] => given
  | given, r :: rs => performers (if given.any fun g => g.meets r then given else given ++ [r]) rs

/-! ### The requesters of a cycle -/

/-- The clock that the captured sockets' present state counts in, and that of the shadow's (spec/21 R372, R374). -/
def State.capClock (s : State) (slot : Nat) (t : Tile) : Nat := if t.inSup then (s.domain slot).pulses else (s.domain slot).dcc
def State.shadowClock (s : State) (slot : Nat) (t : Tile) : Nat := if t.inSup then (s.domain slot).dcc else (s.domain slot).pulses

/-- The shadow's accesses run on: those of a user context halted alone, and those of a supervisor context that has returned. -/
def State.shadowRuns (s : State) (slot : Nat) (t : Tile) : Bool := !t.inSup || !(s.domain slot).frozen

/-- An access performs a group in this cycle. -/
def Access.due (a : Access) (now : Nat) : Bool := a.pending && decide (a.performAt ≤ now)

/-- Local accesses of a tile that perform now. -/
def State.localDue (s : State) (slot site : Nat) : List Access :=
  let t := s.tile site
  let cap := (t.cap.la.local_ ++ t.cap.lb.local_).filter fun a => a.due (s.capClock slot t)
  let valid (c : Captured) (q : Sock) : List Access := keepValid (c.ls q).local_ (c.pipe q).invalid
  let sh := (valid t.shadow .la ++ valid t.shadow .lb).filter fun a => a.due (s.shadowClock slot t)
  cap ++ (if s.shadowRuns slot t then sh else [])

/-- Remote accesses whose request is at their owner now. -/
def State.remoteDue (s : State) (slot : Nat) : List Access :=
  let d := s.domain slot
  if d.frozen then [] else (d.reach.map (·.access)).filter fun a => a.due d.dcc

/-- The cycle a timed local read outside LA and LB counts in. -/
def BlockRead.clock (b : BlockRead) (d : Domain) : Nat :=
  match b.use with
  | .accx _ | .arcw => d.pulses
  | .arm _ | .ucopy _ => d.dcc

def State.blocksDue (s : State) (slot site : Nat) : List BlockRead :=
  let d := s.domain slot
  (s.tile site).blocks.filter fun b => decide (b.due ≤ b.clock d) && (!d.frozen || (match b.use with | .accx _ | .arcw => true | _ => false))

/-- The requester of an access. -/
def State.accessRequester (s : State) (slot : Nat) (a : Access) : Requester :=
  let kind := if a.port = .la then 0 else 1
  ⟨kind, a.owner, a.site, s.flat slot a.site, a.from_.cycle, a.group, a.off, a.op.width, a.op.strided, (kind, a.id, 0), a.from_⟩

/-- The requesters of a domain in this cycle (R213); the block of a ucopy counts as a read of kind LA (notes/assumptions/77.md). -/
def State.requesters (s : State) (slot : Nat) : List Requester :=
  let d := s.domain slot
  let sites := s.domainSites slot
  let now := d.dcc
  let ls := (sites.flatMap fun k => s.localDue slot k) ++ s.remoteDue slot
  let blocks := sites.flatMap fun k => (s.blocksDue slot k).map fun b =>
    (⟨0, k, k, s.flat slot k, b.from_.cycle, 100, b.off, b.len, false, (0, b.id, 0), b.from_⟩ : Requester)
  let rest : List Requester := if d.frozen then [] else
    let deposits := (d.mesh.filter fun it => it.payload.reg.isNone && it.hop == s.itemHops slot it + 1 && s.landCycle slot it == now).map fun it =>
      (⟨2, it.dst, it.src, s.flat slot it.src, it.fired, 0, it.payload.off, it.payload.bytes.length, false, (2, it.id, 0), it.from_⟩ : Requester)
    let dm := d.commands.flatMap fun c =>
      if c.phase = .started then (c.linesAt now).filterMap fun l => (c.linePlace l).map fun (site, off, len, _) =>
        (⟨3, site, c.site, s.flat slot c.site, c.fired, l, off, len, false, (3, c.id, l), c.from_⟩ : Requester)
      else []
    let mx := sites.flatMap fun k => lineKinds.filterMap fun kind =>
      match (s.tile k).mx.line now kind with
      | some (i, p) =>
        match s.lineTarget slot k p with
        | some (owner, off) =>
          ((s.tile k).mx.routines[i]?).map fun r =>
            (⟨4, owner, k, s.flat slot k, r.fired, kind, off, p.bytes, false, (4, k, kind), r.from_⟩ : Requester)
        | none => none
      | none => none
    let ep := sites.filterMap fun k =>
      ((s.tile k).ep.writing now).map fun (dr, i) =>
        (⟨5, k, k, s.flat slot k, dr.fired, i, ptrOffset (dr.linePtr i), (dr.lineData i).1.length, false, (5, k, 0), dr.from_⟩ : Requester)
    deposits ++ dm ++ mx ++ ep
  ls.map (s.accessRequester slot) ++ blocks ++ rest

/-! ### Settling (R213) -/

/-- The requester words of a collision: up to seven, fetches that count as one named once (spec/20 R364). -/
def State.requesterWords (site : Nat) (rs won : List Requester) : List Word :=
  (rs.take 7).map fun r =>
    requesterWord r.kind (won.any fun w => w.key == r.key) (r.site == site) r.flat r.from_.slot r.from_.bundle

/-- Fetches of the same lines count as one requester. -/
def distinctRequesters (l : List Requester) : List Requester :=
  l.foldl (init := []) fun acc r =>
    if acc.any fun x => x.kind == 4 && r.kind == 4 && x.off / 64 == r.off / 64 && x.banks == r.banks then acc else acc ++ [r]

/-- The collision of one owner's cycle: the lowest bank in which requesters meet, the line of its first-ranked requester, of a strided one that of
its pointer (notes/assumptions/45.md), and the requesters in rank order. -/
def State.collide (s : State) (slot owner : Nat) (rs won : List Requester) : State :=
  match (List.range 16).find? fun b => rs.any fun x => rs.any fun y => x.key != y.key && x.clash y b with
  | none => s
  | some b =>
    let met := rs.filter fun x => rs.any fun y => x.key != y.key && x.meets y
    let one := distinctRequesters met
    let line := ((one.find? fun x => x.banks.contains b).map fun x => if x.all then x.off / 64 else x.lineIn b).getD 0
    let w7 := BitVec.ofNat 64 (b * 2 ^ 32 + 64 * (line % 2 ^ 14))
    s.raiseValue slot owner { Origin.none with sup := (s.domain slot).frozen } 0x3006 0 w7 (BitVec.ofNat 64 one.length)
      (State.requesterWords owner one won)

/-- Settle the banks of a domain for this cycle: the losers perform nothing; each owner with a collision detects it; untimed accesses
wait for the banks that are in use (R197, R200). -/
def State.settleBanks (s : State) (slot : Nat) : State :=
  let rs := sortBy Requester.before (s.requesters slot)
  let s := { s with taken := s.taken ++ rs.flatMap fun r => r.banks.map fun b => (r.owner, b) }
  let owners := (rs.map (·.owner)).eraseDups
  owners.foldl (fun s owner =>
    let here := rs.filter fun r => r.owner = owner
    let won := performers [] here
    let lost := (here.filter fun r => !(won.any fun w => w.key == r.key)).map (·.key)
    { s with losers := s.losers ++ lost }.collide slot owner here won) s

/-! ### An access performs (R97 to R102) -/

/-- The offset of lane i. -/
def Access.laneOff (a : Access) (i : Nat) : Nat :=
  if a.op.strided then ((a.off : Int) + (a.offsets.lane i).toInt).toNat else a.off + 4 * i

/-- The enabled lanes of the present group, or of a whole vector. -/
def Access.groupLanes (a : Access) : List Nat :=
  (List.range 64).filter fun i => a.mask.getLsbD i && (!a.op.strided || i / 16 == a.group)

/-- The spans of bytes that the present group reads or writes. -/
def Access.spans (a : Access) : List (Nat × Nat) :=
  if a.op.masked then a.groupLanes.map fun i => (a.laneOff i, 4) else [(a.off, a.op.width)]

/-- New value of an atomic (R102). -/
def atomicValue (sel : Nat) (old b : Word) : Word :=
  match sel with
  | 0 => old + b
  | 1 => if b.slt old then b else old
  | 2 => if old.slt b then b else old
  | 3 => b
  | _ => if old = b &&& 0xFFFFFFFF#64 then b >>> 32 else old

/-- The old value an atomic has read stands in lanes 2 and 3, its operand in lanes 0 and 1. -/
def Access.operand (a : Access) : Word := a.data.lane 1 ++ a.data.lane 0
def Access.oldValue (a : Access) : Word := a.data.lane 3 ++ a.data.lane 2
def Access.keepOld (a : Access) (w : Word) : Access :=
  { a with data := (a.data.setIfInBounds 2 (w.extractLsb' 0 32)).setIfInBounds 3 (w.extractLsb' 32 32) }

/-- What an access lands: the lanes read, or the old value of an atomic. -/
def Access.landed (a : Access) : Vec := if a.op.isAmo then scalarVec a.oldValue else a.data

/-- After a group: the next one, or no more. -/
def Access.advance (a : Access) : Access :=
  if a.group + 1 < a.groups then { a with group := a.group + 1, performAt := a.performAt + 1 } else { a with pending := false }

/-- A group that lost its bank performs nothing; an atomic that has lost its read never writes (R98). -/
def Access.lose (a : Access) : Access := if a.op.isAmo then { a with pending := false } else a.advance

/-- Read the bytes of the present group into the lanes. -/
def State.readGroup (s : State) (a : Access) : Access :=
  match a.op with
  | .load n => { a with data := scalarVec (BitVec.ofNat 64 (leNat (s.sramRead a.owner a.off n))) }
  | .amo _ => a.keepOld (BitVec.ofNat 64 (leNat (s.sramRead a.owner a.off a.op.width)))
  | _ =>
    { a with data := a.groupLanes.foldl (fun v i => v.setIfInBounds i (BitVec.ofNat 32 (leNat (s.sramRead a.owner (a.laneOff i) 4)))) a.data }

/-- The enabled lanes of a vector store as spans: both lanes of an 8-byte word together where both are enabled. -/
def Access.pieces (a : Access) : List (Nat × List Byte) :=
  (List.range 32).filterMap fun j =>
    let bytes (i : Nat) : List Byte := leBytes 4 (a.data.lane i).toNat
    match a.mask.getLsbD (2 * j), a.mask.getLsbD (2 * j + 1) with
    | true, true => some (a.off + 8 * j, bytes (2 * j) ++ bytes (2 * j + 1))
    | true, false => some (a.off + 8 * j, bytes (2 * j))
    | false, true => some (a.off + 8 * j + 4, bytes (2 * j + 1))
    | false, false => none

/-- Write the bytes of the present group; one that covers part of a word in error does not perform (spec/20 R368). -/
def State.writeGroup (s : State) (slot : Nat) (a : Access) : State :=
  let put (s : State) (off : Nat) (bs : List Byte) : State :=
    if s.sramPartial a.owner off bs.length then s.partialFault slot a.site a.from_ off else s.sramWrite a.owner off bs
  match a.op with
  | .store n => put s a.off (leBytes n a.operand.toNat)
  | .amo k => put s a.off (leBytes a.op.width (atomicValue k a.oldValue a.operand).toNat)
  | .storeV =>
    -- the enabled lanes are one unit: all of them are written, or none (R198)
    match a.pieces.find? fun x => s.sramPartial a.owner x.1 x.2.length with
    | some x => s.partialFault slot a.site a.from_ x.1
    | none => a.pieces.foldl (fun s x => s.sramWrite a.owner x.1 x.2) s
  | _ => a.groupLanes.foldl (fun s i => put s (a.laneOff i) (leBytes 4 (a.data.lane i).toNat)) s

/-- The present group reads: a load's, or the first half of an atomic. -/
def Access.reads (a : Access) : Bool := a.op.isLoad || (a.op.isAmo && a.group == 0)

/-- One group of an access performs: the state, and the access after it; none when nothing of it remains. An uncorrectable error in
a byte read leaves nothing to land (spec/20 R367). -/
def State.performGroup (s : State) (slot : Nat) (a : Access) (lost : Bool) : State × Option Access :=
  let keep (a : Access) : Option Access := if a.pending || a.landAt.isSome then some a else none
  if lost then (s, keep a.lose)
  else if a.reads then
    match a.spans.find? fun x => s.sramBad a.owner x.1 x.2 with
    | some x => (s.raise slot a.site a.from_ 0x5001 (BitVec.ofNat 64 (s.badLine a.owner x.1 x.2)) 0 [], none)
    | none => (s, keep ((s.readGroup a).advance))
  else (s.writeGroup slot a, keep a.advance)

/-- Replace, or remove, an access in a list. -/
def putAccess (l : List Access) (id : Nat) (a : Option Access) : List Access :=
  l.filterMap fun x => if x.id = id then a else some x

def Captured.putLocal (c : Captured) (q : Sock) (id : Nat) (a : Option Access) : Captured :=
  c.setLs q { c.ls q with local_ := putAccess (c.ls q).local_ id a }

/-- The local access with an identifier, and whether it stands in the shadow. -/
def Tile.localAccess (t : Tile) (id : Nat) : Option (Access × Bool) :=
  match (t.cap.la.local_ ++ t.cap.lb.local_).find? fun a => a.id == id with
  | some a => some (a, false)
  | none => ((t.shadow.la.local_ ++ t.shadow.lb.local_).find? fun a => a.id == id).map fun a => (a, true)

def State.lostAccess (s : State) (a : Access) : Bool := s.losers.contains (if a.port = .la then 0 else 1, a.id, 0)

/-- A local access performs. -/
def State.performLocal (s : State) (slot site : Nat) (a : Access) (inShadow : Bool) : State :=
  let (s, b) := s.performGroup slot a (s.lostAccess a)
  s.mapTile site fun t =>
    if inShadow then { t with shadow := t.shadow.putLocal a.port.sock a.id b } else { t with cap := t.cap.putLocal a.port.sock a.id b }

/-- A remote access performs; the reply of a load or atomic in domain space starts on its way (R99). -/
def State.performRemote (s : State) (slot : Nat) (r : ReachItem) : State :=
  let a := r.access
  let p := (s.domain slot).dcc
  let replies : Bool := a.op.lands && ptrSpace a.pointer != 2 && a.reads
  let (s, b) := s.performGroup slot a (s.lostAccess a)
  s.mapDomain slot fun d =>
    { d with reach := d.reach.filterMap fun x =>
        if x.id ≠ r.id then some x
        else b.map fun b => if replies then { x with access := b, reply := true, hop := 0, from0 := p - 1 } else { x with access := b } }

/-! ### Timed local reads of SY, SV.arm and ucopy (R213) -/

/-- An arm whose image cannot be read sends nothing. -/
def State.dropRequest (s : State) (site id : Nat) : State :=
  let s := { s with requests := s.requests.filter fun m => m.id ≠ id }.forgetOwed fun o => o.id == id && !o.desk
  s.mapTile site fun t => { t with sv := { t.sv with sendBuffer := t.sv.sendBuffer.filter fun k => k ≠ id } }

/-- The image of an arm goes into its message. -/
def State.fillImage (s : State) (id : Nat) (ws : List Word) : State :=
  { s with requests := s.requests.map fun m =>
      if m.id = id then
        match m.request with
        | .arm tag _ => { m with request := .arm tag ws }
        | _ => m
      else m }

/-- The words of a block. -/
def blockWords (bs : List Byte) : List Word :=
  (List.range (bs.length / 8)).map fun i => BitVec.ofNat 64 (leNat ((bs.drop (8 * i)).take 8))

/-- A timed local read performs and its data go to their use. -/
def State.performBlock (s : State) (slot site : Nat) (b : BlockRead) : State :=
  let s := s.mapTile site fun t => { t with blocks := t.blocks.filter fun x => x.id ≠ b.id }
  let bad := s.sramBad site b.off b.len
  let bs := s.sramRead site b.off b.len
  if s.losers.contains (0, b.id, 0) || bad then
    -- ucopy's read is a command's: the record has its copy (spec/20 R364)
    let copy := match b.use with | .ucopy id => (((s.domain slot).command id).map Command.copy).getD [] | _ => []
    let s := if bad then s.raise slot site b.from_ 0x5001 (BitVec.ofNat 64 (s.badLine site b.off b.len)) 0 copy else s
    match b.use with
    | .arm m => s.dropRequest site m
    | .ucopy id => (match (s.domain slot).command id with | some c => s.stopCommand slot c | none => s)
    | _ => s
  else match b.use with
    | .accx n => s.extendFrom slot site n bs
    | .arcw => s.softwareEntry slot site b.from_.cycle bs
    | .arm m => s.fillImage m (blockWords bs)
    | .ucopy id => s.takeCopyBlock slot id (blockWords bs)

/-- A load, store, atomic or timed local read performs in its bank (R97 to R102, R213). -/
def execAccessPerform (site id : Nat) (s : State) : Result :=
  .next (match s.slotOf site with
    | none => s
    | some slot =>
      match (s.tile site).localAccess id with
      | some (a, sh) => s.performLocal slot site a sh
      | none =>
        match (s.domain slot).reach.find? fun r => r.id == id with
        | some r => s.performRemote slot r
        | none =>
          match (s.tile site).blocks.find? fun b => b.id == id with
          | some b => s.performBlock slot site b
          | none => s)

/-! ### Code tables (R103) -/

/-- Put an entry into a code table. -/
def Tile.putEntry (t : Tile) (w : TableWrite) : Tile :=
  { t with tables := t.tables.setIfInBounds w.table ((t.tables.getD w.table (.replicate 256 0)).setIfInBounds w.entry w.value) }

def LsState.dropWrite (x : LsState) (id : Nat) : LsState := { x with tableWrites := x.tableWrites.filter fun w => w.id ≠ id }

def Captured.dropWrite (c : Captured) (id : Nat) : Captured := { c with la := c.la.dropWrite id, lb := c.lb.dropWrite id }
def Captured.tableWrites (c : Captured) : List TableWrite := c.la.tableWrites ++ c.lb.tableWrites

/-- Table writes of a tile due now. -/
def State.tableWritesDue (s : State) (slot site : Nat) : List TableWrite :=
  let t := s.tile site
  (t.cap.tableWrites.filter fun w => w.due ≤ s.capClock slot t) ++
    (if s.shadowRuns slot t then t.shadow.tableWrites.filter fun w => w.due ≤ s.shadowClock slot t else [])

/-- A tblw performs (R103). -/
def execTableWritePerform (site id : Nat) (s : State) : Result :=
  .next (s.mapTile site fun t =>
    match (t.cap.tableWrites ++ t.shadow.tableWrites).find? fun w => w.id == id with
    | some w => ({ t with cap := t.cap.dropWrite id, shadow := t.shadow.dropWrite id }).putEntry w
    | none => t)

/-! ### The reach network (R99) -/

/-- Both ends of the route an item is on: request or reply. -/
def State.reachEnds (s : State) (slot : Nat) (r : ReachItem) : (Nat × Nat) × (Nat × Nat) :=
  let (p, q) := (s.xy slot r.access.site, s.xy slot r.access.owner)
  if r.reply then (q, p) else (p, q)

/-- Hops of an item's route; none in cluster space. -/
def State.reachHops (s : State) (slot : Nat) (r : ReachItem) : Nat :=
  let (p, q) := s.reachEnds slot r
  if ptrSpace r.access.pointer = 2 then 0 else (routeCost p q).1

/-- The cycle of hop k. -/
def State.reachCycle (s : State) (slot : Nat) (r : ReachItem) (k : Nat) : Nat :=
  let (p, q) := s.reachEnds slot r
  r.from0 + 2 + k + (s.domain slot).spec.crossing / 2 * crossingsTo p q (k - 1)

/-- Router and direction of hop k. -/
def State.reachLink (s : State) (slot : Nat) (r : ReachItem) (k : Nat) : (Nat × Nat) × Nat :=
  let (p, q) := s.reachEnds slot r
  (routeAt p q (k - 1), hopDir p q (k - 1))

/-- An item that has taken the same link in this cycle. -/
def State.reachHolder (s : State) (slot : Nat) (r : ReachItem) (k : Nat) : Option ReachItem :=
  let now := (s.domain slot).dcc
  (s.domain slot).reach.find? fun o =>
    o.id != r.id && decide (1 ≤ o.hop) && decide (o.hop ≤ s.reachHops slot o) && s.reachCycle slot o o.hop == now &&
      s.reachLink slot o o.hop == s.reachLink slot r k

/-- An access whose request or reply is discarded: nothing of it performs any more, and a load lands zero (R98). -/
def Access.discard (a : Access) (reply : Bool) : Option Access :=
  if a.landAt.isSome then some { a with pending := reply && a.pending, data := if a.op.isAmo then scalarVec a.operand else .zero } else none

def State.reachWord (s : State) (slot site : Nat) (r : ReachItem) (proceeded : Bool) : Word :=
  requesterWord (if r.access.port = .la then 0 else 1) proceeded (r.access.site == site) (s.flat slot r.access.site) r.access.from_.slot
    r.access.from_.bundle

/-- A request or reply takes its next hop, or is discarded in a link collision that the router's tile detects (R99, R220). -/
def State.hopReach (s : State) (slot : Nat) (r : ReachItem) : State :=
  let k := r.hop + 1
  let put (s : State) (x : Option ReachItem) : State :=
    s.mapDomain slot fun d => { d with reach := d.reach.filterMap fun o => if o.id = r.id then x else some o }
  match s.reachHolder slot r k with
  | none => put s (some { r with hop := k })
  | some o =>
    let (at_, dir) := s.reachLink slot r k
    -- a discarded item takes no further hop
    let s := put s ((r.access.discard r.reply).map fun a => { r with access := a, hop := s.reachHops slot r + 1 })
    match s.siteAt slot at_.1 at_.2 with
    | some site =>
      s.raiseBare slot site 0x3008 (BitVec.ofNat 64 (1024 + dir)) 0 [s.reachWord slot site o true, s.reachWord slot site r false]
    | none => s

/-- A hop of a request or a reply (R99). -/
def execReachNetworkHop (slot id : Nat) (s : State) : Result :=
  .next (match (s.domain slot).reach.find? fun r => r.id == id with
    | some r => s.hopReach slot r
    | none => s)

end Sys2Proof.Machine
end

