-- ==== Sys2Proof/Machine/BootImage.lean ====
section
/-!
DEFINITION. The boot image of a compute die: the bundles of the object of spec/23 R406, its BREL21 records resolved (spec/03 R65).
-/
namespace Sys2Proof.Machine

/-- Bundles 0 to 11 of the image's first folio. -/
def bootTail0 : List Bundle := [
  ⟨0x1f2000000000#64, [0x30200a1d0#40, 0x142e018000#40, 0x8000019040#40]⟩,
  ⟨0xb1000000#64, [0x304004000#40, 0x8004805030#40, 0xbf00009080#40]⟩,
  ⟨0x20001#64, []⟩,
  ⟨0x0#64, [0x143a024000#40, 0x8c04824800#40, 0x3000025010#40, 0x100000a190#40, 0x80000a1a0#40, 0x800100a1b0#40]⟩,
  ⟨0x0#64, [0x8000025040#40]⟩,
  ⟨0x0#64, [0x4800004000#40, 0x8000805060#40]⟩,
  ⟨0x0#64, [0x800004000#40, 0x80004051b0#40]⟩,
  ⟨0x0#64, [0x80000e020#40]⟩,
  ⟨0x0#64, [0xfffff0300a#40, 0x1432018002#40, 0x8000019042#40]⟩,
  ⟨0x30001#64, []⟩,
  ⟨0x0#64, [0x143a024000#40, 0x1434024800#40, 0x3000025010#40, 0x1432004000#40, 0x8004005000#40, 0x1434006000#40, 0x8800007000#40]⟩,
  ⟨0x0#64, [0x80000a190#40, 0xc0000a1a0#40, 0x1436004000#40, 0x8000045010#40]⟩]

/-- Bundles 12 to 23 of the image's first folio. -/
def bootTail12 : List Bundle := [
  ⟨0x0#64, [0x80000a1b0#40, 0x800004000#40, 0x8000005190#40]⟩,
  ⟨0x0#64, [0x80000e020#40]⟩,
  ⟨0x0#64, [0xffffd83002#40]⟩,
  ⟨0x30001#64, []⟩,
  ⟨0x0#64, [0x1428004000#40, 0x8000045010#40]⟩,
  ⟨0x0#64, [0x80000a1c0#40]⟩,
  ⟨0x0#64, [0x4a02004000#40, 0x8000005190#40, 0x4a0200a040#40]⟩,
  ⟨0x0#64, [0x80000e020#40]⟩,
  ⟨0x0#64, [0xfffff8300a#40, 0x1408018002#40, 0x8000019032#40]⟩,
  ⟨0x20001#64, []⟩,
  ⟨0x0#64, [0x8000065032#40]⟩,
  ⟨0x0#64, [0x3000004000#40, 0x1414005020#40]⟩]

/-- Bundles 24 to 37 of the image's first folio. -/
def bootTail24 : List Bundle := [
  ⟨0x0#64, [0x800004000#40, 0x8000105180#40]⟩,
  ⟨0x0#64, [0x80000e030#40]⟩,
  ⟨0x0#64, [0x1430004003#40, 0x8000045003#40]⟩,
  ⟨0x0#64, [0x80000a183#40]⟩,
  ⟨0x0#64, [0x1430004000#40, 0x1438005180#40]⟩,
  ⟨0x0#64, [0x80000e040#40]⟩,
  ⟨0x0#64, [0xffffd0300c#40]⟩,
  ⟨0x30001#64, []⟩,
  ⟨0x0#64, [0x800002b000#40]⟩,
  ⟨0x0#64, [0x1422004000#40, 0x14240051b0#40, 0x1424006000#40, 0x1422007180#40]⟩,
  ⟨0x0#64, [0x1424004000#40, 0x800005010#40, 0xc0000e030#40, 0x1426006000#40, 0x8000147050#40]⟩,
  ⟨0x0#64, [0x80000a42b#40, 0x8003fca423#40, 0x142600a430#40, 0xc00006000#40, 0x800007000#40]⟩,
  ⟨0x0#64, [0xc0000a44b#40, 0x83fffca443#40, 0x1410024000#40, 0x9004064800#40, 0x1404025000#40]⟩,
  ⟨0x0#64, [0x80000030d0#40]⟩]

/-- Bundles 0 to 11 of its second folio; bundle 0 is kernel bootk. -/
def bootHead0 : List Bundle := [
  ⟨0x0#64, [0x9ffc009080#40, 0x148000e010#40, 0x800404a090#40]⟩,
  ⟨0x700000000000#64, [0x30400a080#40, 0x100000a010#40, 0x1000018000#40, 0x80000590b0#40, 0x1000004000#40, 0x8000205000#40, 0x9ff0009080#40]⟩,
  ⟨0x100000000000#64, [0x304006000#40, 0x80001c7030#40, 0x800018000#40, 0x80040190b0#40, 0x1402004000#40, 0x8000405000#40, 0x100000a170#40]⟩,
  ⟨0x0#64, [0xc0000a0a0#40, 0x800018000#40, 0xfffffd90b0#40, 0x1402004000#40, 0x8000605000#40]⟩,
  ⟨0x0#64, [0x800018000#40, 0xfffc0190b0#40, 0x80003c3001#40, 0x800000a020#40]⟩,
  ⟨0x0#64, [0x142e018000#40, 0x80008190c0#40]⟩,
  ⟨0x20001#64, []⟩,
  ⟨0x0#64, [0x4a02004000#40, 0x8000005190#40, 0x4a0200a040#40]⟩,
  ⟨0x0#64, [0x80000e020#40]⟩,
  ⟨0x0#64, [0xfffff8300a#40, 0x1408018002#40, 0x8000019032#40]⟩,
  ⟨0x20001#64, []⟩,
  ⟨0x0#64, [0x8000065032#40]⟩]

/-- Bundles 12 to 23 of its second folio; bundle 0 is kernel bootk. -/
def bootHead12 : List Bundle := [
  ⟨0x0#64, [0x3000004000#40, 0x8000884800#40, 0x80001851e0#40, 0x3000006000#40, 0x8000a06800#40, 0x80001471e0#40]⟩,
  ⟨0x0#64, [0x80000a050#40, 0xc00006000#40, 0x8000207050#40, 0x3000004000#40, 0x8000804800#40, 0x80000851e0#40]⟩,
  ⟨0x0#64, [0xc00006000#40, 0x140a007030#40, 0x800004000#40, 0x80000c5050#40]⟩,
  ⟨0x0#64, [0xc0000a020#40, 0x1402018000#40, 0x800019030#40]⟩,
  ⟨0x30001#64, []⟩,
  ⟨0x0#64, [0x1404004000#40, 0x3000005000#40]⟩,
  ⟨0x0#64, [0x80000a020#40]⟩,
  ⟨0x0#64, [0x8000024000#40, 0x1412024800#40, 0x18000250c0#40, 0x1404004000#40, 0x8000205060#40, 0x1404006000#40, 0x8003fc7020#40]⟩,
  ⟨0x0#64, [0x8000064000#40, 0x1412024800#40, 0x18000250c0#40, 0x80000a130#40, 0xc0000a120#40, 0x800004000#40, 0x8000085050#40]⟩,
  ⟨0x0#64, [0x80000a4000#40, 0x1412024800#40, 0x18000250c0#40, 0x800004000#40, 0x8000205000#40]⟩,
  ⟨0x0#64, [0x80000e4000#40, 0x1412024800#40, 0x18000250c0#40, 0x80000a100#40]⟩,
  ⟨0x0#64, [0x1410024000#40, 0x8404064800#40, 0x1404025000#40]⟩]

/-- Bundles 24 to 37 of its second folio; bundle 0 is kernel bootk. -/
def bootHead24 : List Bundle := [
  ⟨0x0#64, [0x4a02004000#40, 0x8000005190#40, 0x4a0200a040#40]⟩,
  ⟨0x0#64, [0x80000e020#40]⟩,
  ⟨0x0#64, [0xfffff8300a#40, 0x1408018002#40, 0x8000019032#40]⟩,
  ⟨0x0#64, [0x140801a002#40, 0x800021b022#40]⟩,
  ⟨0x0#64, [0x1408018002#40, 0x1420019022#40]⟩,
  ⟨0x10001#64, []⟩,
  ⟨0x0#64, [0x8000065030#40, 0x3000004000#40, 0x1414005020#40]⟩,
  ⟨0x0#64, [0x80000a060#40, 0x340000a050#40, 0x800004000#40, 0x1414005180#40, 0x800006000#40, 0x8000047180#40]⟩,
  ⟨0x0#64, [0x300000a110#40, 0x80000e030#40, 0xc0000e040#40, 0x140c004000#40, 0x8000085180#40, 0x140c006000#40, 0x80000c7180#40]⟩,
  ⟨0x0#64, [0x80000e050#40, 0xc0000e060#40, 0x140a004000#40, 0x80000c5050#40, 0x140a006000#40, 0x8000207060#40]⟩,
  ⟨0x0#64, [0xfffefc3006#40, 0x1402018003#40, 0x800019033#40, 0xc0000a0d0#40, 0x142c004000#40, 0xc00005060#40, 0x140a006000#40, 0x8003fc7020#40]⟩,
  ⟨0x0#64, [0xc0000a0e0#40, 0x800004000#40, 0x8000045020#40, 0x1428006004#40, 0x8000047004#40]⟩,
  ⟨0x0#64, [0xc0000a144#40, 0x800004000#40, 0x8000005180#40, 0x1c0a00a0f0#40, 0x141a006000#40, 0x8000087050#40]⟩,
  ⟨0x0#64, [0x142e008000#40, 0xc000090f0#40, 0x8000046000#40, 0x141a007050#40, 0x800004000#40, 0x141e005020#40]⟩]

/-- Bundles 38 to 49 of its second folio; bundle 0 is kernel bootk. -/
def bootHead38 : List Bundle := [
  ⟨0x0#64, [0x100000a1f0#40, 0xc00006000#40, 0x142c007030#40, 0x80000e040#40, 0x1404004000#40, 0x3000005000#40]⟩,
  ⟨0x0#64, [0xc0000a164#40, 0x143e01a004#40, 0x141c01b0a4#40, 0x1c0600a0c0#40, 0x80000a070#40, 0x800004000#40, 0x8003fc5020#40, 0x800006000#40, 0x80800071b0#40]⟩,
  ⟨0x0#64, [0x800004000#40, 0x80008451b0#40, 0xc00006000#40, 0x1418007020#40]⟩,
  ⟨0x0#64, [0x800004000#40, 0xc00005020#40]⟩,
  ⟨0x0#64, [0x80000e070#40, 0x142a006004#40, 0x8000047004#40]⟩,
  ⟨0x0#64, [0x1410024007#40, 0x8804064807#40, 0x140e025007#40, 0xc0000a154#40]⟩,
  ⟨0x0#64, [0x1428004000#40, 0x142a005000#40]⟩,
  ⟨0x0#64, [0x800004000#40, 0x8010805180#40]⟩,
  ⟨0x0#64, [0x80000e040#40]⟩,
  ⟨0x0#64, [0xfffe443004#40]⟩,
  ⟨0x0#64, [0xffffa0300c#40]⟩,
  ⟨0x30001#64, []⟩]

/-- A folio's 8 KiB: its bundles, the rest zero. -/
def folioOf (l : List Bundle) : List Byte := l.flatMap Bundle.bytes ++ List.replicate (8192 - 128 * l.length) 0

/-- The boot image: folios 14 and 15 of every live tile (spec/23 R402, R406). -/
def bootImage : List Byte := folioOf (bootTail0 ++ bootTail12 ++ bootTail24) ++ folioOf (bootHead0 ++ bootHead12 ++ bootHead24 ++ bootHead38)

end Sys2Proof.Machine
end

