-- ==== Sys2Proof/Machine/Cipher.lean ====
section
/-!
DEFINITION. The encryption of HBM data: AES-256 in XTS mode over sectors of 32 bytes (spec/17 R316). The manual names the ciphers of FIPS 197
and IEEE 1619; they are taken from there (notes/assumptions/93.md).
-/
namespace Sys2Proof.Machine

/-! ### The field of 256 elements -/

/-- Twice an element, modulo x^8 + x^4 + x^3 + x + 1. -/
def fieldTwice (a : Byte) : Byte := if a.getLsbD 7 then (a <<< 1) ^^^ 0x1B else a <<< 1

/-- The product of two elements, over the low n bits of the first. -/
def fieldTimes (n : Nat) (a b : Byte) : Byte :=
  match n with
  | 0 => 0
  | n + 1 => (if a.getLsbD 0 then b else 0) ^^^ fieldTimes n (a >>> 1) (fieldTwice b)

def fieldProduct (a b : Byte) : Byte := fieldTimes 8 a b

/-- a to the power 2^n − 1, and the inverse a^254; that of 0 is 0. -/
def fieldPower (a : Byte) : Nat → Byte
  | 0 => 1
  | n + 1 => let p := fieldPower a n; fieldProduct a (fieldProduct p p)
def fieldInverse (a : Byte) : Byte := let p := fieldPower a 7; fieldProduct p p

/-- The substitution of a byte, and its reverse. -/
def substitute (a : Byte) : Byte :=
  let x := fieldInverse a
  x ^^^ x.rotateLeft 1 ^^^ x.rotateLeft 2 ^^^ x.rotateLeft 3 ^^^ x.rotateLeft 4 ^^^ 0x63
def restore (a : Byte) : Byte :=
  let x := a ^^^ 0x63
  fieldInverse (x.rotateLeft 1 ^^^ x.rotateLeft 3 ^^^ x.rotateLeft 6)

/-! ### AES-256: a block is 16 bytes, column by column -/

def addBytes (a b : List Byte) : List Byte := (a.zip b).map fun p => p.1 ^^^ p.2

/-- The 60 words of the key schedule, from the eight of the key, the last first. -/
def scheduleOn : Nat → Nat → Byte → List (List Byte) → List (List Byte)
  | 0, _, _, ws => ws
  | n + 1, i, c, ws =>
    let last := ws.headD []
    let x :=
      if i % 8 = 0 then addBytes ((last.drop 1 ++ last.take 1).map substitute) [c, 0, 0, 0]
      else if i % 8 = 4 then last.map substitute
      else last
    scheduleOn n (i + 1) (if i % 8 = 0 then fieldTwice c else c) (addBytes (ws.getD 7 []) x :: ws)

/-- The 15 round keys of a 32-byte key. -/
def roundKeys (key : List Byte) : List (List Byte) :=
  let first := ((List.range 8).map fun i => (key.drop (4 * i)).take 4).reverse
  let ws := (scheduleOn 52 8 1 first).reverse
  (List.range 15).map fun r => ((ws.drop (4 * r)).take 4).flatten

/-- Row r of a block turns by r columns, to the left or to the right. -/
def turnRows (left : Bool) (b : List Byte) : List Byte :=
  (List.range 16).map fun i =>
    let (row, col) := (i % 4, i / 4)
    b.getD (4 * ((if left then col + row else col + 4 - row) % 4) + row) 0

/-- Each column is multiplied by a circulant, given by its first row. -/
def blendColumns (f : List Byte) (b : List Byte) : List Byte :=
  (List.range 16).map fun i =>
    (List.range 4).foldl (fun x j => x ^^^ fieldProduct (f.getD ((j + 4 - i % 4) % 4) 0) (b.getD (i / 4 * 4 + j) 0)) 0

/-- The middle rounds of an encryption, and its last. -/
def encryptRounds : List (List Byte) → List Byte → List Byte
  | [], b => b
  | [k], b => addBytes (turnRows true (b.map substitute)) k
  | k :: ks, b => encryptRounds ks (addBytes (blendColumns [2, 3, 1, 1] (turnRows true (b.map substitute))) k)

def encryptBlock (key b : List Byte) : List Byte :=
  match roundKeys key with
  | k :: ks => encryptRounds ks (addBytes b k)
  | [] => b

/-- The rounds of an encryption undone, from the last on. -/
def decryptRounds : List (List Byte) → List Byte → List Byte
  | [], b => b
  | [k], b => addBytes b k
  | k :: ks, b => decryptRounds ks ((turnRows false (blendColumns [14, 11, 13, 9] (addBytes b k))).map restore)

/-- The first key is the last to be added; the last round mixes no columns. -/
def decryptBlock (key b : List Byte) : List Byte :=
  match (roundKeys key).reverse with
  | k :: ks => decryptRounds ks ((turnRows false (addBytes b k)).map restore)
  | [] => b

/-! ### XTS over a sector -/

/-- Twice a tweak, as a little-endian element of the field of 2^128. -/
def tweakTwice (t : List Byte) : List Byte :=
  let x := 2 * leNat t
  leBytes 16 (if x < 2 ^ 128 then x else (x % 2 ^ 128) ^^^ 0x87)

/-- The two blocks of a sector under a key: its first half enciphers data, the other the tweak, P[40:5] (R316). -/
def sectorCipher (f : List Byte → List Byte → List Byte) (key : BitVec 512) (p : Nat) (data : List Byte) : List Byte :=
  let k := leBytes 64 key.toNat
  let t := encryptBlock (k.drop 32) (leBytes 16 (p / 32))
  let one (t : List Byte) (b : List Byte) : List Byte := addBytes (f (k.take 32) (addBytes b t)) t
  one t (data.take 16) ++ one (tweakTwice t) (data.drop 16)

/-- What a sector holds under a key, and what it reads as; without a key data stand as they are. -/
def sealSector (key : Option (BitVec 512)) (p : Nat) (data : List Byte) : List Byte :=
  match key with
  | some k => sectorCipher encryptBlock k p data
  | none => data
def openSector (key : Option (BitVec 512)) (p : Nat) (data : List Byte) : List Byte :=
  match key with
  | some k => sectorCipher decryptBlock k p data
  | none => data

end Sys2Proof.Machine
end

