-- ==== Sys2Proof/Machine/SaveBlock.lean ====
section
/-!
DEFINITION. The state block of a save area (spec/21 R383): how a tile's state, the commands saved with it and the domain's part of the
context stand in its 48 KiB. The manual gives what the block holds and in which order, not its bytes: the layout is the model's own
(notes/assumptions/87.md).
-/
namespace Sys2Proof.Machine

/-! ### Layouts -/

/-- How values of a type stand in bytes, and how they are read back from the front of a list. -/
structure Layout (α : Type) where
  write : α → List Byte
  read : List Byte → Option (α × List Byte)

/-- A number: how many bytes it takes, then these. -/
def Layout.nat : Layout Nat where
  write n := let k := Nat.log2 n / 8 + 1; BitVec.ofNat 8 k :: leBytes k n
  read
    | [] => none
    | k :: bs => if bs.length < k.toNat then none else some (leNat (bs.take k.toNat), bs.drop k.toNat)

/-- A bit vector in as many bytes as its width needs. -/
def Layout.bits (w : Nat) : Layout (BitVec w) where
  write x := leBytes ((w + 7) / 8) x.toNat
  read bs := let k := (w + 7) / 8; if bs.length < k then none else some (BitVec.ofNat w (leNat (bs.take k)), bs.drop k)

/-- One value after another. -/
def Layout.and {α β : Type} (a : Layout α) (b : Layout β) : Layout (α × β) where
  write x := a.write x.1 ++ b.write x.2
  read bs := (a.read bs).bind fun (x, bs) => (b.read bs).map fun (y, bs) => ((x, y), bs)

/-- The values of one type as those of another. -/
def Layout.as {α β : Type} (a : Layout α) (make : α → β) (parts : β → α) : Layout β where
  write x := a.write (parts x)
  read bs := (a.read bs).map fun (x, bs) => (make x, bs)

/-- The first n values that stand in a list of bytes. -/
def Layout.readMany {α : Type} (a : Layout α) : Nat → List Byte → Option (List α × List Byte)
  | 0, bs => some ([], bs)
  | n + 1, bs => (a.read bs).bind fun (x, bs) => (Layout.readMany a n bs).map fun (xs, bs) => (x :: xs, bs)

/-- A list: its length, then its elements. -/
def Layout.list {α : Type} (a : Layout α) : Layout (List α) where
  write l := Layout.nat.write l.length ++ l.flatMap a.write
  read bs := (Layout.nat.read bs).bind fun (n, bs) => a.readMany n bs

/-- A vector: its elements. -/
def Layout.vector {α : Type} (a : Layout α) (n : Nat) (d : α) : Layout (Vector α n) where
  write v := v.toList.flatMap a.write
  read bs := (a.readMany n bs).map fun (l, bs) => (Vector.ofFn fun i => l.getD i.val d, bs)

/-- An integer: what it has above zero, then what it has below. -/
def Layout.signed : Layout Int :=
  (Layout.nat.and Layout.nat).as (fun (a, b) => (a : Int) - b) (fun x => (x.toNat, (-x).toNat))

def Layout.bool : Layout Bool := (Layout.bits 1).as (fun x => x.getLsbD 0) (fun b => if b then 1 else 0)
def Layout.option {α : Type} (a : Layout α) : Layout (Option α) := (a.list).as List.head? Option.toList
def Layout.word : Layout Word := .bits 64
def Layout.vec : Layout Vec := Layout.vector (.bits 32) 64 0
def Layout.table {α : Type} (a : Layout α) : Layout (Table α) := Layout.list (Layout.nat.and a)
def Layout.words (n : Nat) : Layout (Vector Word n) := Layout.vector .word n 0

/-! ### Small structures -/

def Layout.res : Layout Res :=
  (Layout.option .vec |>.and .word).as (fun (v, w) => match v with | some v => .v v | none => .s w)
    (fun r => match r with | .s w => (none, w) | .v v => (some v, 0))

def Layout.draw : Layout DrawKey :=
  (word.and ((Layout.bits 24).and (.bits 24))).as (fun (a, b, c) => ⟨a, b, c⟩) (fun d => (d.key, d.stream, d.member))

/-- The operations that read a code table, by number. -/
def tableOps : List VecOp := [.dec, .enc, .cvt]

def Layout.tableRead : Layout TableRead :=
  (nat.and (nat.and (vec.and (vec.and (res.and (word.and (word.and (word.option.and (word.and draw))))))))).as
    (fun (a, b, c, d, e, f, g, h, i, j) => ⟨a, tableOps.getD b .dec, c, d, e, f, g, h, i, j⟩)
    (fun r => (r.due, (tableOps.findIdx? (· == r.op)).getD 0, r.o1, r.o2, r.data, r.msk, r.tbl, r.fmt, r.rnd, r.draw))

def Layout.inFlight : Layout InFlight :=
  (Layout.nat.and (res.option.and (word.option.and ((Layout.bits 6).and (bool.and tableRead.option))))).as
    (fun (a, b, c, d, e, f) => ⟨a, b, c, d, e, f⟩) (fun r => (r.due, r.q0, r.q1, r.flags, r.locked, r.late))

def Layout.origin : Layout Origin :=
  (nat.and (nat.and (nat.and (nat.and (nat.and ((Layout.bits 40).and bool)))))).as (fun (a, b, c, d, e, f, g) => ⟨a, b, c, d, e, f, g⟩)
    (fun o => (o.bundle, o.slot, o.cycle, o.bay, o.offset, o.slotValue, o.sup))

def Layout.waiting : Layout Waiting := (nat.and (res.and origin)).as (fun (a, b, c) => ⟨a, b, c⟩) (fun w => (w.sel, w.data, w.from_))

def Layout.pipe : Layout Pipe :=
  (bool.and (bool.and (bool.and (waiting.option.and (nat.and (inFlight.list.and nat.list)))))).as
    (fun (a, b, c, d, e, f, g) => ⟨a, b, c, d, e, f, g⟩) (fun p => (p.o1w, p.o2w, p.full, p.waiting, p.readyAt, p.flight, p.invalid))

def Layout.outstanding : Layout Outstanding :=
  (nat.and (nat.and (bool.and nat.list))).as (fun (a, b, c, d) => ⟨a, b, c, d⟩) (fun o => (o.id, o.issuer, o.engine, o.places))

/-! ### The captured sockets, in index order -/

def Layout.ct : Layout CtState :=
  (word.and (word.and (nat.and (nat.and (nat.and ((Layout.bits 17).and ((Layout.bits 17).option.and (word.and (bool.and nat.option))))))))).as
    (fun (a, b, c, d, e, f, g, h, i, j) => ⟨a, b, c, d, e, f, g, h, i, j⟩)
    (fun c => (c.o1, c.lnk, c.lcnt, c.lend, c.start, c.mmask, c.maskNext, c.uipc, c.masked, c.unmaskAt))

def Layout.int : Layout IntState :=
  (word.and (word.and (word.and (nat.and pipe)))).as (fun (a, b, c, d, e) => ⟨a, b, c, d, e⟩) (fun x => (x.o1, x.o2, x.q0, x.divReadyAt, x.pipe))

def Layout.ag : Layout AgState :=
  (word.and (word.and ((words 4).and ((words 4).and ((words 4).and pipe))))).as (fun (a, b, c, d, e, f) => ⟨a, b, c, d, e, f⟩)
    (fun x => (x.o1, x.q0, x.base, x.step, x.bnd, x.pipe))

def Layout.vecState : Layout VecState :=
  (vec.and (vec.and (vec.and (word.and (word.option.and (word.and (word.and (word.and (word.and pipe))))))))).as
    (fun (a, b, c, d, e, f, g, h, i, j) => ⟨a, b, c, d, e, f, g, h, i, j⟩)
    (fun x => (x.o1, x.o2, x.q0, x.q1, x.fmt, x.fmtWord, x.rnd, x.msk, x.tbl, x.pipe))

def Layout.sf : Layout SfState := (vec.and pipe).as (fun (a, b) => ⟨a, b⟩) (fun x => (x.q0, x.pipe))

def accessOpOf (k n : Nat) : AccessOp :=
  match k with
  | 0 => .load n
  | 1 => .loadV
  | 2 => .gatherV
  | 3 => .store n
  | 4 => .storeV
  | 5 => .scatterV
  | _ => .amo n

def AccessOp.parts : AccessOp → Nat × Nat
  | .load n => (0, n)
  | .loadV => (1, 0)
  | .gatherV => (2, 0)
  | .store n => (3, n)
  | .storeV => (4, 0)
  | .scatterV => (5, 0)
  | .amo n => (6, n)

/-- An access; its sites are written as flat numbers of the domain. -/
def Layout.access : Layout Access :=
  (nat.and (nat.and (nat.and (nat.and (bool.and (nat.and (word.and (nat.and (word.and (vec.and (vec.and (nat.and (nat.and (nat.and
    (bool.and (nat.option.and ((Layout.bits 6).and (bool.and origin)))))))))))))))))).as
    (fun (id, k, n, site, lb, owner, pointer, off, mask, offsets, data, at_, group, groups, pending, land, flags, locked, o) =>
      ⟨id, accessOpOf k n, site, if lb then .lb else .la, owner, pointer, off, mask, offsets, data, at_, group, groups, pending, land, flags,
        locked, o⟩)
    (fun a => (a.id, a.op.parts.1, a.op.parts.2, a.site, a.port == .lb, a.owner, a.pointer, a.off, a.mask, a.offsets, a.data, a.performAt,
      a.group, a.groups, a.pending, a.landAt, a.flags, a.locked, a.from_))

def Layout.tableWrite : Layout TableWrite :=
  (nat.and (nat.and (nat.and (nat.and (.bits 32))))).as (fun (a, b, c, d, e) => ⟨a, b, c, d, e⟩) (fun w => (w.id, w.due, w.table, w.entry, w.value))

def Layout.ls : Layout LsState :=
  (word.and (vec.and (vec.and (word.and (pipe.and (access.list.and tableWrite.list)))))).as (fun (a, b, c, d, e, f, g) => ⟨a, b, c, d, e, f, g⟩)
    (fun x => (x.o1, x.q0, x.strd, x.msk, x.pipe, x.local_, x.tableWrites))

def Layout.captured : Layout Captured :=
  (ct.and (int.and (int.and (ag.and (vecState.and (vecState.and (vecState.and (sf.and (ls.and ls))))))))).as
    (fun (a, b, c, d, e, f, g, h, i, j) => ⟨a, b, c, d, e, f, g, h, i, j⟩)
    (fun c => (c.ct, c.ia, c.ib, c.ag, c.va, c.vb, c.vc, c.sf, c.la, c.lb))

/-! ### The sockets frozen in place -/

def Layout.routineForm : Layout RoutineForm :=
  (bool.and (bool.and (bool.and (bool.and (bool.and (bool.and nat.option)))))).as (fun (a, b, c, d, e, f, g) => ⟨a, b, c, d, e, f, g⟩)
    (fun x => (x.rowMajor, x.vectorA, x.scaled, x.perturbed, x.accumulates, x.outer, x.micro))

def Layout.groupLines : Layout GroupLines :=
  let lanes : Layout (List Lane) := (Layout.bits 32).list
  ((nat.and lanes).list.and ((nat.and lanes).list.and (lanes.and lanes))).as (fun (a, b, c, d) => ⟨a, b, c, d⟩)
    (fun g => (g.a, g.b, g.sa, g.sb))

def Layout.slotReady : Layout SlotReady :=
  (nat.and (nat.and (routineForm.and (nat.and (nat.and groupLines).list)))).as (fun (a, b, c, d, e) => ⟨a, b, c, d, e⟩)
    (fun r => (r.slot, r.due, r.form, r.row, r.lines))

/-- MX but for its microprogram store and its ring: no routine is in flight once the context has drained. -/
def Layout.mx : Layout MxState :=
  (word.and (word.and ((words 8).and (word.option.and (word.and (nat.and (nat.and (nat.option.and (nat.option.and (nat.list.and (slotReady.list.and
    (nat.and (bool.and (bool.and (waiting.option.and (nat.and word).list))))))))))))))).as
    (fun (a, b, mp, fmt, fw, h, t, hn, tn, nr, rd, fe, w1, w2, w, mr) =>
      { MxState.reset with o1 := a, o2 := b, mp := mp, fmt := fmt, fmtWord := fw, head := h, tail := t, headNext := hn, tailNext := tn, notReady := nr,
                           ready := rd, fetchEnd := fe, o1w := w1, o2w := w2, waiting := w, mread := mr })
    (fun m => (m.o1, m.o2, m.mp, m.fmt, m.fmtWord, m.head, m.tail, m.headNext, m.tailNext, m.notReady, m.ready, m.fetchEnd, m.o1w, m.o2w, m.waiting,
      m.mread))

def Layout.ep : Layout EpState :=
  (word.and (vec.and (vec.and (vec.and (word.and (word.and (word.and (pipe.and (nat.and nat).list)))))))).as
    (fun (a, b, c, d, e, f, g, h, i) => ⟨a, b, c, d, e, f, g, h, [], i⟩)
    (fun x => (x.o1, x.q0, x.scl, x.bias, x.act, x.ofmt, x.dst, x.pipe, x.net))

def Layout.gn : Layout GnState :=
  let seat := Layout.bits 24
  (word.and (vec.and (vec.and (word.and (word.and (word.and (seat.and (seat.and ((word.and (seat.and seat)).option.and pipe))))))))).as
    (fun (a, b, c, d, e, f, g, h, i, j) => ⟨a, b, c, d, e, f, g, h, i, j⟩)
    (fun x => (x.o1, x.o2, x.q0, x.q1, x.elem, x.key, x.stream, x.member, x.next, x.pipe))

def Layout.landing : Layout Landing := (vec.and (.bits 7)).as (fun (a, b) => ⟨a, b⟩) (fun l => (l.data, l.tag))

def Layout.sv : Layout SvState :=
  (word.and (word.and (word.and (inFlight.list.and nat)))).as
    (fun (a, b, c, d, e) => { SvState.reset with o1 := a, o2 := b, q0 := c, flight := d, current := e })
    (fun v => (v.o1, v.o2, v.q0, v.flight, v.current))

def Layout.looseReply : Layout LooseReply :=
  (nat.and (bool.and (nat.and (word.option.and ((nat.and bool).option.and (bool.and outstanding.list)))))).as
    (fun (a, b, c, d, e, f, g) => ⟨a, b, c, d, e, f, g⟩) (fun r => (r.id, r.done, r.due, r.q0, r.pred, r.acquires, r.acquired))

def Layout.dm : Layout DmState :=
  (word.and (word.and (word.and ((words 4).and (inFlight.list.and (looseReply.list.and (nat.list.and nat))))))).as
    (fun (a, b, c, d, e, f, g, h) => ⟨a, b, c, d, e, f, g, h⟩) (fun x => (x.o1, x.o2, x.q0, x.dp, x.flight, x.replies, x.copies, x.nextXfer))

def Layout.sy : Layout SyState :=
  (word.and (word.and (word.and (nat.and inFlight.list)))).as (fun (a, b, c, d, e) => ⟨a, b, c, d, e⟩)
    (fun x => (x.o1, x.o2, x.q0, x.accxReadyAt, x.flight))

def Layout.tm : Layout TmState := (word.and (word.and inFlight.list)).as (fun (a, b, c) => ⟨a, b, c⟩) (fun x => (x.q0, x.q1, x.flight))

def Layout.id : Layout IdState :=
  let flags := Layout.bits 6
  ((words 4).and ((words 4).and (flags.and (flags.and (flags.and word))))).as (fun (a, b, c, d, e, f) => ⟨a, b, c, d, e, f⟩)
    (fun x => (x.org, x.ext, x.fflags, x.landed, x.landedAtF, x.xfer))

/-! ### A thread, an event, a log entry -/

def Layout.thread : Layout Thread :=
  let redirect : Layout Redirect := (nat.and nat).as (fun (a, b) => ⟨a, b⟩) (fun r => (r.left, r.target))
  (nat.and (nat.and (nat.and redirect.list))).as (fun (a, b, c, d) => ⟨a, b, c, d⟩) (fun h => (h.pc, h.idle, h.idleAt, h.redirects))

def Layout.event : Layout Event :=
  (nat.and (nat.and (nat.and (nat.and (bool.and (bool.and (nat.and (nat.and (nat.and (word.and (word.and (word.list.and word)))))))))))).as
    (fun (a, b, c, d, e, f, g, h, i, j, k, l, m) => ⟨a, b, c, d, e, f, g, h, i, j, k, l, m⟩)
    (fun e => (e.cause, e.slot, e.due, e.bundle, e.sup, e.timed, e.issue, e.bay, e.offset, e.value, e.detail, e.copy, e.detail2))

def Layout.irq : Layout PendingIrq := (nat.and nat).as (fun (a, b) => ⟨a, b⟩) (fun i => (i.xfer, i.handler))

/-- An entry of the landing log, in 360 bytes (R383). -/
def Layout.logEntry : Layout LogEntry :=
  (nat.and (bool.and (nat.and ((Layout.bits 7).and (vec.and nat))))).as (fun (a, b, c, d, e, f) => ⟨a, b, c, d, e, f⟩)
    (fun l => (l.reg, l.whole, l.plane, l.tag, l.data, l.delay))

/-! ### The tile (R383) -/

/-- What is saved of a tile, in the order of R383: s, p and m; socket 0 item 1 with what else of its issue state stands beside it; the
shadows; code tables; microprogram store and directory; v; landing registers; the sockets frozen in place. What supervisors own, the
receive queues and the send buffer are not part of the context. -/
def Layout.tile : Layout Tile :=
  let regs := (words 64).and ((Layout.vector .bool 8 false).and (words 8))
  let issue := thread.and (bool.and (bool.and (bool.and (bool.and (bool.and (bool.and (nat.and (nat.and (signed.and (irq.list.and (event.option.and
    (nat.and (bool.and (bool.and (bool.and nat)))))))))))))))
  let tables := (Layout.vector (Layout.vector (.bits 32) 256 0) 4 (resetCodeTable 0)).and ((table .word).and (table .word))
  let vectors := (Layout.vector .vec 32 .zero).and (Layout.vector landing 16 ⟨.zero, 0⟩)
  let frozen := mx.and (ep.and (gn.and (word.and (word.and ((Layout.bits 7).and (sv.and (dm.and (sy.and (tm.and id)))))))))
  (regs.and (issue.and (captured.and (tables.and (vectors.and frozen))))).as
    (fun ((s, p, m), (user, privileged, running, halted, loose, arrived, stopped, stoppedAt, bay, bayStart, irqs, event, later, broken, looseNext,
          debugHeld, retired),
        cap, (tabs, store, directory), (v, ln), (mx, ep, gn, no1, ndst, ncnt, sv, dm, sy, tm, id)) =>
      { Tile.reset with
        s := s, p := p, m := m, user := user, privileged := privileged, running := running, halted := halted, loose := loose, arrived := arrived,
        stopped := stopped, stoppedAt := stoppedAt, bay := bay, bayStart := bayStart, irqs := irqs, event := event, later := later,
        broken := broken, looseNext := looseNext, debugHeld := debugHeld, retired := retired, cap := cap, tables := tabs, mx := { mx with store := store, directory := directory },
        v := v, ns := ⟨no1, ndst, ln, ncnt⟩, ep := ep, gn := gn, sv := sv, dm := dm, sy := sy, tm := tm, id := id })
    (fun t => ((t.s, t.p, t.m), (t.user, t.privileged, t.running, t.halted, t.loose, t.arrived, t.stopped, t.stoppedAt, t.bay, t.bayStart, t.irqs,
      t.event, t.later, t.broken, t.looseNext, t.debugHeld, t.retired), t.cap, (t.tables, t.mx.store, t.mx.directory), (t.v, t.ns.ln),
      (t.mx, t.ep, t.gn, t.ns.o1, t.ns.dst, t.ns.counter, t.sv, t.dm, t.sy, t.tm, t.id)))

/-! ### Saved commands and remote loads -/

/-- The forms a saved command may have, by number. -/
def savedForms : List DmForm := [.copy, .copy2, .gath, .radd, .rmin, .rmax, .conv, .ovl]

def Command.toSave (c : Command) : SavedCommand :=
  ⟨(savedForms.findIdx? (· == c.form)).getD 0, c.word, c.o1, c.o2, c.dp, c.supTable, c.bayStart, c.fired, c.acceptAt, c.startAt,
   if c.form = .conv then some c.codeTable else none, c.from_⟩

def Layout.command : Layout SavedCommand :=
  (nat.and (word.and (word.and (word.and ((words 4).and (bool.and (nat.and (nat.and (nat.and (nat.and
    ((Layout.vector (.bits 32) 256 0).option.and origin))))))))))).as
    (fun (a, b, c, d, e, f, g, h, i, j, k, l) => ⟨a, b, c, d, e, f, g, h, i, j, k, l⟩)
    (fun c => (c.form, c.word, c.o1, c.o2, c.dp, c.supTable, c.bayStart, c.fired, c.acceptAt, c.startAt, c.codeTable, c.from_))

def Layout.reach : Layout ReachItem :=
  (nat.and (bool.and (nat.and (nat.and access)))).as (fun (a, b, c, d, e) => ⟨a, b, c, d, e⟩) (fun r => (r.id, r.reply, r.hop, r.from0, r.access))

/-! ### The domain's part -/

def Layout.deskRequest : Layout DeskRequest :=
  (nat.and (nat.and (nat.and nat))).as (fun (a, b, c, d) => ⟨a, b, c, d⟩) (fun r => (r.tile, r.bay, r.quantum, r.items))

def Layout.deskMark : Layout DeskMark :=
  (nat.and (nat.and (nat.and (nat.and nat)))).as
    (fun (k, a, b, c, d) => match k with | 0 => .request a b c d | 1 => .passed a b c | 2 => .parked a b | _ => .ended a b)
    (fun m => match m with
      | .request a b c d => (0, a, b, c, d) | .passed a b c => (1, a, b, c, 0) | .parked a b => (2, a, b, 0, 0) | .ended a b => (3, a, b, 0, 0))

def Layout.desk : Layout Desk :=
  (nat.and (nat.and (deskRequest.list.and deskMark.list))).as (fun (a, b, c, d) => ⟨a, b, c, d, []⟩) (fun d => (d.pool, d.next, d.requests, d.marks))

def Layout.launch : Layout Launch :=
  (nat.and (nat.and (nat.and (signed.option.and (nat.and nat))))).as
    (fun (a, b, c, d, e, f) => ⟨0, a, b, c, none, true, d, e, f, false, 0⟩)
    (fun l => (l.selectedAt, l.startAt, l.classAtStart, l.lastHalt, l.lastWrite, l.lastReply))

def Layout.pier : Layout PierState :=
  (signed.option.and (nat.option.and (nat.and (nat.option.and (nat.and nat).list)))).as (fun (a, b, c, d, e) => ⟨a, b, c, d, e⟩)
    (fun p => (p.firstArrival, p.releaseAt, p.watchdog, p.allArrived, p.others))

def freezeUses : List FreezeUse := [.fault, .inspect, .preempt, .cancel, .debug, .hold]

def Layout.use : Layout FreezeUse :=
  (nat.and nat).as (fun (k, n) => (freezeUses[k]?).getD (.thermal n))
    (fun u => match u with | .thermal n => (6, n) | u => ((freezeUses.findIdx? (· == u)).getD 0, 0))

def Layout.plan : Layout FreezePlan :=
  (nat.and (nat.and (nat.and (nat.and (nat.and use))))).as (fun (a, b, c, d, e, f) => ⟨a, b, c, d, e, f⟩)
    (fun p => (p.detected, p.due, p.tile, p.cause, p.stops, p.use))

/-- What belongs to the domain: the desk, the launch's own cycles, the pier, the realignment, stops that wait for the resume cycle, and a
freeze that an event of the drain has fixed. It stands in the block of the tile with flat number 0. -/
structure SavedDomain where
  desk : Desk
  launch : Launch
  pier : PierState
  realignFrom : Int
  pausedUntil : Nat
  stopNext : List FreezeUse
  plan : Option FreezePlan
  deriving DecidableEq, Repr

def Layout.domain : Layout SavedDomain :=
  (desk.and (launch.and (pier.and (signed.and (nat.and (use.list.and plan.option)))))).as (fun (a, b, c, d, e, f, g) => ⟨a, b, c, d, e, f, g⟩)
    (fun d => (d.desk, d.launch, d.pier, d.realignFrom, d.pausedUntil, d.stopNext, d.plan))

/-! ### The state block -/

/-- A tile's block: the tile, its remote loads on their way to land, how many entries its landing log has, its requests and marks at the desk,
the domain's part, and its commands that have not started. -/
structure TileBlock where
  tile : Tile
  reach : List ReachItem
  logged : Nat
  requests : List DeskRequest
  marks : List DeskMark
  domain : Option SavedDomain
  commands : List SavedCommand
  deriving DecidableEq, Repr

def Layout.block : Layout TileBlock :=
  (tile.and (reach.list.and (nat.and (deskRequest.list.and (deskMark.list.and (domain.option.and command.list)))))).as
    (fun (a, b, c, d, e, f, g) => ⟨a, b, c, d, e, f, g⟩)
    (fun b => (b.tile, b.reach, b.logged, b.requests, b.marks, b.domain, b.commands))

/-- Bytes that a state block has (R383). -/
def blockBytes : Nat := 0xC000

/-- The commands of a list for which a number of bytes has room. -/
def commandsWithin : Nat → List SavedCommand → List SavedCommand
  | _, [] => []
  | room, c :: rest =>
    let n := (Layout.command.write c).length
    if n ≤ room then c :: commandsWithin (room - n) rest else []

/-- A block with the commands that it has room for. -/
def TileBlock.fit (b : TileBlock) : TileBlock :=
  { b with commands := commandsWithin (blockBytes - 8 - (Layout.block.write { b with commands := [] }).length) b.commands }

/-- Bytes of a part of the area: cut and filled to its size. -/
def fitBytes (n : Nat) (bs : List Byte) : List Byte := (bs ++ List.replicate (n - bs.length) 0).take n

end Sys2Proof.Machine
end

