-- ==== Sys2Proof/Machine/Desk.lean ====
section
/-!
DEFINITION. Requests that have reached a launch unit, and the circulation desk: quantum marks and the order of service
(spec/15 R296, R297, R303 to R305, spec/11 R228).
-/
namespace Sys2Proof

/-- Tile of a mark. -/
def DeskMark.tile : DeskMark → Nat
  | .request t _ _ _ => t
  | .passed t _ _ => t
  | .parked t _ => t
  | .ended t _ => t

/-- A tile's latest mark says that it has passed quantum k of bay b, has parked there, or has ended. -/
def DeskMark.passes (bay k : Nat) : DeskMark → Bool
  | .request _ _ _ _ => false
  | .passed _ b q => decide (bay < b) || (b == bay && decide (k ≤ q))
  | .parked _ b => decide (bay ≤ b)
  | .ended _ _ => true

end Sys2Proof

namespace Sys2Proof.Machine

/-! ### Requests at a launch unit (R296, R297) -/

/-- A request has reached its launch unit. -/
def UnitMessage.arrived (m : UnitMessage) : Bool := m.taken && m.arriveAt == 0

/-- A request on VC0, which the supervisor of a frozen domain sends past what its tile has in the send buffer (spec/21 R374). -/
def UnitMessage.urgent (m : UnitMessage) : Bool := !m.buffered && (match m.request with | .desk _ => false | _ => true)

/-- The requests that a slot's launch unit may handle now: of each tile the first that is on its way to that slot, if it has arrived;
requests of one tile are handled in the order in which it issued them. -/
def State.unitHeads (s : State) (slot : Nat) : List UnitMessage :=
  let here := s.requests.filter fun m => m.slot == slot && !m.urgent
  here.filter fun m => m.arrived && ((here.find? fun o => o.site == m.site).map (·.id)) == some m.id

/-- A handled request leaves: the first that has arrived from a tile with this content. -/
def State.dropRequestOf (s : State) (slot site : Nat) (r : UnitRequest) : State :=
  match s.requests.find? fun m => m.slot == slot && m.site == site && m.request == r && m.arrived with
  | some m => { s with requests := s.requests.filter fun o => o.id ≠ m.id }
  | none => s

/-- The reply of an SV form: label 0x0100_0000 OR (sel << 16) OR status (R297). -/
def State.replySv (s : State) (slot site sel status : Nat) (flit : Word) : State :=
  s.answer slot site false (BitVec.ofNat 32 (0x1000000 + sel * 65536 + status)) flit

/-- The reply to a site, where one is asked for. -/
def State.replyTo (s : State) (slot : Nat) (reply : Option Nat) (sel status : Nat) (flit : Word) : State :=
  match reply with
  | some site => s.replySv slot site sel status flit
  | none => s

/-! ### The desk (R303 to R305) -/

/-- Two marks are of one kind. -/
def sameKind : DeskMark → DeskMark → Bool
  | .passed _ _ _, .passed _ _ _ | .parked _ _, .parked _ _ | .ended _ _, .ended _ _ => true
  | _, _ => false

/-- A request or a mark reaches the desk; of each kind of mark the latest of each tile is kept. -/
def Desk.take (x : Desk) : DeskMark → Desk
  | .request t b q n => { x with requests := x.requests ++ [⟨t, b, q, n⟩] }
  | m => { x with marks := (x.marks.filter fun o => !(o.tile == m.tile && sameKind o m)) ++ [m] }

/-- The lowest quantum of the earliest bay with requests not yet served. -/
def Desk.nextQuantum (x : Desk) : Option (Nat × Nat) :=
  let before (a b : DeskRequest) : Bool := decide (a.bay < b.bay) || (a.bay == b.bay && decide (a.quantum < b.quantum))
  ((sortBy before x.requests).head?).map fun r => (r.bay, r.quantum)

/-- Every tile of a domain has passed the quantum. -/
def Desk.allPassed (x : Desk) (tiles : List Nat) (bay k : Nat) : Bool :=
  tiles.all fun t => x.marks.any fun m => m.tile == t && m.passes bay k

/-- Grant one request: g := min(n, Nw − next), with label g and the index of the first item (R305, R228). Popping it is an acquire of
what the requests at the desk have released (spec/12 R255). -/
def State.grant (s : State) (slot : Nat) (r : DeskRequest) : State :=
  let d := s.domain slot
  let g := min r.items (d.desk.pool - d.desk.next)
  let s := s.setDomain slot { d with desk := { d.desk with next := d.desk.next + g } }
  match s.siteOfFlat slot (r.tile % 8192) with
  | some site => s.answer slot site true (BitVec.ofNat 32 g) (BitVec.ofNat 64 d.desk.next) d.desk.carried
  | none => s

/-- Serve a quantum: its requests in ascending tile order, those of one tile in their order of issue. -/
def State.serveQuantum (s : State) (slot bay k : Nat) : State :=
  let x := (s.domain slot).desk
  let mine := x.requests.filter fun r => r.bay == bay && r.quantum == k
  let rest := x.requests.filter fun r => !(r.bay == bay && r.quantum == k)
  let s := s.mapDomain slot fun d => { d with desk := { d.desk with requests := rest } }
  (sortBy (fun (a b : DeskRequest) => decide (a.tile < b.tile)) mine).foldl (fun s r => s.grant slot r) s

/-- desk_step of R305; every round serves a quantum, so as many rounds suffice as there are requests. -/
def State.serveDesk (s : State) (slot : Nat) (tiles : List Nat) : Nat → State
  | 0 => s
  | n + 1 =>
    match (s.domain slot).desk.nextQuantum with
    | none => s
    | some (bay, k) =>
      if (s.domain slot).desk.allPassed tiles bay k then State.serveDesk (s.serveQuantum slot bay k) slot tiles n else s

/-- The desk takes one request or mark, then serves what it can. -/
def State.takeMark (s : State) (slot : Nat) (m : DeskMark) (rest : List Outstanding) : State :=
  let s := s.mapDomain slot fun d => { d with desk := { d.desk.take m with carried := d.desk.carried.filter s.stillOpen ++ rest } }
  s.serveDesk slot ((s.domainSites slot).map (s.flat slot)) (s.domain slot).desk.requests.length

/-- The next request or mark at the desk. -/
def State.deskHead (s : State) (slot : Nat) : Option (UnitMessage × DeskMark) :=
  (s.unitHeads slot).findSome? fun m => match m.request with | .desk k => some (m, k) | _ => none

/-- A request or mark reaches the desk, which runs its step (R305). -/
def execDeskStep (slot : Nat) (s : State) : Result :=
  .next (match s.deskHead slot with
    | some (m, k) => { s with requests := s.requests.filter fun o => o.id ≠ m.id }.takeMark slot k m.rest
    | none => s)

/-- A tile's network interface sends the desk its mark of a passed quantum; the mark takes no place in the send buffer (R304). -/
def execQuantumMark (slot : Nat) (mark : DeskMark) (s : State) : Result :=
  .next (s.postUnit s.cur.site slot (.desk mark) false [] [])

/-- The grants of a slot's desk that have not been made are owed no more. -/
def State.forgetGrants (s : State) (slot : Nat) : State := s.forgetOwed fun o => o.desk && o.slot == slot

/-- What is still on its way to the desk of a launch that leaves the domain reaches it now. -/
def State.flushDesk (s : State) (slot : Nat) : State :=
  let mine (m : UnitMessage) : Bool := m.slot == slot && (match m.request with | .desk _ => true | _ => false)
  let all := s.requests.filter mine
  let ids := all.map (·.id)
  let s := { s with requests := s.requests.filter fun m => !mine m }
  let s := all.foldl (fun s m => s.mapTile m.site fun t =>
    { t with sv := { t.sv with sendBuffer := t.sv.sendBuffer.filter fun k => !ids.contains k } }) s
  (all.foldl (fun s m => match m.request with | .desk k => s.takeMark slot k m.rest | _ => s) s).forgetGrants slot

end Sys2Proof.Machine
end

