-- ==== Sys2Proof/Machine/Units.lean ====
section
/-!
DEFINITION. The launch unit's tables: counters and what reaching zero does, arming entries and the checks of arming, fire events, and
the requests that read and write them (spec/15 R278 to R286, R296, R297).
-/
namespace Sys2Proof.Machine

/-! ### Counters (R279 to R281) -/

def LaunchUnit.counter (u : LaunchUnit) (h : Word) : Word := Table.at u.counters 0 (h.toNat % 4096)
def LaunchUnit.setCounter (u : LaunchUnit) (h w : Word) : LaunchUnit := { u with counters := Table.put u.counters (h.toNat % 4096) w }

def counterCount (w : Word) : Nat := wbits w 31 0
def counterParent (w : Word) : Word := (w.extractLsb' 32 16).setWidth 64
def counterF (w : Word) : Bool := w.getLsbD 63
def counterC (w : Word) : Bool := w.getLsbD 62

/-- A counter word with marks ORed in. -/
def counterMark (w : Word) (f c : Bool) : Word :=
  w ||| (if f then 0x8000000000000000#64 else 0) ||| (if c then 0x4000000000000000#64 else 0)

/-- The word with another count. -/
def counterWith (w : Word) (n : Nat) : Word := (w &&& 0xFFFFFFFF00000000#64) ||| BitVec.ofNat 64 (n % 2 ^ 32)

/-- The handle of a slot's launch counter t. -/
def launchHandle (slot tag : Nat) : Word := BitVec.ofNat 64 (slot * 4096 + tag)

/-- The counter of a handle, wherever its slot is. -/
def State.counter (s : State) (h : Word) : Word := (s.unit (handleSlot h)).counter h
def State.setCounter (s : State) (h w : Word) : State := s.setUnit (handleSlot h) ((s.unit (handleSlot h)).setCounter h w)

/-- A decrement by a child with marks: the marks join, and one that finds 0 leaves 0 and sets F (R281). -/
def counterDown (w : Word) (f c : Bool) : Word :=
  if counterCount w = 0 then counterMark w true c else counterMark (counterWith w (counterCount w - 1)) f c

/-- Decrement a counter; one that reaches 0 propagates at the next cycle. -/
def State.decrementCounter (s : State) (h : Word) (f c : Bool) : State :=
  let slot := handleSlot h
  let u := s.unit slot
  let w := u.counter h
  let w' := counterDown w f c
  let u := u.setCounter h w'
  s.setUnit slot (if counterCount w = 1 then { u with zeroed := u.zeroed ++ [(h, w')] } else u)

/-- A decrement of a parent that falls due at the next cycle. -/
def State.decrementLater (s : State) (w : Word) : State :=
  let p := counterParent w
  if p = 0 then s
  else
    let k := handleSlot p
    let u := s.unit k
    s.setUnit k { u with decrements := u.decrements ++ [(p, counterF w, counterC w)] }

/-! ### Arming entries (R282) -/

def EntryState.code : EntryState → Nat
  | .free => 0 | .armed => 1 | .waiting => 2 | .starting => 3 | .running => 4 | .preempted => 5

/-- The entry cannot be written: states 2 to 5. -/
def EntryState.busy (x : EntryState) : Bool := decide (2 ≤ x.code)

def LaunchUnit.entry (u : LaunchUnit) (tag : Nat) : ArmEntry := Table.at u.entries ArmEntry.reset tag
def LaunchUnit.setEntry (u : LaunchUnit) (tag : Nat) (e : ArmEntry) : LaunchUnit := { u with entries := Table.put u.entries tag e }
def State.entry (s : State) (slot tag : Nat) : ArmEntry := (s.unit slot).entry tag
def State.setEntry (s : State) (slot tag : Nat) (e : ArmEntry) : State := s.setUnit slot ((s.unit slot).setEntry tag e)

/-- Word 0 as it reads: the state in [63:61], A as zero. -/
def ArmEntry.word0 (e : ArmEntry) : Word := (e.w0 &&& 0x0FFFFFFFFFFFFFFF#64) ||| BitVec.ofNat 64 (e.state.code * 2 ^ 61)

def ArmEntry.word (e : ArmEntry) (i : Nat) : Word :=
  match i with
  | 0 => e.word0
  | 1 => e.w1
  | 2 => e.w2
  | _ => e.w3

/-- The fields that software writes: state and A are not kept in word 0. -/
def ArmEntry.setWord (e : ArmEntry) (i : Nat) (w : Word) : ArmEntry :=
  match i with
  | 0 => { e with w0 := w &&& 0x0FFFFFFFFFFFFFFF#64 }
  | 1 => { e with w1 := w }
  | 2 => { e with w2 := w }
  | _ => { e with w3 := w }

def ArmEntry.keep (e : ArmEntry) : Bool := e.w0.getLsbD 59
def ArmEntry.userFires (e : ArmEntry) : Bool := e.w0.getLsbD 58
def ArmEntry.source (e : ArmEntry) : Nat := wbits e.w0 57 56
def ArmEntry.baseClass (e : ArmEntry) : Nat := wbits e.w0 55 54
def ArmEntry.patience (e : ArmEntry) : Nat := wbits e.w0 53 43
def ArmEntry.predecessor (e : ArmEntry) : Word := BitVec.ofNat 64 (wbits e.w0 31 16)
def ArmEntry.parent (e : ArmEntry) : Word := BitVec.ofNat 64 (wbits e.w0 15 0)
def ArmEntry.descriptor (e : ArmEntry) : Nat := wbits e.w1 40 0

/-! ### The checks of arming (R283) -/

/-- The launches of a slot find their descriptors and images in the staging store: reduced service (spec/22 R400). -/
def State.staged (s : State) (slot : Nat) : Bool := s.reduced && slot == 0

/-- An address that a launch of the slot may name: in a stack of the partition, or in the staging store. -/
def State.launchAddress (s : State) (slot p len : Nat) : Bool :=
  if s.staged slot then decide (p + len ≤ 2 ^ 20) else s.stackInPartition slot (p / 2 ^ 36)

/-- The receive region translated for writing through one entry of the user table; 0 when there is none. -/
def State.receiveRegion (s : State) (slot : Nat) (w2 : Word) : Option Nat :=
  if wbits w2 63 48 = 0 then some 0
  else match s.translate slot (s.rangeTable slot false) 4 (wbits w2 47 0) (1024 * wbits w2 63 48) false true false with
    | .ok p => some p
    | .bad _ => none

/-- The fields of words 0 to 2 are valid for arming. -/
def State.entryFields (s : State) (slot : Nat) (e : ArmEntry) : Bool :=
  let pred := e.predecessor
  let par := e.parent
  wbits e.w0 42 32 == 0 && decide (e.source < 2) && wbits e.w1 63 41 == 0 && e.descriptor % 128 == 0 &&
    (if e.source = 1 then handleOk pred && s.slotInPartition slot (handleSlot pred) else pred == 0) &&
    (par == 0 || (handleOk par && handleLevel par == 1 && handleSlot par == slot)) &&
    s.launchAddress slot e.descriptor 128 && (wbits e.w2 63 48 == 0 || wbits e.w2 7 0 == 0)

/-- The translated receive region of a valid entry; none for an invalid one. -/
def State.entryRegion (s : State) (slot : Nat) (e : ArmEntry) : Option Nat :=
  if s.entryFields slot e then s.receiveRegion slot e.w2 else none

/-- A launch-unit event of a slot in the archive of the die that holds the unit (R278, spec/22 R388). -/
def State.archiveUnit (s : State) (slot code : Nat) (w2 : Word) : State :=
  if s.hasDomain slot then s.archiveUncore (slot / 2) slot 0x0B code w2 0 else s.archiveLoose (slot / 2) 0x0B code w2 0

/-- Arm an entry with given words: the launch counter becomes 0 with F = C = 0. An invalid entry is left as it stands and the failure
is archived; answers whether it was valid. -/
def State.armEntry (s : State) (slot tag : Nat) (old new : ArmEntry) : State × Bool :=
  match s.entryRegion slot new with
  | some p =>
    let s := s.setEntry slot tag { new with state := .armed, region := p }
    (s.setCounter (launchHandle slot tag) (new.parent <<< 32), true)
  | none => ((s.setEntry slot tag old).archiveUnit slot 5 (BitVec.ofNat 64 tag), false)

/-- The word after a host write of some of its bytes (spec/13 R271). -/
def coverWord (c : Cover) (old new : Word) : Word :=
  match c with
  | .full => new
  | .low => (old &&& 0xFFFFFFFF00000000#64) ||| (new &&& 0xFFFFFFFF#64)
  | .high => (old &&& 0xFFFFFFFF#64) ||| (new &&& 0xFFFFFFFF00000000#64)

/-- A host write of one word of an entry (R282, spec/13 R271). -/
def State.writeEntry (s : State) (slot tag index : Nat) (cover : Cover) (word : Word) : State :=
  let e := s.entry slot tag
  if e.state.busy then s.archiveUnit slot 3 (BitVec.ofNat 64 tag)
  else
    let w := coverWord cover (if index = 0 then e.w0 else e.word index) word
    let e' := e.setWord index w
    let acts : Bool := index == 0 && cover != .low
    if acts && w.getLsbD 60 then
      -- a free entry takes the write even when it is not valid; an armed one keeps its words
      (s.armEntry slot tag (if e.state = .free then e' else e) e').1
    else if acts then s.setEntry slot tag { e' with state := .free }
    else if e.state = .free then s.setEntry slot tag e'
    else match s.entryRegion slot e' with
      | some p =>
        let s := s.setEntry slot tag { e' with region := p }
        let c := s.counter (launchHandle slot tag)
        s.setCounter (launchHandle slot tag) ((c &&& 0xFFFF0000FFFFFFFF#64) ||| (e'.parent <<< 32))
      | none => s.archiveUnit slot 5 (BitVec.ofNat 64 tag)

/-- A host write to an arming entry (R282). -/
def execArmingEntryWrite (slot tag index : Nat) (cover : Cover) (word : Word) (s : State) : Result :=
  .next (s.writeEntry slot tag index cover word)

/-- The entry of an image; state and A of its word 0 do not count (R296). -/
def imageEntry (ws : List Word) : ArmEntry :=
  { ArmEntry.reset with w0 := ws.getD 0 0 &&& 0x0FFFFFFFFFFFFFFF#64, w1 := ws.getD 1 0, w2 := ws.getD 2 0, w3 := ws.getD 3 0 }

/-- The launch unit arms an entry from an image; SV.arm is answered with its status (R282, R283, R296, R297). -/
def execEntryArm (slot tag : Nat) (image : List Word) (reply : Option Nat) (s : State) : Result :=
  let s := match reply with | some site => s.dropRequestOf slot site (.arm tag image) | none => s
  let e := s.entry slot tag
  let (s, status) :=
    if e.state.busy then (s, 1)
    else
      let (s, ok) := s.armEntry slot tag e (imageEntry image)
      (s, if ok then 0 else 4)
  .next (s.replyTo slot reply 0x0A status (s.entry slot tag).word0)

/-! ### Entries that end (R285, R294, R295) -/

/-- An entry ends: its counter becomes 0 with marks, and its parent is decremented at the next cycle. -/
def State.endEntry (s : State) (slot tag : Nat) (state : EntryState) (f c : Bool) : State :=
  let h := launchHandle slot tag
  let e := s.entry slot tag
  let w := counterMark (counterWith (s.counter h) 0) f c
  ((s.setEntry slot tag { e with state := state }).setCounter h w).decrementLater w

/-- An entry completes as cancelled (R295). -/
def State.cancelEntry (s : State) (slot tag : Nat) : State := s.endEntry slot tag .free false true

/-! ### Fire events (R285) -/

/-- A message or a port write that finds no entry to fire: counted as unarmed (R285, spec/13 R268, R271). -/
def State.countUnarmed (s : State) (slot : Nat) (w : Word) : State :=
  { s with host := { s.host with unarmed := s.host.unarmed + 1 } }.archiveUnit slot 1 w

/-- The source matches the entry's fire-source field; in reduced service only the fire port fires (spec/22 R400). -/
def State.sourceMatches (s : State) (slot : Nat) (e : ArmEntry) : FireSource → Bool
  | .counter => e.source == 1 && !s.staged slot
  | .port => e.source == 0
  | _ => e.source == 0 && !s.staged slot

/-- A refused fire. -/
def State.refuseFire (s : State) (slot tag status : Nat) : FireSource → State
  | .counter => s
  | .svFire site _ _ => s.replySv slot site 0x09 status (s.entry slot tag).word0
  | _ => s.countUnarmed slot (BitVec.ofNat 64 tag)

/-- Argument 0 of a fire (spec/15 R289). -/
def fireArgument (e : ArmEntry) : FireSource → Word
  | .counter | .port => e.w3
  | .message p => p
  | .svFire _ _ a => a

/-- A start is abandoned when a candidate of higher class becomes waiting: its entry waits again (R293). -/
def State.abandonStart (s : State) (slot cls : Nat) : State :=
  match (s.domain slot).launch with
  | some l =>
    let e := s.entry slot l.tag
    if !l.started ∧ e.state = .starting ∧ e.cls < cls then
      (s.setEntry slot l.tag { e with state := .waiting }).mapDomain slot fun d => { d with launch := none, idleFrom := d.dcc + 1 }
    else s
  | none => s

/-- A fire event of an entry (R285): armed becomes waiting, or completes as cancelled when its counter holds C. -/
def State.fireEntry (s : State) (slot tag : Nat) (x : FireSource) : State :=
  let e := s.entry slot tag
  let refusedUser : Bool := match x with | .svFire _ user _ => user && !e.userFires | _ => false
  if e.state ≠ .armed ∨ !s.sourceMatches slot e x then s.refuseFire slot tag 2 x
  else if refusedUser then s.refuseFire slot tag 8 x
  else
    let s :=
      if counterC (s.counter (launchHandle slot tag)) then s.cancelEntry slot tag
      else
        (s.setEntry slot tag
          { e with state := .waiting, fireDcc := (s.domain slot).dcc, argument := fireArgument e x, cls := e.baseClass, passes := 0 }).abandonStart
          slot e.baseClass
    match x with
    | .svFire site _ _ => s.replySv slot site 0x09 0 (s.entry slot tag).word0
    | _ => s

/-- A fire event (R285); one that waited at the launch unit waits no more. -/
def execLaunchFire (slot tag : Nat) (source : FireSource) (s : State) : Result :=
  let u := s.unit slot
  let s := s.setUnit slot { u with fires := u.fires.erase (tag, source) }
  let s := match source with | .svFire site user a => s.dropRequestOf slot site (.fire tag user a) | _ => s
  .next (s.fireEntry slot tag source)

/-- An 8-byte host write to a fire port; a word with a reserved bit is counted as unarmed (R271). -/
def execHostFirePortWrite (slot : Nat) (word : Word) (s : State) : Result :=
  .next (if wbits word 63 8 ≠ 0 then s.countUnarmed slot (BitVec.ofNat 64 (wbits word 7 0)) else s.fireEntry slot (wbits word 7 0) .port)

/-- The entries of a partition that wait for a counter fire (R281). -/
def State.fireDependents (s : State) (slot : Nat) (h : Word) : State :=
  s.units.foldl (fun s p =>
    if p.1 = slot ∨ s.slotInPartition slot p.1 then
      let tags := p.2.entries.filterMap fun x => if x.2.state = .armed ∧ x.2.source = 1 ∧ x.2.predecessor = h then some x.1 else none
      let u := s.unit p.1
      s.setUnit p.1 { u with fires := u.fires ++ tags.map fun t => (t, FireSource.counter) }
    else s) s

/-- What reached a cycle's end becomes due (R281). -/
def LaunchUnit.countersDue (u : LaunchUnit) : LaunchUnit :=
  { u with zeroedNow := u.zeroedNow ++ u.zeroed, decrementsNow := u.decrementsNow ++ u.decrements, zeroed := [], decrements := [] }

/-- The launch unit of a slot is awake: its domain has a pulse, or the slot has no domain. -/
def State.unitAwake (s : State) (slot : Nat) : Bool := if s.hasDomain slot then s.pulsing.contains slot else decide (slot < 16)

/-- A counter that reached 0 decrements its parent, at once, but for one in a launch unit that stands still, and fires its dependents unless C is set; or a
decrement that fell due is made (R281). -/
def execCounterZeroPropagation (slot : Nat) (handle : Word) (s : State) : Result :=
  let u := s.unit slot
  .next (match u.zeroedNow.find? fun z => z.1 == handle with
    | some (h, w) =>
      let s := s.setUnit slot { u with zeroedNow := u.zeroedNow.erase (h, w) }
      let p := counterParent w
      let s :=
        if p = 0 then s
        else if s.unitAwake (handleSlot p) && !(s.domain (handleSlot p)).frozen then s.decrementCounter p (counterF w) (counterC w)
        else s.decrementLater w
      if counterC w then s else s.fireDependents slot h
    | none =>
      match u.decrementsNow.find? fun z => z.1 == handle with
      | some (p, f, c) => (s.setUnit slot { u with decrementsNow := u.decrementsNow.erase (p, f, c) }).decrementCounter p f c
      | none => s)

/-! ### Counter requests (R296, R297) -/

/-- cnt: the reply carries the counter word. -/
def execCounterReadRequest (slot : Nat) (handle : Word) (site : Nat) (s : State) : Result :=
  .next ((s.dropRequestOf slot site (.cnt handle)).replySv slot site 0x06 0 ((s.unit slot).counter handle))

/-- cntw: writes the count and the parent, clears F and C, fires nothing. -/
def execCounterWriteRequest (slot : Nat) (handle word : Word) (site : Nat) (s : State) : Result :=
  let w := word &&& 0x0000FFFFFFFFFFFF#64
  let s := s.dropRequestOf slot site (.cntw handle word)
  .next ((s.setUnit slot ((s.unit slot).setCounter handle w)).replySv slot site 0x07 0 w)

end Sys2Proof.Machine
end

