-- ==== Sys2Proof/Machine/Recovery.lean ====
section
/-!
DEFINITION. Recovery: stops, the freeze and the resumption of a domain, the drain, save and restore of a pre-emption, debug, halt groups,
piers with their watchdog, and throttle changes (spec/01 R24, spec/15 R306, R307, R416, spec/20 R361 to R369,
spec/21 R372 to R386, spec/22 R393).
-/
namespace Sys2Proof

/-- Lv (R381, R414): from domain (0, 0) to the farthest tile, by the X-then-Y route. -/
def DomainSpec.stopLatency (d : DomainSpec) : Nat :=
  let (h, j) := Machine.routeCost (0, 0) (d.width - 1, d.height - 1)
  2 * h + d.crossing * j + 4

/-- The stacks of an island. -/
def islandStacks (i : Nat) : List Nat := [2 * i, 2 * i + 1]

/-- The stacks that a domain's contexts are saved in. -/
def DomainSpec.saveStacks (d : DomainSpec) : List Nat := d.islands.flatMap islandStacks

end Sys2Proof

namespace Sys2Proof.Machine

/-! ### Stops (R380, R381) -/

/-- A launch runs, is frozen or is stopped in the slot: the tag of its entry. -/
def Domain.runningTag (d : Domain) : Option Nat :=
  match d.launch with
  | some l => if l.started ∨ l.restoring then some l.tag else none
  | none => none

/-- A pre-emption of the domain is under way: planned, merged into a freeze, or draining (spec/15 R292). -/
def Domain.preempting (d : Domain) : Bool :=
  d.mergedPreempt || d.draining.isSome || (d.frozen && d.use == .cancel) || d.stopNext.contains .preempt ||
    (match d.plan with | some p => p.use == .preempt || p.use == .cancel | none => false)

/-- A stop that meets a freeze already fixed is merged into it: it counts as a later event; a pre-emption or a debug halt is taken with
that freeze, and a cancel turns it (R381, spec/15 R416). -/
def Domain.mergeStop (d : Domain) (p : FreezePlan) (use : FreezeUse) : Domain :=
  let d := { d with plan := some { p with stops := p.stops + 1, use := if use = .cancel then .cancel else p.use } }
  match use with
  | .preempt => { d with mergedPreempt := true }
  | .debug => { d with mergedDebug := true }
  | _ => d

/-- The launch unit detects a stop: F = d + 40 + Lv. One that comes while the domain is frozen or drains, or, but for a cancel, while a context
is being restored, is detected at the resume cycle; the end of a debug step that falls later gives way. -/
def Domain.planStop (d : Domain) (use : FreezeUse) (flat0 : Nat) : Domain :=
  let p : FreezePlan := ⟨d.dcc, d.dcc + 40 + d.spec.stopLatency, flat0, 0x6002, 0, use⟩
  -- in a drain the context has stopped: what it leaves to do waits for its resumption; a cancel's has none
  if d.draining.isSome then { d with stopNext := if d.draining.any (·.cancel) then d.stopNext else d.stopNext ++ [use] }
  else if d.frozen || (use != .cancel && d.launch.any fun l => !l.started) then { d with stopNext := d.stopNext ++ [use] }
  else match d.plan with
    | some q => if d.stepUntil.isSome ∧ p.due < q.due then { d with plan := some p, stepUntil := none } else d.mergeStop q use
    | none => { d with plan := some p }

def State.planStop (s : State) (slot : Nat) (use : FreezeUse) : State :=
  let flat0 := ((s.siteAt slot 0 0).map (s.flat slot)).getD 0
  s.mapDomain slot fun d => d.planStop use flat0

/-! ### The save area (R383, R384) -/

/-- Where the save area stands in a stack: its address bits [40:36] are ignored. -/
def saveBase (area stack : Nat) : Nat := stack * 2 ^ 36 + area % 2 ^ 36

/-- Word k of the header in a stack. -/
def State.saveWord (s : State) (area stack k : Nat) : Word := s.read64 (hbmAddr (saveBase area stack + 8 * k))

def State.saveSramBase (s : State) (area stack : Nat) : Nat := 4096 * wbits (s.saveWord area stack 0) 19 12
def State.saveSramLength (s : State) (area stack : Nat) : Nat := 4096 * wbits (s.saveWord area stack 1) 20 12

/-- The folios of the mask in ascending order. -/
def State.saveFolios (s : State) (area stack : Nat) : List Nat :=
  (List.range 16).filter fun f => (s.saveWord area stack 2).getLsbD f

/-- A header without a reserved bit and with extents in range. -/
def State.headerOk (s : State) (area stack : Nat) : Bool :=
  let w (k : Nat) : Word := s.saveWord area stack k
  !outside (w 0) 0xFF000#64 && !outside (w 1) 0x1FF000#64 && !outside (w 2) 0xFFFF#64 && !outside (w 3) 1 &&
    decide (s.saveSramLength area stack ≤ 2 ^ 20) && decide (s.saveSramBase area stack + s.saveSramLength area stack ≤ 2 ^ 20) &&
    ([4, 5, 6, 7] ++ (List.range 501).map (· + 11)).all fun k => w k == 0

/-- Why a pre-emption is refused: no save area, a multi-module launch, or a bad header (R380, R383). -/
def State.saveRefused (s : State) (slot : Nat) : Bool :=
  let d := s.domain slot
  match d.launch.bind fun l => l.desc with
  | some x => x.save == 0 || d.spec.cls == .multi || !(d.spec.saveStacks.all fun k => s.headerOk x.save k)
  | none => true

/-- Ring slots that are reserved or occupied. -/
def MxState.usedSlots (m : MxState) : List Nat :=
  (List.range ((m.tail + 16 - m.head) % 16)).map fun k => (m.head + k) % 8

/-- Bytes that a tile saves, with so many ring slots in use and so many entries in its landing log. -/
def State.savedBytes (s : State) (area stack rings logged : Nat) : Nat :=
  0xC000 + 8192 * rings + 360 * logged + 8192 * (s.saveFolios area stack).length + s.saveSramLength area stack

/-- Island, island-local index and stack of a tile's block. -/
def State.savePlace (s : State) (slot site : Nat) : Nat × Nat × Nat :=
  let row0 := (s.domain slot).spec.row0
  let row := siteRow site
  let i := 2 * siteDie site + row / 16
  let t := (row % 16 - (if row < 16 then row0 else 0)) * 32 + (s.logicalCol site).getD 0
  (i, t, 2 * i + t % 2)

/-- Tsave over a set of tiles: site, ring slots, log entries (R384). -/
def State.saveTime (s : State) (slot area : Nat) (tiles : List (Nat × Nat × Nat)) : Nat :=
  let sizes := tiles.map fun (site, rings, logged) =>
    let (i, _, k) := s.savePlace slot site
    (i, s.savedBytes area k rings logged)
  let total (i : Nat) : Nat := (sizes.filter fun x => x.1 == i).foldl (fun n x => n + x.2) 0
  let bi := ((s.domain slot).spec.islands.map total).foldl max 0
  512 + ceilDiv (bi * 320) (8192 * 304)

/-- Address of a tile's block. -/
def State.saveBlock (s : State) (slot area site : Nat) : Nat :=
  let (_, t, k) := s.savePlace slot site
  let ts := 0xD0000 + 8192 * (s.saveFolios area k).length + s.saveSramLength area k
  hbmAddr (saveBase area k + 4096 + t / 2 * ts)

/-- Sites of a tile's local accesses: they are its own. -/
def Captured.atSite (c : Captured) (site : Nat) : Captured :=
  let own (x : LsState) : LsState := { x with local_ := x.local_.map fun a => { a with site := site, owner := site } }
  { c with la := own c.la, lb := own c.lb }

/-- What a tile's state block holds; sites stand as flat numbers in it, and the domain's part in that of the tile with flat number 0. -/
def State.tileBlock (s : State) (slot site : Nat) (held : List Command) (part : SavedDomain) : TileBlock :=
  let flat := s.flatLocal slot
  let t := (s.tile site).leaveSupervisor
  let mine := (s.domain slot).reach.filter fun r => r.access.site = site
  let desk := (s.domain slot).desk
  { tile := { t with cap := t.cap.atSite (flat site) }
    commands := (held.filter fun c => c.site = site).map Command.toSave
    requests := desk.requests.filter fun r => r.tile % 8192 = flat site
    marks := desk.marks.filter fun m => m.tile % 8192 = flat site
    reach := mine.map fun r => { r with access := { r.access with site := flat r.access.site, owner := flat r.access.owner } }
    logged := t.landingLog.length
    domain := if flat site = 0 then some part else none }

/-- The save engine writes a tile's block: its state; the ring slots in use; the landing log; the folios of the mask and the SRAM extent
(R383). -/
def State.saveTile (s : State) (slot area site : Nat) (held : List Command) (part : SavedDomain) : State :=
  let t := s.tile site
  let (_, _, k) := s.savePlace slot site
  let base := s.saveBlock slot area site
  let fs := s.saveFolios area k
  let (sb, sl) := (s.saveSramBase area k, s.saveSramLength area k)
  let folio (f : Nat) : List Byte := s.readBytes (istoreAddr site (8192 * f)) 8192
  let image := fs.flatMap folio ++ s.sramRead site sb sl
  let ring (s : State) (r : Nat) : State :=
    s.hbmWrite (base + 0xC000 + 8192 * r) ((t.mx.ring.getD r RingSlot.zero).toList.flatMap bytesOfVec)
  let log := t.landingLog.flatMap fun l => fitBytes 360 (Layout.logEntry.write l)
  let s := s.hbmWrite base (fitBytes blockBytes (Layout.block.write (s.tileBlock slot site held part).fit))
  let s := t.mx.usedSlots.foldl ring s
  let s := s.hbmWrite (base + 0x1C000) (fitBytes (ceilDiv log.length 32 * 32) log)
  s.hbmWrite (base + 0xD0000) image

/-- The state block of a tile as it stands in the save area; none where its bytes hold none. -/
def State.savedBlock (s : State) (slot area site : Nat) : Option TileBlock :=
  (Layout.block.read (s.readBytes (s.saveBlock slot area site) blockBytes)).map (·.1)

/-- The ring slots that a saved tile has in use, and its landing log, as they stand in the save area. -/
def State.savedRing (s : State) (slot area site : Nat) (m : MxState) : Vector RingSlot 8 :=
  let base := s.saveBlock slot area site + 0xC000
  m.usedSlots.foldl (fun ring r =>
    ring.setIfInBounds r (Vector.ofFn fun row => vecOfBytes (s.readBytes (base + 8192 * r + 256 * row.val) 256))) (.replicate 8 .zero)

def State.savedLog (s : State) (slot area site n : Nat) : List LogEntry :=
  let base := s.saveBlock slot area site + 0x1C000
  (List.range n).filterMap fun i => (Layout.logEntry.read (s.readBytes (base + 360 * i) 360)).map (·.1)

/-- The folios and the SRAM extent come back from the save area. -/
def State.restoreBytes (s : State) (slot area site : Nat) : State :=
  let (_, _, k) := s.savePlace slot site
  let base := s.saveBlock slot area site
  let fs := s.saveFolios area k
  let (sb, sl) := (s.saveSramBase area k, s.saveSramLength area k)
  let folio (s : State) (x : Nat × Nat) : State :=
    s.writeBytes (istoreAddr site (8192 * x.1)) (s.readBytes (base + 0xD0000 + 8192 * x.2) 8192)
  (fs.zipIdx.foldl folio s).sramWrite site sb (s.readBytes (base + 0xD0000 + 8192 * fs.length) sl)

/-! ### What is still open of a context -/

/-- The user's copy of a tile's captured sockets. -/
def Tile.userSockets (t : Tile) : Captured := if t.inSup then t.shadow else t.cap

/-- A command that has not started at F: of a pre-emption, a timed one (R382); of a cancel also a loose one on its way (spec/15 R416). -/
def Command.unstarted (c : Command) (atF : Nat) (cancel : Bool) : Bool :=
  let onWay : Bool := c.phase == .delivery || c.phase == .waiting
  if c.form == .ucopy || c.form == .fabric then false
  else if c.loose then cancel && onWay
  else c.form.timed && (onWay || (c.phase == .accepted && decide (atF ≤ c.startAt)))

/-- A tile has accesses of its own still to perform. -/
def Tile.openAccess (t : Tile) : Bool :=
  let c := t.userSockets
  let acc (x : LsState) : Bool := x.local_.any (·.pending) || !x.tableWrites.isEmpty
  acc c.la || acc c.lb || !t.ep.drains.isEmpty || !t.mx.routines.isEmpty || !t.blocks.isEmpty

/-- Accesses of a domain's context are still to perform; untimed copies do not count (R382, spec/12 R259). -/
def State.openContext (s : State) (slot : Nat) : Bool :=
  let d := s.domain slot
  d.reach.any (fun r => r.access.pending) || !d.mesh.isEmpty || d.commands.any (fun c => c.form ≠ .ucopy && c.form ≠ .fabric) ||
    (s.domainSites slot).any fun k => (s.tile k).openAccess

/-- The last write of a timed command, once it is known (spec/15 R294). -/
def Command.lastWriteAt (c : Command) : Option Nat :=
  let lastSector (b : Block) : Nat := 4 * b.window + (b.hi - 1) / 32 / 2
  let lastLine (b : Block) : Nat := c.startAt + 132 + c.dt + 4 * b.g + (b.hi - 1) / 64
  if c.phase ≠ .accepted ∧ c.phase ≠ .started then none
  else match c.form with
    | .gath => some (c.startAt + c.releaseOffset + ceilDiv (c.args.n .gath) 2 - 1)
    | .radd | .rmin | .rmax => if c.sched.isEmpty then none else some ((c.sched.map (·.2)).foldl max 0)
    | _ => some (if c.split = 0 ∨ c.form = .conv then ((c.blocks.drop c.split).map lastSector).foldl max 0 else (c.blocks.map lastLine).foldl max 0)

/-- A write of a timed command or a store of the domain's tasks is still to perform. -/
def State.openWrites (s : State) (slot : Nat) : Bool :=
  let d := s.domain slot
  let store (a : Access) : Bool := a.pending && !a.op.isLoad
  let ls (x : LsState) : Bool := x.local_.any store
  d.reach.any (fun r => store r.access) || d.mesh.any (fun i => i.payload.reg.isNone) ||
    d.commands.any (fun c => c.form ≠ .ucopy && c.form ≠ .fabric && !c.loose && (match c.lastWriteAt with | some x => decide (d.dcc ≤ x) | none => true)) ||
    (s.domainSites slot).any fun k =>
      let t := s.tile k
      ls t.userSockets.la || ls t.userSockets.lb || !t.ep.drains.isEmpty

/-- A loose reply of the domain's tasks has not landed. -/
def State.openReplies (s : State) (slot : Nat) : Bool :=
  (s.domainSites slot).any fun k => !(s.tile k).dm.replies.isEmpty

/-! ### The drain (R382, R416) -/

/-- The drain begins at F: commands that have not started leave the domain, kept for the save or dropped by a cancel. A pre-emption still
to be detected is merged into this one; other stops wait for the resume cycle (R381). -/
def Domain.beginDrain (d : Domain) (cancel : Bool) : Domain :=
  let held := d.commands.filter fun c => c.unstarted d.dcc cancel
  { d with frozen := false, mergedPreempt := false, mergedDebug := false, stepUntil := none, plan := none,
           stopNext := if cancel then [] else d.stopNext.filter fun u => u ≠ .preempt,
           commands := d.commands.filter fun c => !c.unstarted d.dcc cancel,
           draining := some ⟨d.dcc, cancel, none, if cancel then [] else held, none, none⟩ }

def State.beginDrain (s : State) (slot : Nat) (cancel : Bool) : State := s.mapDomain slot fun d => d.beginDrain cancel

/-- A freeze ends for a cancel: the supervisor contexts stop issuing, every record becomes invalid, and from the next pulse on the domain
clock runs again from F with no tile issuing (R416). -/
def State.endFreeze (s : State) (slot : Nat) : State :=
  (s.mapDomainTiles slot fun t => { t.clearRecord with wedged := false, debugHeld := false, supHalted := true }).mapDomain slot fun d =>
    { d with use := .cancel }

/-- The drain of a running pre-emption becomes that of a cancel. -/
def Domain.cancelDrain (d : Domain) : Domain :=
  { d with draining := d.draining.map fun x => { x with cancel := true, saveEnd := none, held := [], doneAt := none, plan := none },
           commands := d.commands.filter fun c => !c.unstarted d.dcc true, stopNext := [] }

/-- The user context of a tile ends where it stands. -/
def Tile.abandon (t : Tile) : Tile :=
  { t.leaveSupervisor with running := false, halted := true, arrived := false, stopped := false, event := none, later := 0, landingLog := [], haltAt := none,
                           debugHeld := false, supHalted := false, irqs := [] }

/-! ### Freeze and resumption (R361, R372, R378) -/

/-- A pre-emption in whose window a tile has detected an event of its own is merged into that event's freeze: the handlers run, and it
drains at the resume cycle (R361, R381; notes/assumptions/34.md); so is one that a debug halt has merged into, which holds the domain first
(R385). -/
def State.mergesPreempt (s : State) (slot : Nat) (p : FreezePlan) : Bool :=
  p.use == .preempt && ((s.domain slot).mergedDebug || (s.domainSites slot).any fun k => (s.tile k).event.isSome)

/-- FREEZE at F: capture and entry into the supervisor context; a cancel takes the frozen domain at once (R361, R372, spec/15 R416). -/
def State.freezeAt (s : State) (slot : Nat) (p : FreezePlan) : State :=
  let held := (s.domain slot).mergedDebug || p.use == .debug
  let merged := s.mergesPreempt slot p
  let s := (s.freezeDomain slot (if merged then { p with use := .fault } else p)).mapDomain slot fun d =>
    { d with mergedDebug := false, mergedPreempt := d.mergedPreempt || merged }
  let s := if held then s.mapDomainTiles slot fun t => { t with debugHeld := true } else s
  if p.use = .cancel then s.endFreeze slot else s

def execFreeze (slot : Nat) (s : State) : Result :=
  .next (match (s.domain slot).plan with
    | some p => if (s.domain slot).frozen then s else s.freezeAt slot p
    | none => s)

/-- Supervisor accesses and writes that must perform before the resume cycle (R379). -/
def State.supervisorOpen (s : State) (slot : Nat) : Bool :=
  let d := s.domain slot
  !d.writes.isEmpty || (s.domainSites slot).any fun k =>
    let t := s.tile k
    let acc (x : LsState) : Bool := x.local_.any (·.pending) || !x.tableWrites.isEmpty
    acc t.cap.la || acc t.cap.lb

/-- The domain may resume: every tile is ready, none is held for debug unless a step is asked for, no owned stack is critical, and no
pre-emption waits to begin its drain by itself (R378, R385, spec/22 R395). -/
def State.mayResume (s : State) (slot : Nat) : Bool :=
  let d := s.domain slot
  let sites := s.domainSites slot
  d.frozen && d.use != .preempt && d.use != .cancel && (sites.all fun k => (s.tile k).ready && !(s.tile k).wedged) &&
    (d.stepUntil.isSome || sites.all fun k => !(s.tile k).debugHeld) &&
    ((List.range 32).all fun k => !(d.spec.owns k && (s.stack k).critical)) && !s.supervisorOpen slot

/-- Stops that waited for the resume cycle are detected there (R381). -/
def State.detectWaitingStops (s : State) (slot : Nat) : State :=
  let l := (s.domain slot).stopNext
  l.foldl (fun s u => s.planStop slot u) (s.mapDomain slot fun d => { d with stopNext := [] })

/-- A debug step fixes the freeze at its end from the resume cycle on: later stops and faults meet it like any other (R381, R385). -/
def State.planStep (s : State) (slot : Nat) : State :=
  let flat0 := ((s.siteAt slot 0 0).map (s.flat slot)).getD 0
  s.mapDomain slot fun d => { d with plan := d.stepUntil.map fun f => ⟨d.dcc, f, flat0, 0x6002, 0, .debug⟩ }

/-- A pre-emption takes place of a resumption; the end of a debug step that was asked for goes with the context (R381, R385). -/
def State.drainStep (s : State) (slot : Nat) : State :=
  let step := (s.planStep slot).domain slot |>.plan
  (s.beginDrain slot false).mapDomain slot fun d => { d with draining := d.draining.map fun x => { x with plan := step } }

/-- RESUMPTION at DCC F; a pre-emption merged into the freeze drains in its place (R378, R381). -/
def execResumption (slot : Nat) (s : State) : Result :=
  .next (if !s.mayResume slot then s
    else if (s.domain slot).mergedPreempt then s.drainStep slot
    else ((s.resumeDomain slot 0).planStep slot).detectWaitingStops slot)

/-! ### Pre-emption (R382 to R384) -/

/-- The last access of the drain has performed: the save begins (R382). -/
def execPreemptionDrainEnd (slot : Nat) (s : State) : Result :=
  .next (match (s.domain slot).draining, (s.domain slot).launch.bind fun l => l.desc with
    | some x, some desc =>
      if x.cancel ∨ x.saveEnd.isSome ∨ s.openContext slot then s
      else
        let tiles := (s.domainSites slot).map fun k => (k, (s.tile k).mx.usedSlots.length, (s.tile k).landingLog.length)
        let till := (s.domain slot).dcc + s.saveTime slot desc.save tiles
        s.mapDomain slot fun d => { d with draining := some { x with saveEnd := some till } }
    | _, _ => s)

/-- Accesses of others that happen before what the domain's tasks did have still to perform: the end of a task, or a completed save, is a
release at system scope (spec/12 R254, R255, R259). -/
def State.openKnown (s : State) (slot : Nat) : Bool := (s.domainSites slot).any fun k => (s.tile k).known.any s.stillOpen

/-- A tile without a task: its state of the user context no longer counts (the next launch start sets it). -/
def Tile.vacate (t : Tile) : Tile := { t.abandon with dm := { t.dm with replies := [] }, holds := [], known := [], knownNext := [], timedId := 0 }

/-- What a save keeps of the domain. -/
def State.domainPart (s : State) (slot : Nat) (l : Launch) (x : DrainState) : SavedDomain :=
  let d := s.domain slot
  { desk := { d.desk with requests := [], marks := [] }, launch := l, pier := d.pier, realignFrom := d.realignFrom, pausedUntil := d.pausedUntil, stopNext := d.stopNext,
    plan := x.plan }

/-- What the machine keeps beside the area: commands for the order of releases, and the copies that run on (spec/12 R259). -/
def State.awayOf (s : State) (slot : Nat) (l : Launch) (x : DrainState) : AwayContext :=
  let mine (c : Command) : Bool := c.form == .ucopy && c.launch == l.id
  let extra (k : Nat) : List (Nat × SavedCommand) :=
    let b := s.tileBlock slot k x.held (s.domainPart slot l x)
    (b.commands.drop b.fit.commands.length).map fun c => (s.flatLocal slot k, c)
  { tag := l.tag, held := x.held.filterMap fun c => Command.outstanding c.site c,
    copies := ((s.domain slot).commands.filter mine).map fun c => ⟨c.id, s.flatLocal slot c.site, (s.tile c.site).halted⟩, ended := [], extra := (s.domainSites slot).flatMap extra }

/-- Header words 8 to 10, with word 11, which is reserved: a whole sector (R383, spec/20 R368). -/
def State.writeSaveHeader (s : State) (area stack atF dcc sigma : Nat) : State :=
  s.hbmWrite (saveBase area stack + 64) (leBytes 8 atF ++ leBytes 8 dcc ++ leBytes 8 sigma ++ leBytes 8 0)

/-- The save engines have written every tile's state; the entry is pre-empted and the domain is idle (R382, R383). -/
def State.completeSave (s : State) (slot : Nat) (l : Launch) (desc : Descriptor) (x : DrainState) : State :=
  let s := s.flushDesk slot
  let d := s.domain slot
  let sites := s.domainSites slot
  let (part, kept) := (s.domainPart slot l x, s.awayOf slot l x)
  let s := sites.foldl (fun s k => s.saveTile slot desc.save k x.held part) s
  let s := d.spec.saveStacks.foldl (fun s k => s.writeSaveHeader desc.save k x.from0 d.dcc d.sigma) s
  let s := s.mapDomainTiles slot Tile.vacate
  let u := s.unit slot
  let s := s.setUnit slot { u with away := (u.away.filter fun c => c.tag ≠ l.tag) ++ [kept] }
  let s := s.setEntry slot l.tag { s.entry slot l.tag with state := .preempted, desc := some desc }
  s.mapDomain slot fun d =>
    { d with draining := none, launch := none, idleFrom := d.dcc + 1, reach := [], desk := .reset, stopNext := [], sigma := 0,
             pier := d.pier.begin }

def execSaveComplete (slot : Nat) (s : State) : Result :=
  .next (match (s.domain slot).draining, (s.domain slot).launch with
    | some x, some l =>
      match l.desc with
      | some desc => if x.cancel ∨ x.saveEnd.isNone ∨ s.openKnown slot then s else s.completeSave slot l desc x
      | none => s
    | _, _ => s)

/-! ### Restore (R382 step 4, R393) -/

/-- Every cycle of a context moves by one and the same distance, so every remaining delay stays. -/
def Origin.move (o : Origin) (f : Nat → Nat) : Origin := { o with cycle := f o.cycle }
def moveFlight (f : Nat → Nat) (l : List InFlight) : List InFlight :=
  l.map fun r => { r with due := f r.due, late := r.late.map fun x => { x with due := f x.due } }
def Waiting.move (w : Waiting) (f : Nat → Nat) : Waiting := { w with from_ := w.from_.move f }

def Pipe.move (p : Pipe) (f : Nat → Nat) : Pipe :=
  { p with readyAt := f p.readyAt, flight := moveFlight f p.flight, waiting := p.waiting.map fun w => w.move f }

def Access.move (a : Access) (f : Nat → Nat) : Access := { a with performAt := f a.performAt, landAt := a.landAt.map f, from_ := a.from_.move f }

def LsState.move (x : LsState) (f : Nat → Nat) : LsState :=
  { x with pipe := x.pipe.move f, local_ := x.local_.map fun a => a.move f, tableWrites := x.tableWrites.map fun w => { w with due := f w.due } }

def Captured.move (c : Captured) (f : Nat → Nat) : Captured :=
  let int (x : IntState) : IntState := { x with divReadyAt := f x.divReadyAt, pipe := x.pipe.move f }
  let vec (x : VecState) : VecState := { x with pipe := x.pipe.move f }
  { c with ct := { c.ct with unmaskAt := c.ct.unmaskAt.map f }, ia := int c.ia, ib := int c.ib, ag := { c.ag with pipe := c.ag.pipe.move f },
           va := vec c.va, vb := vec c.vb, vc := vec c.vc, sf := { c.sf with pipe := c.sf.pipe.move f }, la := c.la.move f, lb := c.lb.move f }

def Event.move (e : Event) (f : Nat → Nat) : Event := { e with due := f e.due, issue := f e.issue }

/-- The domain-clocked sockets move with the captured ones, and the bay's start by the whole distance. -/
def Tile.move (t : Tile) (f : Nat → Nat) (shift : Int) : Tile :=
  { t with
    cap := t.cap.move f
    bayStart := t.bayStart + shift
    stoppedAt := f t.stoppedAt
    event := t.event.map fun e => e.move f
    mx := { t.mx with fetchEnd := f t.mx.fetchEnd, ready := t.mx.ready.map fun r => { r with due := f r.due },
                      mread := t.mx.mread.map fun p => (f p.1, p.2), waiting := t.mx.waiting.map fun w => w.move f }
    ep := { t.ep with pipe := t.ep.pipe.move f, net := t.ep.net.map fun w => (f w.1, f w.2) }
    gn := { t.gn with pipe := t.gn.pipe.move f }
    sv := { t.sv with flight := moveFlight f t.sv.flight }
    dm := { t.dm with flight := moveFlight f t.dm.flight, replies := t.dm.replies.map fun r => { r with due := f r.due } } }

/-- A saved tile comes back on a tile: what supervisors own, the receive queues and the send buffer stay as they are there. -/
def Tile.restore (now saved : Tile) (f : Nat → Nat) (shift : Int) : Tile :=
  let x := saved.move f shift
  { x with
    z := now.z, sup := now.sup, inSup := false, shadow := now.shadow, sh := now.sh, groups := now.groups, groupHaltAt := now.groupHaltAt
    record := now.record, frozenAt := now.frozenAt, frozenOfs := now.frozenOfs, wedged := now.wedged
    sv := { x.sv with queues := now.sv.queues, sendBuffer := now.sv.sendBuffer } }

/-- A saved command is accepted again, with S moved like the bay (R382): routed by the range tables as they now stand. -/
def State.restoredCommand (s : State) (slot site : Nat) (f : Nat → Nat) (x : SavedCommand) : Command :=
  let form := savedForms.getD x.form .copy
  let a : DmArgs := ⟨x.word, x.o1, x.o2, x.dp⟩
  let stack := ((form.firstHbm a).bind (s.routeStack slot x.supTable)).getD 0
  let (owner, off) := ((form.sramOperand a).map (s.sramEnd slot site)).getD (site, ptrOffset x.o1)
  let targets := if form = .ovl then (s.ovlSites slot x.o2).getD [] else []
  let now := (s.domain slot).dcc
  { id := s.nextId, form := form, site := site, slot := slot, supTable := x.supTable, word := x.word, o1 := x.o1, o2 := x.o2, dp := x.dp,
    loose := false, launch := ((s.domain slot).launch.map (·.id)).getD 0, bayStart := f x.bayStart, fired := f x.fired, stack := stack, owned := true, di := s.delivery slot site stack,
    dt := s.deliveryOf slot site stack form owner targets, owner := owner, off := off, targets := targets, phase := .delivery,
    acceptAt := max now (f x.acceptAt), startAt := f x.startAt, busyUntil := 0, blocks := [], split := 0, rot0 := 0, rotCount := 0,
    table := .replicate 64 (0, 0), p0 := 0, p1 := 0, index := [], buffer := [], bad := [], sched := [], work := [0], need := .nothing,
    progress := 0, draw := ⟨0, 0, 0⟩, codeTable := x.codeTable.getD (resetCodeTable 0), block := [], waits := [], release := none, places := [stackPlace stack, owner],
    rank := 0, from_ := x.from_.move f }

/-- A remote load that has performed lands at its moved cycle, at the tile that asked for it. -/
def State.restoredReach (s : State) (slot : Nat) (f : Nat → Nat) (r : ReachItem) : ReachItem :=
  let site (k : Nat) : Nat := (s.siteOfFlat slot k).getD 0
  let a := { r.access.move f with id := s.nextId, site := site r.access.site, owner := site r.access.owner }
  { r with id := s.nextId, from0 := f r.from0, access := a }

/-- An entry of the landing log as an item that lands at the log's delay after the resume cycle (R382). -/
def State.logItem (s : State) (slot site rr : Nat) (l : LogEntry) : MeshItem :=
  let payload : MeshPayload := if l.whole then .whole l.reg l.data else .part l.reg l.plane l.data
  let it : MeshItem := ⟨s.nextId, s.nextId, site, site, 0, 1, l.tag, payload, 0, Origin.none⟩
  { it with fired := rr + l.delay - s.landCycle slot it }

def State.injectLog (s : State) (slot site rr : Nat) (log : List LogEntry) : State :=
  log.foldl (fun s l => (s.mapDomain slot fun d => { d with mesh := d.mesh ++ [s.logItem slot site rr l] }).fresh) s

/-- Rr: the least cycle from y + Trs on with the phase of F (R382). -/
def resumeCycle (y trs atF : Nat) : Nat :=
  let m := y + trs
  m + (atF % 1280 + 1280 - m % 1280) % 1280

/-- F and Σ of a saved context: words 8 and 10 of the header (R383). -/
def State.savedF (s : State) (slot area : Nat) : Nat := (s.saveWord area (((s.domain slot).spec.saveStacks).headD 0) 8).toNat
def State.savedSigma (s : State) (slot area : Nat) : Nat := (s.saveWord area (((s.domain slot).spec.saveStacks).headD 0) 10).toNat

/-- Cycle at which the context in an area resumes, restored from selection cycle y on: Trs is the time of its save (R382, R384). -/
def State.restoreAt (s : State) (slot y area : Nat) : Nat :=
  let tiles := (s.domainSites slot).map fun k =>
    match s.savedBlock slot area k with
    | some b => (k, b.tile.mx.usedSlots.length, b.logged)
    | none => (k, 0, 0)
  resumeCycle y (s.saveTime slot area tiles) (s.savedF slot area)

/-- The user context of a tile whose state block holds none of this layout: what the manual does not lay out is free
(notes/assumptions/87.md). -/
def State.freeTile (s : State) (slot : Nat) (t : Tile) : Tile :=
  { t with s := Vector.ofFn fun i => Config.freeWord (s.draws + i.val), v := Vector.ofFn fun i => Vec.gen fun j =>
             (Config.freeWord (s.draws + 64 + 64 * i.val + j)).setWidth 32,
           user := { Thread.reset with pc := Config.freeNat (s.draws + 4096) % 960 }, running := true, halted := false, arrived := false,
           bayStart := (s.domain slot).dcc }

/-- Every island's restore flag is cleared (R383). In a sector with an uncorrectable error, of which word 3 is a part, it does not perform: a
machine check at the launch unit's tile (spec/20 R368; notes/assumptions/87.md). -/
def State.clearRestoreFlags (s : State) (slot area : Nat) : State :=
  (s.domain slot).spec.saveStacks.foldl (fun s k =>
    let a := saveBase area k + 24
    match s.checkWrite a 8 with
    | .error =>
      let s := s.countError a
      (match s.siteAt slot 0 0 with
        | some site => s.raiseBare slot site 0x5004 (BitVec.ofNat 64 (a / 32 * 32)) 0 []
        | none => s)
    | _ => s.hbmWrite a (leBytes 8 0)) s

/-- A tile's context comes back: its state, ring slots, landing log, saved commands and remote loads; then its folios and SRAM (R382). -/
def State.restoreTile (s : State) (slot area site : Nat) (f : Nat → Nat) (shift : Int) (extra : List SavedCommand) : State :=
  let s := s.restoreBytes slot area site
  match s.savedBlock slot area site with
  | none => { s.setTile site (s.freeTile slot (s.tile site)) with draws := s.draws + 4097 }
  | some b =>
    let saved := { b.tile with mx := { b.tile.mx with ring := s.savedRing slot area site b.tile.mx }, cap := b.tile.cap.atSite site }
    let s := s.setTile site ((s.tile site).restore saved f shift)
    let s := s.injectLog slot site (s.domain slot).dcc (s.savedLog slot area site b.logged)
    let s := (b.commands ++ extra).foldl (fun s c =>
      s.fresh.mapDomain slot fun d => { d with commands := d.commands ++ [s.restoredCommand slot site f c] }) s
    let s := s.mapDomain slot fun d =>
      { d with desk := { d.desk with requests := d.desk.requests ++ b.requests, marks := d.desk.marks ++ b.marks } }
    b.reach.foldl (fun s r => s.fresh.mapDomain slot fun d => { d with reach := d.reach ++ [s.restoredReach slot f r] }) s

/-- Copies of the context that have ended while it was saved come to their tiles (spec/11 R245, spec/12 R259). -/
def State.endAwayCopies (s : State) (slot tag : Nat) : State :=
  let u := s.unit slot
  let mine := u.away.filter fun x => x.tag = tag
  let s := s.setUnit slot { u with away := u.away.filter fun x => x.tag ≠ tag }
  (mine.flatMap (·.ended)).foldl (fun s (flat, xfer, ctl) =>
    match s.siteOfFlat slot flat with
    | some k => s.mapTile k fun t => t.copyDone xfer ctl
    | none => s) s

/-- The domain's part of a context comes back, and Σ grows by Rr − F, or becomes it in a restore (R382, R393). -/
def State.restoreDomain (s : State) (slot : Nat) (l : Launch) (part : Option SavedDomain) (f : Nat → Nat) (shift : Int) (sigma : Nat) : State :=
  s.mapDomain slot fun d =>
    let l := { l with started := true, restoring := false }
    match part with
    | none => { d with sigma := sigma, launch := some { l with startAt := d.dcc } }
    | some x =>
      let y := x.launch
      { d with desk := { x.desk with requests := d.desk.requests, marks := d.desk.marks }, sigma := sigma, realignFrom := x.realignFrom + shift, pausedUntil := f x.pausedUntil,
               pier := { firstArrival := x.pier.firstArrival.map (· + shift), releaseAt := x.pier.releaseAt.map f, watchdog := d.pier.watchdog,
                         allArrived := x.pier.allArrived.map f, others := x.pier.others.map fun o => (o.1, f o.2) },
               stopNext := d.stopNext ++ x.stopNext,
               plan := d.plan.or (x.plan.map fun p => { p with detected := f p.detected, due := f p.due }),
               launch := some { l with startAt := f y.startAt, classAtStart := y.classAtStart, lastHalt := y.lastHalt.map (· + shift),
                                       lastWrite := f y.lastWrite, lastReply := f y.lastReply } }

/-- The restored desk owes the grants of the requests that stand at it. -/
def State.oweGrants (s : State) (slot : Nat) : State :=
  (s.domain slot).desk.requests.foldl (fun s r =>
    match s.siteOfFlat slot (r.tile % 8192) with
    | some k => State.fresh { s with owed := s.owed ++ [⟨s.nextId, k, slot, true, none⟩] }
    | none => s) s

/-- A context resumes at this cycle, Rr, from what stands in its save area. -/
def State.restoreContext (s : State) (slot : Nat) (l : Launch) (area : Nat) (restored : Bool) : State :=
  let rr := (s.domain slot).dcc
  let atF := s.savedF slot area
  let f (x : Nat) : Nat := x + rr - atF
  let shift : Int := (rr : Int) - atF
  let old := s.savedSigma slot area
  let grown := (rr + 2 ^ 64 - atF % 2 ^ 64) % 2 ^ 64
  let part := ((s.siteOfFlat slot 0).bind (s.savedBlock slot area)).bind (·.domain)
  let mine := (s.unit slot).away.filter fun x => x.tag = l.tag
  let away := mine.flatMap fun x => x.copies.map (·.id)
  -- what is still on its way to the desk of the last launch is no concern of this one
  let s := s.flushDesk slot
  -- copies of the context that still run belong to it again
  let s := s.mapDomain slot fun d =>
    { d with desk := .reset, commands := d.commands.map fun c => if away.contains c.id then { c with launch := l.id } else c }
  let extra (k : Nat) : List SavedCommand := ((mine.flatMap (·.extra)).filter fun x => x.1 = s.flatLocal slot k).map (·.2)
  let s := (s.domainSites slot).foldl (fun s k => s.restoreTile slot area k f shift (extra k)) s
  let s := s.restoreDomain slot l part f shift (if restored then grown else (old + grown) % 2 ^ 64)
  let s := s.oweGrants slot
  let s := s.endAwayCopies slot l.tag
  s.archiveUncore (s.headDie slot) slot 0x03 0 (BitVec.ofNat 64 atF) (BitVec.ofNat 64 grown)

/-- A restored launch resumes at Rr (R382, R393); its restore clears the flags, and one from a checkpoint is recorded (R383, spec/22 R388). -/
def execPreemptedResume (slot : Nat) (s : State) : Result :=
  .next (match (s.domain slot).launch with
    | some l =>
      if !l.restoring ∨ (s.domain slot).draining.isSome then s
      else
        let area := (l.desc.map (·.save)).getD 0
        let restored : Bool := (s.entry slot l.tag).state = .starting
        let s := s.setEntry slot l.tag { s.entry slot l.tag with state := .running }
        let s := s.restoreContext slot l area restored
        let s := s.clearRestoreFlags slot area
        let s := if restored then s.archiveUncore (s.headDie slot) slot 0x11 4 0 0 else s
        s.detectWaitingStops slot
    | none => s)

/-! ### Stop and debug requests (R380, R385) -/

/-- Flit 0 of the reply to a stop or dbg: word 0 of the entry of the launch, or 0. -/
def State.stopFlit (s : State) (slot : Nat) : Word :=
  match (s.domain slot).runningTag with
  | some t => (s.entry slot t).word0
  | none => 0

/-- A request of SV.stop or SV.dbg leaves the unit's list. -/
def State.takeStop (s : State) (slot : Nat) (reply : Option Nat) (r : UnitRequest) : State :=
  match reply with
  | some site => s.dropRequestOf slot site r
  | none => s

/-- Act on a request unless it has a refusing status, and reply. -/
def State.answerStop (s : State) (slot : Nat) (reply : Option Nat) (sel : Nat) (status : Option Nat) (f : State → State) : State :=
  let (s, st) := match status with | some x => (s, x) | none => (f s, 0)
  s.replyTo slot reply sel st (s.stopFlit slot)

/-- No launch runs or is frozen in the slot: status 0x02. -/
def State.noLaunch (s : State) (slot : Nat) : Option Nat := if (s.domain slot).runningTag.isNone then some 2 else none

/-- Stop for inspection (R380, R381). -/
def execStopForInspection (slot : Nat) (reply : Option Nat) (s : State) : Result :=
  .next ((s.takeStop slot reply (.stop 0)).answerStop slot reply 0x0B (s.noLaunch slot) fun s => s.planStop slot .inspect)

/-- A stop of kind 1 pre-empts (R380, R382); one that meets the drain of a pre-emption is merged into it and counts as a later event (R381). -/
def execPreemptStop (slot : Nat) (reply : Option Nat) (s : State) : Result :=
  let status := (s.noLaunch slot).or (if s.saveRefused slot then some 5 else none)
  .next ((s.takeStop slot reply (.stop 1)).answerStop slot reply 0x0B status fun s =>
    if (s.domain slot).draining.any fun x => !x.cancel then s.mapDomainTiles slot fun t => { t with later := min 255 (t.later + 1) }
    else s.planStop slot .preempt)

/-- Debug of the slot is disabled: status 0x06. -/
def State.debugRefused (s : State) (slot : Nat) : Option Nat := if (s.unit slot).debugEnable = 0 then some 6 else none

/-- The domain is held for debug. -/
def State.debugHolds (s : State) (slot : Nat) : Bool :=
  (s.domain slot).frozen && (s.domainSites slot).any fun k => (s.tile k).debugHeld

/-- dbg with operation 0 halts the domain as a stop, and holds every tile (R385). -/
def execDebugHalt (slot : Nat) (reply : Option Nat) (s : State) : Result :=
  let status := (s.noLaunch slot).or (s.debugRefused slot)
  .next ((s.takeStop slot reply (.dbg 0 0)).answerStop slot reply 0x0D status fun s => s.planStop slot .debug)

/-- Status of a step or release. -/
def State.releaseStatus (s : State) (slot : Nat) : Option Nat :=
  ((s.noLaunch slot).or (s.debugRefused slot)).or (if s.debugHolds slot then none else some 7)

/-- dbg with operation 1: n cycles, the hold stays set (R385). -/
def execDebugStep (slot n : Nat) (reply : Option Nat) (s : State) : Result :=
  .next ((s.takeStop slot reply (.dbg 1 n)).answerStop slot reply 0x0D (s.releaseStatus slot) fun s =>
    s.mapDomain slot fun d => { d with stepUntil := some (d.dcc + n) })

/-- dbg with operation 2 releases the hold (R385). -/
def execDebugRelease (slot : Nat) (reply : Option Nat) (s : State) : Result :=
  .next ((s.takeStop slot reply (.dbg 2 0)).answerStop slot reply 0x0D (s.releaseStatus slot) fun s =>
    s.mapDomainTiles slot fun t => { t with debugHeld := false })

/-- After n stepped cycles the domain freezes again, with records of code 0x6002; the hold stays set (R385). -/
def execDebugStepExpiry (slot : Nat) (s : State) : Result :=
  let d := s.domain slot
  .next (match d.plan, d.stepUntil with
    | some p, some f => if d.frozen ∨ d.dcc ≠ f then s else s.freezeAt slot p
    | _, _ => s)

/-! ### Halt groups (R386) -/

/-- The timetable of a domain is broken: the mark of its tiles, and an archive entry at the first fall-back halt. -/
def State.breakTimetable (s : State) (slot : Nat) : State :=
  let s := s.mapDomainTiles slot fun t => { t with broken := true }
  if (s.domain slot).brokenSince.isSome then s
  else (s.mapDomain slot fun d => { d with brokenSince := some d.dcc }).archiveUncore (s.headDie slot) slot 0x0E 1 0 0

/-- A halt reaches a member of a raised group: that is its detection, and this cycle the last in which the tile issues (R361, R386). An
event that the tile keeps already stays its record. -/
def State.detectHalt (s : State) (slot site : Nat) : State :=
  let d := s.domain slot
  let t := s.tile site
  let e := s.eventOf slot site { Origin.none with sup := false } 0x6003 0 0 0 []
  let s := s.archiveTile slot site 0x01 0x6003 (recordHead 0x6003 0 0xFF true false (!t.loose) 0 t.user.next) 0
  let s := s.mapTile site fun t =>
    { t.detect e with stopped := true, stoppedAt := if t.stopped then t.stoppedAt else d.dcc, haltAt := some d.dcc }
  s.breakTimetable slot

/-- Once it has issued in that cycle, the tile enters its supervisor context alone, and the domain runs on; one that keeps an event of
another cause stands still until the freeze that this event has fixed (R361, R362, R386). -/
def State.enterHalt (s : State) (slot site : Nat) : State :=
  let d := s.domain slot
  s.mapTile site fun t =>
    match t.event with
    | some e =>
      if e.cause = 0x6003 then
        let record := e.record (min 255 t.later) t.user.next d.dcc (s.flat slot site) d.sigma
        { t.enterSupervisor record d.pulses d.dcc (t.bayOffset d.dcc) t.loose with groupHalted := true, stopped := false, id := t.id }
      else { t with haltAt := none }
    | none => { t with haltAt := none }

/-- A halt of a halt group arrives, or its tile enters its supervisor context. While the domain is frozen, or drains, the halt waits; a
tile already in its supervisor context only counts it (R362). -/
def execHaltGroupHalt (site : Nat) (s : State) : Result :=
  let arrived (s : State) : State := s.mapTile site fun t => { t with groupHaltAt := t.groupHaltAt.drop 1 }
  .next (match s.slotOf site with
    | some slot =>
      let d := s.domain slot
      if d.boot then arrived s
      else if d.frozen ∨ d.draining.isSome then s
      else if (s.tile site).haltAt.isSome then s.enterHalt slot site
      else if (s.tile site).inSup then
        ((arrived s).mapTile site fun t => { t with later := min 255 (t.later + 1) }).archiveTile slot site 0x01 0x6003
          (recordHead 0x6003 0 0xFF true true false 0 (s.tile site).user.next) 0
      else (arrived s).detectHalt slot site
    | none => arrived s)

/-! ### Piers (spec/01 R24, R25, spec/15 R306) -/

/-- A released tile is timed again and starts its next bay (R24, R87). -/
def Tile.release (t : Tile) (dcc : Nat) : Tile :=
  if t.arrived then { t with arrived := false, loose := false, bay := t.bay + 1, bayStart := dcc, retired := 0, broken := false }
  else { t with broken := false }

/-- PIER RELEASE: every waiting tile is released, the dies are realigned, and the timetable is whole again (R24, R25, R386). -/
def State.releasePier (s : State) (slot : Nat) : State :=
  let d := s.domain slot
  let s := s.mapDomainTiles slot fun t => t.release d.dcc
  let s := s.mapDomain slot fun d =>
    { d with pier := d.pier.begin, realignFrom := d.dcc, brokenSince := none }
  if d.brokenSince.isSome then s.archiveUncore (s.headDie slot) slot 0x0E 0 0 0 else s

def execPierRelease (slot : Nat) (s : State) : Result := .next (s.releasePier slot)

/-- The pier watchdog expires: a progress fault in the lowest-numbered tile that has not arrived (R306, spec/20 R364). -/
def execPierWatchdogExpiry (slot : Nat) (s : State) : Result :=
  let d := s.domain slot
  .next (match d.pier.firstArrival, (s.domainSites slot).find? fun k => !(s.tile k).atPier with
    | some a, some site => s.raiseBare slot site 0x300E (BitVec.ofInt 64 (a - (d.sigma : Int))) (BitVec.ofNat 64 d.pier.watchdog) []
    | _, _ => s)

/-! ### Throttle (spec/15 R307) -/

/-- A throttle change takes effect on every island of the domain, and is archived (R307, spec/22 R388). -/
def execThrottleChange (slot : Nat) (s : State) : Result :=
  let d := s.domain slot
  .next (match d.throttleNext with
    | some (_, k) =>
      (s.setDomain slot { d with throttle := k, throttleNext := none }).archiveUncore (s.headDie slot) slot 0x04 k (BitVec.ofNat 64 d.throttle) 0
    | none => s)

end Sys2Proof.Machine
end

