-- ==== Sys2Proof/Machine/Launch.lean ====
section
/-!
DEFINITION. Launches: selection with the descriptor's check and the folio fill, the start on every tile, completion, promotion and
pre-emption by priority, and cancels (spec/15 R284 to R295, R416, spec/04 R67, R94, R95, spec/17 R317, spec/21 R393).
-/
namespace Sys2Proof.Machine

/-! ### The descriptor (R284, R290) -/

/-- Where word k of a descriptor, or byte k of an image, stands. -/
def State.launchByte (s : State) (slot p : Nat) : Nat := if s.staged slot then stagingAddr p else hbmAddr p

/-- The sixteen words of a descriptor. -/
def State.descriptorWords (s : State) (slot p : Nat) : List Word :=
  (List.range 16).map fun k => s.read64 (s.launchByte slot (p + 8 * k))

/-- A descriptor is well formed (R290); in reduced service word 7 is zero (spec/22 R400). -/
def State.descriptorOk (s : State) (slot : Nat) (w : List Word) : Bool :=
  let x (k : Nat) : Word := w.getD k 0
  let image := wbits (x 0) 40 0
  let save := wbits (x 7) 40 0
  wbits (x 0) 63 41 == 0 && (image == 0 || (image % 256 == 0 && s.launchAddress slot image 8192)) &&
    wbits (x 1) 31 20 == 0 && wbits (x 1) 15 10 == 0 && decide (wbits (x 1) 19 16 ≤ 14) && decide (wbits (x 1) 9 0 ≤ 959) &&
    ([2, 3, 4, 5].all fun k => wbits (x k) 63 32 != 0 && wbits (x k) 31 0 != 0) &&
    wbits (x 6) 63 40 == 0 && wbits (x 7) 63 41 == 0 &&
    (save == 0 || (save % 4096 == 0 && s.launchAddress slot save 4096 && !s.staged slot)) && x 15 == 0

def descriptorOf (w : List Word) : Descriptor :=
  let x (k : Nat) : Word := w.getD k 0
  { image := wbits (x 0) 40 0, quantum := wbits (x 1) 63 32, folio := wbits (x 1) 19 16, entry := wbits (x 1) 9 0,
    n := #v[(x 2).extractLsb' 0 32 |>.setWidth 64, (x 3).extractLsb' 0 32 |>.setWidth 64, (x 4).extractLsb' 0 32 |>.setWidth 64,
            (x 5).extractLsb' 0 32 |>.setWidth 64],
    g := #v[x 2 >>> 32, x 3 >>> 32, x 4 >>> 32, x 5 >>> 32],
    pool := wbits (x 6) 39 0, save := wbits (x 7) 40 0, args := (List.range 7).map fun k => x (8 + k) }

/-! ### The folio fill (R287, R240) -/

/-- The fill as a streamer command of the launch unit, accepted when it is issued, to every tile of the domain. -/
def State.fillCommand (s : State) (slot p folio : Nat) : Command :=
  let d := s.domain slot
  let sites := s.domainSites slot
  let head := sites.headD 0
  let stack := p / 2 ^ 36
  let dt := (sites.map fun k => s.delivery slot k stack).foldl max 0
  let c : Command :=
    { id := s.nextId, form := .ovl, site := head, slot := slot, supTable := false, word := 0,
      o1 := BitVec.ofNat 64 (4 * 2 ^ 60 + p), o2 := 0, dp := #v[BitVec.ofNat 64 folio, 0, 0, 0], loose := false, launch := 0, bayStart := d.dcc,
      fired := d.dcc, stack := stack, owned := true, di := 0, dt := dt, owner := head, off := 0, targets := sites, phase := .accepted,
      acceptAt := d.dcc, startAt := d.dcc + 1, busyUntil := 0, blocks := [], split := 0, rot0 := 0, rotCount := 0,
      table := .replicate 64 (0, 0), p0 := p, p1 := 0, index := [], buffer := [], bad := [], sched := [], work := [], need := .nothing,
      progress := 0, draw := ⟨0, 0, 0⟩, codeTable := resetCodeTable 0, block := [], waits := [], release := none,
      places := [], rank := s.nextId, from_ := Origin.none }
  let (c, b) := c.fix [p]
  { c with busyUntil := c.startAt + b }

/-- In reduced service the image comes from the staging store, and the fill is complete long before the start (spec/22 R400). -/
def State.fillStaged (s : State) (slot p folio : Nat) : State :=
  let image := s.readBytes (stagingAddr p) 8192
  let s := (s.domainSites slot).foldl (fun s k => s.istoreWrite k (8192 * folio) image) s
  s.extendNow slot true (folioDigest folio image)

def State.fillFolio (s : State) (slot : Nat) (x : Descriptor) : State :=
  if x.image = 0 then s
  else if s.staged slot then s.fillStaged slot x.image x.folio
  else
    let c := s.fillCommand slot x.image x.folio
    s.fresh.mapDomain slot fun d => { d with commands := d.commands ++ [c] }

/-! ### Selection (R287, R288, R290) -/

/-- The candidates of a slot. -/
def LaunchUnit.candidates (u : LaunchUnit) : List (Nat × ArmEntry) :=
  u.entries.filter fun p => p.2.state = .waiting ∨ p.2.state = .preempted

/-- Class, then fire DCC, then tag (R288). -/
def candidateBefore (a b : Nat × ArmEntry) : Bool :=
  if a.2.cls ≠ b.2.cls then decide (b.2.cls < a.2.cls)
  else if a.2.fireDcc ≠ b.2.fireDcc then decide (a.2.fireDcc < b.2.fireDcc)
  else decide (a.1 < b.1)

def LaunchUnit.best (u : LaunchUnit) : Option (Nat × ArmEntry) := (sortBy candidateBefore u.candidates).head?

/-- The domain is idle at this cycle (R288). -/
def Domain.idle (d : Domain) : Bool := d.launch.isNone && decide (d.idleFrom ≤ d.dcc) && d.draining.isNone && !d.frozen && !d.boot

/-- Every schedule of the module has loaded (spec/13 R261). -/
def State.schedulesFine (s : State) : Bool := s.ports.all fun p => p.2.loadError.isNone

/-- The launch unit may select a launch: the domain is idle; a multi-module domain's schedules have loaded (spec/13 R261); reduced
service is not about to end (spec/22 R401). -/
def State.maySelect (s : State) (slot : Nat) : Bool :=
  let d := s.domain slot
  d.idle && s.mmc.unlocking.isNone && (d.spec.cls != .multi || s.schedulesFine) && !(s.staged slot && s.trained)

/-- A candidate is selected: a waiting entry starts; a pre-empted one is restored (R285, R288). -/
def State.selectCandidate (s : State) (slot tag : Nat) (e : ArmEntry) : State :=
  let y := (s.domain slot).dcc
  if e.state = .preempted then
    match e.desc with
    | some x =>
      let l : Launch := ⟨tag, y, s.restoreAt slot y x.save, e.cls, e.desc, false, none, 0, 0, true, s.nextId⟩
      (s.fresh.setEntry slot tag { e with state := .running }).mapDomain slot fun d => { d with launch := some l }
    | none => s
  else
    let l : Launch := ⟨tag, y, y + 2048, e.cls, none, false, none, 0, 0, false, s.nextId⟩
    (s.fresh.setEntry slot tag { e with state := .starting }).mapDomain slot fun d => { d with launch := some l }

/-- The restore flag of every island's header is set (spec/21 R383, R393). -/
def State.restoreFlag (s : State) (slot area : Nat) : Bool :=
  area != 0 && !s.staged slot && ((s.domain slot).spec.saveStacks.all fun k => (s.saveWord area k 3).getLsbD 0)

/-- At s + 1 the descriptor is read and checked, and the folio fill is issued; one that fails is a descriptor fault (R287, R290). -/
def State.checkDescriptor (s : State) (slot : Nat) (l : Launch) : State :=
  let e := s.entry slot l.tag
  let w := s.descriptorWords slot e.descriptor
  if s.descriptorOk slot w then
    let x := descriptorOf w
    let l := { l with desc := some x }
    let l := if s.restoreFlag slot x.save then { l with restoring := true, startAt := s.restoreAt slot l.selectedAt x.save } else l
    (s.mapDomain slot fun d => { d with launch := some l }).fillFolio slot x
  else
    let s := (s.endEntry slot l.tag (if e.keep then .armed else .free) true false).archiveUnit slot 2 (BitVec.ofNat 64 l.tag)
    s.mapDomain slot fun d => { d with launch := none, idleFrom := d.dcc + 1 }

/-- Selection of a candidate, or the second cycle of a start (R287, R288). -/
def execLaunchSelection (slot : Nat) (s : State) : Result :=
  let d := s.domain slot
  .next (match d.launch with
    | some l => if l.desc.isNone ∧ l.selectedAt + 1 = d.dcc then s.checkDescriptor slot l else s
    | none =>
      if s.maySelect slot then
        match (s.unit slot).best with
        | some (tag, e) => s.selectCandidate slot tag e
        | none => s
      else s)

/-! ### The start (R287, R289, R67, R94, R95) -/

/-- The tile's share of one dimension, and what is left of the tile number (R95). -/
def share (r g n : Nat) : Nat × Nat × Nat :=
  let blk := ceilDiv n g
  let org := min (r % g * blk) n
  (r / g, org, min blk (n - org))

/-- The shares of a tile in the four dimensions: origins and extents (R95). -/
def sharesOf (tile : Nat) (g n : List Nat) : List (Nat × Nat) :=
  if g.foldl (· * ·) 1 ≤ tile then List.replicate 4 (0, 0)
  else ((List.range 4).foldl (fun (acc : Nat × List (Nat × Nat)) k =>
      let (r, org, ext) := share acc.1 (g.getD k 1) (n.getD k 1)
      (r, acc.2 ++ [(org, ext)])) (tile, [])).2

/-- State of a tile at offset 0 of the first bay (R289 and the rules it names): the supervisor's copies and queues, tables, store
and z registers stay. -/
def Tile.startLaunch (t : Tile) (x : Descriptor) (argument : Word) (tile dcc : Nat) (privileged : Bool) : Tile :=
  let sh := sharesOf tile (x.g.toList.map BitVec.toNat) (x.n.toList.map BitVec.toNat)
  { t with
    s := Vector.ofFn fun i => if i.val = 0 then argument else if i.val < 8 then x.args.getD (i.val - 1) 0 else 0
    v := .replicate 32 .zero, p := .replicate 8 false, m := .replicate 8 0
    user := { Thread.reset with pc := x.entry }
    inSup := false, privileged := privileged, cap := .reset
    mx := { MxState.reset with store := t.mx.store, directory := t.mx.directory }
    ep := .reset, gn := .reset, ns := .reset
    sv := { t.sv with flight := [], current := 2 }
    dm := { DmState.reset with copies := t.dm.copies }
    sy := .reset, tm := .reset
    id := { IdState.reset with org := Vector.ofFn (fun i => BitVec.ofNat 64 (sh.getD i.val (0, 0)).1),
                               ext := Vector.ofFn fun i => BitVec.ofNat 64 (sh.getD i.val (0, 0)).2 }
    running := true, halted := false, loose := false, looseNext := false, arrived := false, stopped := false, bay := 0, bayStart := dcc, retired := 0
    irqs := [], ready := false, supHalted := false, debugHeld := false, groupHalted := false, event := none, later := 0
    record := .replicate 16 0, landingLog := [], holds := [], known := [], knownNext := [], timedId := 0 }

/-- OFFSET 0 of the first bay on every tile: the launch counter takes the tile count, and the desk and the pier start anew
(R280, R287, R289, R303). -/
def State.startLaunch (s : State) (slot : Nat) (l : Launch) (x : Descriptor) : State :=
  let s := s.flushDesk slot
  let e := s.entry slot l.tag
  let dcc := (s.domain slot).dcc
  let privileged := (s.unit slot).supKernels.contains x.entry
  let sites := s.domainSites slot
  let s := sites.foldl (fun s k => s.mapTile k fun t => t.startLaunch x e.argument (s.flat slot k) dcc privileged) s
  let s := { s with badRegs := s.badRegs.filter fun r => !sites.contains r.1 }
  let s := s.setEntry slot l.tag { e with state := .running }
  let h := launchHandle slot l.tag
  let w := counterWith (s.counter h) sites.length
  let s := s.setCounter h ((w &&& 0xFFFF0000FFFFFFFF#64) ||| (e.parent <<< 32))
  s.mapDomain slot fun d =>
    { d with launch := some { l with started := true, lastHalt := none, lastWrite := 0, lastReply := 0 }, desk := { Desk.reset with pool := x.pool },
             pier := d.pier.begin, realignFrom := dcc, pausedUntil := 0, sigma := 0 }

/-- The launch starts at s + 2048 (R287). -/
def execLaunchStart (slot : Nat) (s : State) : Result :=
  .next (match (s.domain slot).launch with
    | some l =>
      match l.desc with
      | some x => if l.started ∨ l.restoring then s else s.startLaunch slot l x
      | none => s
    | none => s)

/-! ### Tasks, completion, promotion (R280, R291, R294) -/

/-- A task's end has been counted: it has halted, and what its halt releases at system scope has performed (spec/12 R255). -/
def Tile.taskCounted (t : Tile) : Bool := t.halted && t.holds.isEmpty

/-- The launch counter of a running launch holds the tasks whose end it has not counted; the last leaves 1 until completion (R280). -/
def State.countTasks (s : State) (slot : Nat) : State :=
  match (s.domain slot).launch with
  | some l =>
    if l.started then
      let n := ((s.domainSites slot).filter fun k => !(s.tile k).taskCounted).length
      let h := launchHandle slot l.tag
      s.setCounter h (counterWith (s.counter h) (max 1 n))
    else s
  | none => s

/-- The last cycles with a write or a reply open, as the present cycle leaves them (R294). -/
def State.noteOpen (s : State) (slot : Nat) : State :=
  let d := s.domain slot
  match d.launch with
  | some l =>
    if l.started ∧ !d.frozen then
      let l := { l with lastWrite := if s.openWrites slot || s.openKnown slot then d.dcc else l.lastWrite,
                        lastReply := if s.openReplies slot then d.dcc else l.lastReply }
      s.setDomain slot { d with launch := some l }
    else s
  | none => s

/-- Every task has ended, and x has come: max(h + pier latency, wlast + 1, rlast + 1) (R294). -/
def State.launchOver (s : State) (slot : Nat) : Bool :=
  let d := s.domain slot
  match d.launch with
  | some l =>
    l.started && d.draining.isNone && !d.frozen && (s.domainSites slot).all (fun k => (s.tile k).halted) &&
      (match l.lastHalt with | some h => decide (h + (d.spec.pierLatency : Int) ≤ (d.dcc : Int)) | none => false) &&
      decide (l.lastWrite < d.dcc) && decide (l.lastReply < d.dcc)
  | none => false

/-- A tile's record or kept event is of class 1 to 5 (spec/20 R369). -/
def Tile.failedTask (t : Tile) : Bool :=
  let bad (cause : Nat) : Bool := decide (1 ≤ cause / 0x1000) && decide (cause / 0x1000 ≤ 5)
  bad (wbits (t.record.getD 0 0) 63 48) || (match t.event with | some e => bad e.cause | none => false)

/-- The tags that a completion passes over: candidates of a class below that of the launch at its start (R291). -/
def State.passedOver (s : State) (slot cls : Nat) : List Nat :=
  ((s.unit slot).candidates.filter fun p => p.2.cls < cls).map (·.1)

/-- LAUNCH COMPLETION at x: the counter becomes 0, and the domain is idle from x + 1 (R294). -/
def State.completeLaunch (s : State) (slot : Nat) (l : Launch) : State :=
  let failed : Bool := (s.domainSites slot).any fun k => (s.tile k).failedTask
  let e := s.entry slot l.tag
  let h := launchHandle slot l.tag
  let w := counterMark (counterWith (s.counter h) 0) failed false
  let s := (s.setEntry slot l.tag { e with state := if e.keep then .armed else .free }).setCounter h w
  -- its counter reached 0 by the last task's end: parent and dependents act at x + 1 (R281)
  let u := s.unit slot
  let s := s.setUnit slot { u with zeroed := u.zeroed ++ [(h, w)] }
  let s := s.mapDomainTiles slot fun t => { t with running := false, irqs := [] }
  s.mapDomain slot fun d => { d with launch := none, idleFrom := d.dcc + 1 }

def execLaunchCompletion (slot : Nat) (s : State) : Result :=
  .next (match (s.domain slot).launch with
    | some l =>
      if s.launchOver slot then
        let tags := s.passedOver slot l.classAtStart
        let s := s.completeLaunch slot l
        { s with agenda := tags.map (fun t => ⟨0, slot, Origin.none, .priorityPromotion slot t⟩) ++ s.agenda }
      else s
    | none => s)

/-- A candidate has been passed over once more; when the count exceeds its patience its class rises (R291). -/
def ArmEntry.passOver (e : ArmEntry) : ArmEntry :=
  let n := e.passes + 1
  if e.patience < n ∧ e.patience < 2047 then { e with cls := min 3 (e.cls + 1), passes := 0 } else { e with passes := n }

def execPriorityPromotion (slot tag : Nat) (s : State) : Result :=
  .next (s.setEntry slot tag (s.entry slot tag).passOver)

/-! ### Pre-emption by priority (R292) -/

/-- A candidate of strictly higher class pre-empts the running launch. -/
def State.preempts (s : State) (slot : Nat) : Bool :=
  let d := s.domain slot
  match d.launch, (s.unit slot).best with
  | some l, some (_, e) => l.started && !d.frozen && !d.preempting && decide ((s.entry slot l.tag).cls < e.cls) && !s.saveRefused slot
  | _, _ => false

def execPreemption (slot : Nat) (s : State) : Result :=
  .next (if s.preempts slot then s.planStop slot .preempt else s)

/-! ### Cancels (R295, R416) -/

/-- A launch that is stopped for good: its drain ends with the entry free. -/
def State.cancelRunning (s : State) (slot : Nat) : State :=
  let d := s.domain slot
  if d.frozen then s.endFreeze slot
  else if d.draining.isSome then s.mapDomain slot Domain.cancelDrain
  else s.planStop slot .cancel

/-- The saved context of an entry is discarded: its save area is left as written, and its commands never perform (R295). -/
def State.discardSaved (s : State) (slot tag : Nat) : State :=
  let u := s.unit slot
  s.setUnit slot { u with away := u.away.filter fun x => x.tag ≠ tag }

/-- A cancel of one entry (R295). -/
def State.cancelOne (s : State) (slot tag : Nat) : State :=
  let d := s.domain slot
  let e := s.entry slot tag
  match e.state with
  | .free => s
  | .armed | .waiting => s.cancelEntry slot tag
  | .starting =>
    (s.cancelEntry slot tag).mapDomain slot fun d => { d with launch := none, stopNext := [], idleFrom := d.dcc + 1 }
  | .preempted => (s.discardSaved slot tag).cancelEntry slot tag
  | .running =>
    match d.launch with
    | some l => if l.tag = tag then s.cancelRunning slot else s
    | none => s

/-- The parent chain of a counter passes through a handle; chains have at most four links. -/
def State.chainHas (s : State) (h : Word) : Nat → Word → Bool
  | 0, k => k == h
  | n + 1, k => k == h || (let p := counterParent (s.counter k); p != 0 && State.chainHas s h n p)

/-- The launch counter of an entry, whose parent the entry names. -/
def State.entryUnder (s : State) (slot : Nat) (h : Word) (p : Nat × ArmEntry) : Bool :=
  launchHandle slot p.1 == h || (p.2.parent != 0 && s.chainHas h 4 p.2.parent)

/-- Slots whose counters and entries a cancel may reach. -/
def State.unitSlots (s : State) (slot : Nat) : List Nat :=
  slot :: ((s.units.map (·.1)).filter fun k => k ≠ slot ∧ s.slotInPartition slot k)

/-- C is set on the cancelled counter and on every counter below it. -/
def State.markCancelled (s : State) (slot : Nat) (h : Word) : State :=
  let below : List Word := (s.unitSlots slot).flatMap fun k =>
    ((s.unit k).counters.map fun c => BitVec.ofNat 64 (k * 4096 + c.1)).filter fun c => s.chainHas h 4 c
  (h :: below).foldl (fun s c => s.setCounter c (counterMark (s.counter c) false true)) s

/-- The entries that a cancel acts on. -/
def State.cancelled (s : State) (slot : Nat) (h : Word) : List (Nat × Nat) :=
  (s.unitSlots slot).flatMap fun k =>
    (((s.unit k).entries.filter fun p => p.2.state ≠ .free).filter fun p => s.entryUnder k h p).map fun p => (k, p.1)

/-- Why a cancel changes nothing: already cancelled, or a free entry (R295, R297). -/
def State.cancelRefused (s : State) (slot : Nat) (h : Word) : Option Nat :=
  if counterC (s.counter h) then some 3
  else if handleLevel h = 0 ∧ (s.entry slot (handleIndex h)).state = .free then some 2
  else none

/-- Flit 0 of a cancel's reply: word 0 of the entry, or the counter word. -/
def State.cancelFlit (s : State) (slot : Nat) (h : Word) : Word :=
  if handleLevel h = 0 then (s.entry slot (handleIndex h)).word0 else s.counter h

/-- CANCEL of a counter (R295). -/
def State.cancelHandle (s : State) (slot : Nat) (h : Word) : State :=
  let l := s.cancelled slot h
  l.foldl (fun s p => s.cancelOne p.1 p.2) (s.markCancelled slot h)

def execCancel (slot : Nat) (handle : Word) (reply : Option Nat) (s : State) : Result :=
  let s := match reply with | some site => s.dropRequestOf slot site (.cancel handle) | none => s
  let (s, status) := match s.cancelRefused slot handle with
    | some x => (s, x)
    | none => (s.cancelHandle slot handle, 0)
  .next (s.replyTo slot reply 0x08 status (s.cancelFlit slot handle))

/-- An 8-byte host write to a cancel port; a word that is no handle of the slot cancels nothing (spec/13 R271). -/
def execHostCancelPortWrite (slot : Nat) (word : Word) (s : State) : Result :=
  .next (if !handleOk word || handleSlot word != slot then s
    else match s.cancelRefused slot word with
      | some _ => s
      | none => s.cancelHandle slot word)

/-- The drain has ended in an earlier cycle. -/
def DrainState.overBy (x : DrainState) (now : Nat) : Bool := x.doneAt.any fun e => decide (e < now)

/-- At the cycle after the drain the cancelled entry becomes free, with C = 1 (R295). -/
def execCancelDrainComplete (slot : Nat) (s : State) : Result :=
  .next (match (s.domain slot).draining, (s.domain slot).launch with
    | some x, some l =>
      if !x.cancel ∨ !x.overBy (s.domain slot).dcc then s
      else
        let failed : Bool := (s.domainSites slot).any fun k => (s.tile k).failedTask
        let s := s.endEntry slot l.tag .free failed true
        let s := s.mapDomainTiles slot Tile.vacate
        (s.forgetGrants slot).mapDomain slot fun d =>
          { d with draining := none, launch := none, idleFrom := d.dcc + 1, reach := [], sigma := 0,
                   pier := d.pier.begin }
    | _, _ => s)

end Sys2Proof.Machine
end

