-- ==== Sys2Proof/Machine/Fabric.lean ====
section
/-!
DEFINITION. The Alaquezen fabric of the module: schedules and the HBM windows of their frames, frames sent and received, retries and
holds, the time beacon, launch messages and collectives (spec/13 R260 to R269).
-/
namespace Sys2Proof

/-- Fields of a schedule entry (R261). -/
def ScheduleEntry.kind (e : ScheduleEntry) : Nat := e.w0.toNat / 2 ^ 60
def ScheduleEntry.dir (e : ScheduleEntry) : Nat := e.w0.toNat / 2 ^ 56 % 16
def ScheduleEntry.bay (e : ScheduleEntry) : Nat := e.w0.toNat / 2 ^ 40 % 2 ^ 16
def ScheduleEntry.first (e : ScheduleEntry) : Nat := e.w0.toNat / 2 ^ 16 % 2 ^ 24
def ScheduleEntry.count (e : ScheduleEntry) : Nat := e.w0.toNat % 2 ^ 16
def ScheduleEntry.peer (e : ScheduleEntry) : Nat := e.w2.toNat / 2 ^ 48
def ScheduleEntry.tag (e : ScheduleEntry) : Nat := e.w2.toNat / 2 ^ 40 % 256
def ScheduleEntry.collective (e : ScheduleEntry) : Nat := e.w2.toNat / 2 ^ 32 % 256

/-- Padded fabric crossing Pf (R263). -/
def DomainSpec.fabricCrossing (d : DomainSpec) : Nat := if d.longFabric then 896 else 448

/-- A slack slot (R260). -/
def slackSlot (k : Nat) : Bool := k % 16 == 15

/-- Slot of the f-th frame from slot k on: slack slots are skipped (R261). -/
def frameSlot (k f : Nat) : Nat := k + f + (k % 16 + f) / 15

/-- Offset of the first block of a frame: 7k − 64 for a send, which may lie before the bay, 7(k + 1) + Pf for a receipt; as a cycle. -/
def DomainSpec.frameCycle (d : DomainSpec) (bayStart k : Nat) (receives : Bool) : Nat :=
  if receives then bayStart + 7 * (k + 1) + d.fabricCrossing else bayStart + 7 * k - 64

/-- The lowest leaf on the left of a tree: the module that holds its root (notes/assumptions/82.md). -/
def RankTree.home : RankTree → Nat
  | .leaf r => r
  | .node l _ => l.home

/-- The nodes a module holds, from its leaf up: the modules whose values it takes in as right operands. -/
def RankTree.partners (m : Nat) : RankTree → List Nat
  | .leaf _ => []
  | .node l r => if l.home = m then l.partners m ++ [r.home] else l.partners m ++ r.partners m

end Sys2Proof

namespace Sys2Proof.Machine

/-! ### Loading a schedule (R261, R262) -/

/-- An entry by itself: no reserved value, no slack slot named first. -/
def ScheduleEntry.fine (e : ScheduleEntry) : Bool :=
  decide (e.kind ≤ 4) && decide (e.dir ≤ 1) && decide (1 ≤ e.count) && !slackSlot e.first && wbits e.w2 31 0 == 0 && e.w3 == 0 &&
    hbmSpaces.contains (ptrSpace e.w1) && ptrMbz e.w1

/-- Two entries use one slot in one direction; an idle entry uses none (notes/assumptions/99.md). -/
def ScheduleEntry.meets (a b : ScheduleEntry) : Bool :=
  a.kind != 0 && b.kind != 0 && a.dir == b.dir && a.bay == b.bay &&
    decide (a.first ≤ frameSlot b.first (b.count - 1)) && decide (b.first ≤ frameSlot a.first (a.count - 1))

/-- The first entry for which a load fails. -/
def scheduleError (l : List ScheduleEntry) : Option Nat :=
  (List.range l.length).find? fun i =>
    decide (4096 ≤ i) || !((l[i]?).map fun e => ScheduleEntry.fine e && !((l.take i).any fun o => ScheduleEntry.meets o e)).getD true

/-- The collectives that system software configures with a schedule (R269); a format that none takes leaves its collective out. -/
def configureCollectives (l : List CollectiveSpec) (t : Table Collective) : Table Collective :=
  l.foldl (fun t c =>
    match Fmt.ofCode c.fmt with
    | some f =>
      if [Fmt.f32, .bf16, .i32, .i64, .n32, .n64].contains f ∧ c.op ≤ 2 then Table.put t c.id ⟨c.op, f, c.count, c.tree, [], []⟩ else t
    | none => t) t

/-- System software loads a port's schedule, with the collectives it uses; a load that fails names its entry, and no launch starts until
one succeeds (R261, R269). -/
def execFabricScheduleLoad (_slot port : Nat) (schedule : PortSchedule) (s : State) : Result :=
  let p := s.port port
  .next (match scheduleError schedule.entries with
    | some i => s.setPort port { p with schedule := [], loadError := some i }
    | none =>
      { s with collectives := configureCollectives schedule.collectives s.collectives }.setPort port
        { p with schedule := schedule.entries, loadError := none })

/-! ### The frames of a bay (R262) -/

/-- Where a frame stands in HBM: in the region of its entry, or, for a launch message received, in the receive region of the armed entry
with its tag, none while it is not armed (R262, R268). -/
def State.framePlace (s : State) (slot : Nat) (e : ScheduleEntry) : Option (Nat × Nat) :=
  let receives : Bool := e.dir == 1
  if e.kind = 2 ∧ receives then
    (let x := s.entry slot e.tag
     if x.state = .armed ∧ wbits x.w2 63 48 ≠ 0 then some (4, x.region) else none)
  else match s.translate slot (s.rangeTable slot false) (ptrSpace e.w1) (ptrVirtual e.w1) (1024 * e.count) (!receives) receives false with
    | .ok p => some (ptrSpace e.w1, p)
    | .bad _ => none

/-- The four blocks of frame f with their windows by the rule of R238. -/
def frameBlocks (place : Option (Nat × Nat)) (f t : Nat) : List Block :=
  match place with
  | some (space, p) => placeBlocks t (blocksOf space (p + 1024 * f) 1024 0)
  | none => []

/-- The frame of a schedule as a command of the fabric interface: port, entry, frame and slot in `work`. -/
def State.frameCommand (s : State) (slot port i f : Nat) (e : ScheduleEntry) (bayStart : Nat) : Command :=
  let d := s.domain slot
  let head := (s.domainSites slot).headD 0
  let k := frameSlot e.first f
  let receives : Bool := e.dir == 1
  let t := d.spec.frameCycle bayStart k receives
  let place := s.framePlace slot e
  let bs := frameBlocks place f t
  let last := ((bs.getLast?).map fun b => 4 * b.window + 4).getD t
  { id := s.nextId, form := .fabric, site := head, slot := slot, supTable := false, word := 0, o1 := e.w1, o2 := 0, dp := .replicate 4 0,
    loose := false, launch := 0, bayStart := bayStart, fired := d.dcc, stack := ((place.map (·.2)).getD 0) / 2 ^ 36, owned := true, di := 0, dt := 0,
    owner := head, off := 0, targets := [], phase := .started, acceptAt := d.dcc, startAt := d.dcc,
    busyUntil := max last (t + 320), blocks := bs, split := if receives then 0 else max 1 bs.length, rot0 := 0, rotCount := 0,
    table := .replicate 64 (0, 0), p0 := (place.map (·.2)).getD 0, p1 := 0, index := [], buffer := [], bad := [], sched := [],
    work := [port, i, f, k], need := .nothing, progress := 0, draw := ⟨0, 0, 0⟩, codeTable := resetCodeTable 0, block := [], waits := [],
    release := none, places := [], rank := s.nextId, from_ := Origin.none }

/-- A timed command that holds a window of a frame came after the schedule's claim: it is a window collision, found when the bay's start is
known (R262, spec/10 R214; notes/assumptions/81.md). -/
def State.yieldWindows (s : State) (slot : Nat) (c : Command) : State :=
  let rivals := (s.domain slot).commands.filter fun o => o.form ≠ .fabric ∧ (o.phase = .accepted ∨ o.phase = .started)
  rivals.foldl (fun s o =>
    match windowMeet o c with
    | some w => s.failCommand slot o 0x3007 (BitVec.ofNat 64 w) ((if refreshWindow w then 2 ^ 63 else 0) + s.flat slot c.site)
    | none => s) s

/-- What collectives hold of bays whose frames are all over is forgotten. -/
def Collective.forget (x : Collective) (bays : List Nat) : Collective :=
  { x with contributions := x.contributions.filter fun p => bays.contains (p.1 / 2 ^ 40), combined := x.combined.filter fun p => bays.contains (p.1 / 2 ^ 24) }

/-- The frames of a bay's entries take their windows (R262). -/
def State.openFrames (s : State) (slot bay bayStart : Nat) : State :=
  let bays := bayStart :: ((s.domain slot).commands.filter fun c => c.form == .fabric).map (·.bayStart)
  let s := { s with collectives := s.collectives.map fun (p : Nat × Collective) => (p.1, p.2.forget bays) }
  s.ports.foldl (fun s p =>
    (p.2.schedule.zipIdx).foldl (fun s (e, i) =>
      if e.bay = bay ∧ (e.kind = 1 ∨ e.kind = 2 ∨ e.kind = 3) then
        (List.range e.count).foldl (fun s f =>
          let c := s.frameCommand slot p.1 i f e bayStart
          (s.yieldWindows slot c).fresh.mapDomain slot fun d => { d with commands := d.commands ++ [c] }) s
      else s) s) s

/-- The next bay of a domain whose start is fixed: the first of a launch that is starting, or the one a pier's release begins. -/
def State.nextBay (s : State) (slot : Nat) : Option (Nat × Nat) :=
  let d := s.domain slot
  match d.launch with
  | some l =>
    if !l.started then (if l.desc.isSome ∧ !l.restoring then some (0, l.startAt) else none)
    else d.pier.releaseAt.map fun r => ((s.tile ((s.domainSites slot).headD 0)).bay + 1, r)
  | none => none

/-- A bay's start has become known: its frames take their windows; a launch that has left takes its frames along. -/
def State.openBay (s : State) (slot : Nat) : State :=
  let d := s.domain slot
  if d.spec.cls ≠ .multi then s
  else match s.nextBay slot with
    | some (bay, start) => if d.commands.any fun c => c.form == .fabric && c.bayStart == start then s else s.openFrames slot bay start
    | none => if d.launch.isNone then s.setDomain slot { d with commands := d.commands.filter fun c => c.form ≠ .fabric } else s

/-! ### Frames (R260, R262, R264) -/

def Command.frameOf (c : Command) (port : Nat) : Bool := c.form == .fabric && c.work.headD 99 == port
def Command.frameSend (c : Command) : Bool := decide (0 < c.split)
def Command.frameSlotNo (c : Command) : Nat := c.work.getD 3 0

/-- The entry of a frame. -/
def State.frameEntry (s : State) (c : Command) : Option ScheduleEntry := (s.port (c.work.getD 0 0)).schedule[c.work.getD 1 0]?

/-- The bytes a frame has read, in order; sectors that were not read carry free values. -/
def Command.frameBytes (c : Command) : List Byte :=
  (c.blocks.zipIdx).flatMap fun (b, i) => (List.range 8).flatMap fun k =>
    if b.hasSector k then
      (Table.find c.buffer (8 * i + k)).getD (freeBytes (c.id + 8 * i + k) (b.sectorSpan k).2)
    else []

/-- Elements of a frame's part of a contribution. -/
def elementsOf (w : Nat) (bs : List Byte) : List (List Byte) :=
  (List.range (bs.length / max 1 w)).map fun i => (bs.drop (w * i)).take w

/-- One element combined: f32 as fadd, fmin and fmax; integers exact (R269). -/
def combineElement (op : Nat) (f : Fmt) (a b : List Byte) : List Byte :=
  let w := a.length
  let form : DmForm := match op with | 0 => .radd | 1 => .rmin | _ => .rmax
  let (x, y) := (leNat a, leNat b)
  match f with
  | .f32 => reduceElement form (Fmt.code .f32) a b
  | _ =>
    let val (n : Nat) : Int := if f.isSigned then (BitVec.ofNat (8 * w) n).toInt else n
    match op with
    | 0 => leBytes w (x + y)
    | 1 => if val y < val x then b else a
    | _ => if val x < val y then b else a

/-- bf16 contributions are widened exactly to f32, combined there, and rounded once (R269). -/
def widenBf16 (e : List Byte) : List Byte := [0, 0] ++ e
def narrowBf16 (e : List Byte) : List Byte :=
  leBytes 2 (convertElem .f32 .bf16 (resetCodeTable 0) .rne false 0 (leNat e)).1

/-- One element of the values combined in their order, bf16 in f32 (R269). -/
def Collective.foldRow (x : Collective) (row : List (List Byte)) : List Byte :=
  (row.drop 1).foldl (combineElement x.op (if x.fmt = .bf16 then .f32 else x.fmt)) (row.headD [])

/-- The ranks whose frames a module combines, in order: all of them in exact-order form, its own and its nodes' right operands in tree form
(R269). -/
def Collective.operands (x : Collective) (rank modules : Nat) : List Nat :=
  match x.tree with
  | none => List.range modules
  | some t => rank :: t.partners rank

/-- Rank of the module that sends the result to all: none in exact-order form (R269). -/
def Collective.root (x : Collective) : Option Nat := x.tree.map RankTree.home

/-- The module's combination of a collective is its result: in exact-order form, and at the root of the tree. -/
def Collective.final (x : Collective) (rank : Nat) : Bool := match x.root with | some r => r == rank | none => true

/-- Bytes of an element of the value that a module sends to its tree's parent: what a node has combined of bf16 contributions is still f32,
so that the result is rounded once (R269; notes/assumptions/82.md). -/
def Collective.valueWidth (x : Collective) (m : Nat) : Nat :=
  match x.tree with
  | some t => if x.fmt = .bf16 ∧ !(t.partners m).isEmpty then 4 else x.fmt.width / 8
  | none => x.fmt.width / 8

/-- Bytes of an element of a module's own contribution, or of the value another has sent it. -/
def Collective.operandWidth (x : Collective) (rank m : Nat) : Nat := if m = rank then x.fmt.width / 8 else x.valueWidth m

/-- Keys of a frame of a rank's value in a bay, and of a combined frame. -/
def valueKey (bayStart m f : Nat) : Nat := (bayStart * 2 ^ 16 + m) * 2 ^ 24 + f
def combinedKey (bayStart f : Nat) : Nat := bayStart * 2 ^ 24 + f

/-- Element i of the value of a module, widened if it is bf16. -/
def Collective.element (x : Collective) (bayStart rank m i : Nat) : Option (List Byte) :=
  let w := x.operandWidth rank m
  (Table.find x.contributions (valueKey bayStart m (i * w / 1024))).map fun bs =>
    let e := (bs.drop (i * w % 1024)).take w
    if x.fmt = .bf16 ∧ w = 2 then widenBf16 e else e

/-- Frame f of a module's combination in a bay, once every operand is there: the result in exact-order form and at the tree's root, else the
module's value in the tree. What a last frame holds beyond the element count is a free value where an operand has none. -/
def Collective.combine (x : Collective) (bayStart rank modules f : Nat) : Option (List Byte) :=
  let ms := x.operands rank modules
  let wo := if x.final rank then x.fmt.width / 8 else x.valueWidth rank
  let n := 1024 / wo
  if ms = [rank] then Table.find x.contributions (valueKey bayStart rank f)
  else
    let es := (List.range n).map fun j =>
      let i := f * n + j
      let row := ms.map fun m => x.element bayStart rank m i
      if row.any Option.isNone then (if i < x.count then none else some (freeBytes (1024 * f + wo * j) wo))
      else
        let r := x.foldRow (row.map fun e => e.getD [])
        some (if x.fmt = .bf16 ∧ wo = 2 then narrowBf16 r else r)
    if es.any Option.isNone then none else some (es.flatMap fun e => e.getD [])

/-- A frame of a rank's value is there. -/
def State.contribute (s : State) (id bayStart rank f : Nat) (bs : List Byte) : State :=
  match Table.find s.collectives id with
  | some x => { s with collectives := Table.put s.collectives id { x with contributions := Table.put x.contributions (valueKey bayStart rank f) bs } }
  | none => s

/-- The frames of a bay's kind-3 entries that share a collective, a direction and a peer count on from entry to entry in the order of their
slots: the frame of a command in that count (notes/assumptions/82.md). -/
def State.collectiveFrame (s : State) (c : Command) (e : ScheduleEntry) : Nat :=
  let place (x : ScheduleEntry) (port i : Nat) : Nat := (x.first * 16 + port) * 4096 + i
  let mine := place e (c.work.getD 0 0) (c.work.getD 1 0)
  s.ports.foldl (fun n p => (p.2.schedule.zipIdx).foldl (fun n (x, i) =>
    if x.kind = 3 ∧ x.dir = e.dir ∧ x.bay = e.bay ∧ x.collective = e.collective ∧ x.peer = e.peer ∧ place x p.1 i < mine then n + x.count else n) n)
    (c.work.getD 2 0)

/-- What a contribution frame carries: what this module has combined, in tree form, else its own contribution. -/
def State.sendBytes (s : State) (slot : Nat) (c : Command) : List Byte :=
  let own := c.frameBytes
  let d := s.domain slot
  match s.frameEntry c with
  | some e =>
    if e.kind = 3 then
      match Table.find s.collectives e.collective with
      | some x =>
        let f := s.collectiveFrame c e
        let y := { x with contributions := Table.put x.contributions (valueKey c.bayStart d.spec.rank f) own }
        if x.tree.isSome then (y.combine c.bayStart d.spec.rank d.spec.modules f).getD own else own
      | none => own
    else own
  | none => own

/-- The frame of a port's slot is sent (R260, R262). -/
def State.sendFrame (s : State) (slot port : Nat) (c : Command) : State :=
  let p := s.port port
  let s' := s.setPort port { p with sent := p.sent ++ [(c.frameSlotNo, s.sendBytes slot c)] }
  let s' := s'.dropCommand slot c.id
  match s.frameEntry c with
  | some e => if e.kind = 3 then s'.contribute e.collective c.bayStart (s.domain slot).spec.rank (s.collectiveFrame c e) c.frameBytes else s'
  | none => s'

/-- The cycle at which a frame's bytes are complete: the begin of its slot, or the last sector of blocks whose windows R238 puts later
(R262; notes/assumptions/81.md). -/
def Command.frameCycle (c : Command) : Nat :=
  c.blocks.foldl (fun n b => max n (4 * b.window + (b.hi - 1) / 64)) (c.bayStart + 7 * c.frameSlotNo)

/-- The scheduled frames that a port sends at this cycle. -/
def Domain.framesDue (d : Domain) (port : Nat) : List Command :=
  d.commands.filter fun c => c.frameOf port && c.frameSend && c.frameCycle == d.dcc

/-! Frames of copies to other endpoints (R270) -/

/-- A port leads to an endpoint: an entry of its schedule names it as peer, or it has no schedule (notes/assumptions/84.md). -/
def Port.reaches (p : Port) (endpoint : Nat) : Bool := p.trained && (p.schedule.isEmpty || p.schedule.any fun e => e.peer == endpoint)

/-- The slot of a port that begins at an offset of a bay may carry a copy's bytes to an endpoint: an open slot towards it, or a slack slot
in which no frame is sent again. -/
def Port.openFor (p : Port) (bay k endpoint : Nat) : Bool :=
  if slackSlot k then p.resends.isEmpty && p.reaches endpoint
  else p.schedule.any fun e =>
    e.kind == 4 && e.dir == 0 && e.bay == bay && e.peer == endpoint && (List.range e.count).any fun f => frameSlot e.first f == k

/-- The copies whose bytes wait for a slot, in the order of their acceptance, with their domains. -/
def State.copyFrames (s : State) : List (Nat × Command) :=
  sortBy (fun (a b : Nat × Command) => decide (a.2.rank < b.2.rank))
    (s.domains.flatMap fun p => (p.2.commands.filter fun c => c.form == .ucopy && c.need == .frame).map fun c => (p.1, c))

/-- The copy that takes the slot of a port at this cycle: of a multi-module domain's bay, or, in a module without one, of the reference
clock. -/
def State.copyFrameDue (s : State) (slot port : Nat) : Option (Nat × Command) :=
  let d := s.domain slot
  if d.spec.cls = .multi then
    let head := s.tile ((s.domainSites slot).headD 0)
    let off := head.bayOffset d.dcc
    if off % 7 ≠ 0 then none else s.copyFrames.find? fun x => (s.port port).openFor head.bay (off / 7) x.2.endpoint
  else if s.tick % 7 ≠ 0 ∨ (s.domains.any fun p => p.2.spec.cls == .multi) then none
  else (s.copyFrames.find? fun x => (s.port port).reaches x.2.endpoint).filter fun x => x.1 == slot

/-- A copy's bytes leave by a port. -/
def State.sendCopyFrame (s : State) (port k : Nat) (x : Nat × Command) : State :=
  let c := x.2
  let p := s.port port
  (s.setPort port { p with sent := p.sent ++ [(k, c.chunkBytes)] }).planCommand x.1 { c.afterChunk with need := .nothing }

/-- Slot of the bay that begins at this cycle, by the head tile's offset. -/
def State.slotNow (s : State) (slot : Nat) : Option Nat :=
  let off := (s.tile ((s.domainSites slot).headD 0)).bayOffset (s.domain slot).dcc
  if off % 7 = 0 then some (off / 7) else none

/-- A frame may be sent again now: in a slack slot, and during a hold (R264, R265). -/
def State.resendTime (s : State) (slot : Nat) : Bool :=
  let d := s.domain slot
  (d.frozen && d.use == .hold) || (match s.slotNow slot with | some k => slackSlot k | none => false)

/-- The frame of an earlier slot goes again. -/
def State.sendAgain (s : State) (port : Nat) : State :=
  let p := s.port port
  match p.resends with
  | x :: rest => s.setPort port { p with sent := p.sent ++ [x], resends := rest }
  | [] => s

/-- A slot of a port: the frame scheduled for it is sent, or a frame goes again in a slack slot, or a copy to another endpoint takes it: one
frame in a slot (R260, R262, R264, R270). -/
def execFabricFrameSend (slot port : Nat) (s : State) : Result :=
  let due := if (s.domain slot).frozen then [] else (s.domain slot).framesDue port
  .next (if !due.isEmpty then due.foldl (fun s c => s.sendFrame slot port c) s
    else if s.resendTime slot ∧ !(s.port port).resends.isEmpty then s.sendAgain port
    else if (s.domain slot).frozen then s
    else match s.copyFrameDue slot port with
      | some x => s.sendCopyFrame port ((s.tile ((s.domainSites slot).headD 0)).bayOffset (s.domain slot).dcc / 7) x
      | none => s)

/-- The next frame that a port expects: the first that holds no data and awaits no retry. -/
def State.frameExpected (s : State) (slot port : Nat) : Option Command :=
  let before (a b : Command) : Bool := decide (a.bayStart + a.frameSlotNo < b.bayStart + b.frameSlotNo)
  (sortBy before ((s.domain slot).commands.filter fun c =>
    c.frameOf port && !c.frameSend && c.progress == 0 && !(s.port port).retries.any fun r => r.1 == c.id)).head?

/-- Bytes of a frame for the sectors of its blocks, which perform in their windows. -/
def Command.frameSectors (c : Command) (bs : List Byte) : Table (List Byte) :=
  (c.blocks.zipIdx).flatMap fun (b, i) => ((List.range 8).filter b.hasSector).map fun k =>
    (8 * i + k, (bs.drop (b.place + (max b.lo (32 * k) - b.lo))).take (b.sectorSpan k).2)

/-- A launch message's frame takes its place in the region that the arming entry with its tag names as it arrives. Without one, or when the
region is not that of the message's earlier frames, the message is discarded: this frame and the later ones perform nothing (R268;
notes/assumptions/83.md). -/
def State.placeFrame (s : State) (slot : Nat) (c : Command) (e : ScheduleEntry) : State × Command :=
  if e.kind ≠ 2 then (s, c)
  else
    let (port, i, f) := (c.work.getD 0 0, c.work.getD 1 0, c.work.getD 2 0)
    let p := s.port port
    let place := s.framePlace slot e
    let now := ((place.map fun x => x.2 + 1).getD 0)
    let region := if f = 0 ∨ Table.at p.heard 0 i = now then now else 0
    (s.setPort port { p with heard := Table.put p.heard i region },
      { c with blocks := frameBlocks (if region = 0 then none else place) f ((s.domain slot).spec.frameCycle c.bayStart c.frameSlotNo true) })

/-- A frame's payload is taken: its sectors wait for their windows; a contribution joins its collective, and its own windows wait for the
result; the frame of a tree's result is the result (R262, R268, R269). The entry's peer endpoint is the rank of the module that contributes, and
entries that share a collective count their frames on (notes/assumptions/82.md). -/
def State.fillFrame (s : State) (slot : Nat) (c : Command) (bs : List Byte) : State :=
  match s.frameEntry c with
  | some e =>
    let isResult : Bool := match Table.find s.collectives e.collective with
      | some x => x.root == some e.peer && (s.domain slot).spec.rank != e.peer
      | none => false
    if e.kind = 3 ∧ !isResult then
      (s.putCommand slot { c with progress := 2 }).contribute e.collective c.bayStart e.peer (s.collectiveFrame c e) bs
    else
      let (s, c) := s.placeFrame slot c e
      s.putCommand slot { c with progress := 1, buffer := c.frameSectors bs }
  | none => s

/-- A hold is needed (R264, R265): it is announced here, and in a beacon flit to the other modules. -/
def State.needHold (s : State) (slot : Nat) : State :=
  let a := (s.domain slot).dcc
  let s := s.announce slot fun b => { b with hold := some a }
  { s with agenda := ⟨0, slot, Origin.none, .fabricHoldAnnounce ⟨slot, a⟩⟩ :: s.agenda }

/-- A link has failed: a machine check in the tile with flat number 0 of the whole-module domain (R265). -/
def State.linkFailed (s : State) (slot cause number : Nat) : State :=
  match s.siteOfFlat slot 0 with
  | some site => s.raiseBare slot site cause (BitVec.ofNat 64 number) 0 []
  | none => s

/-- A received frame with a bad CRC: it waits for the next slack slot; a second one before the slack slot has served the first, or a
retried one, needs a hold; when three holds have served a frame the link has failed (R264, R265). -/
def State.badFrame (s : State) (slot port : Nat) (retried : Bool) (c : Command) : State :=
  let p := s.port port
  if retried then
    let p := { p with serving := false }
    if p.retries.any fun r => r.1 == c.id && decide (3 ≤ r.2) then
      -- each module takes the machine check
      ((s.setPort port { p with trained := false }).linkFailed slot 0x5005 port).announce slot fun b => { b with failed := some port }
    else (s.setPort port p).needHold slot
  else if p.retries.isEmpty then s.setPort port { p with retries := [(c.id, 0)] }
  else (s.setPort port { p with retries := p.retries ++ [(c.id, 0)] }).needHold slot

/-- A received frame is checked and taken: one in its slot, or, while a retry is served, the retried one (R262, R264). -/
def execFabricFrameReceive (slot port : Nat) (mark : FrameMark) (payload : List Byte) (s : State) : Result :=
  let p := s.port port
  let retried := mark.retried
  let target : Option Command :=
    if retried then (if p.serving then (p.retries.head?).bind fun r => (s.domain slot).command r.1 else none) else s.frameExpected slot port
  .next (match target with
    | none => if retried ∧ p.serving then s.setPort port { p with serving := false, retries := p.retries.drop 1 } else s
    | some c =>
      if mark.crcOk then (s.setPort port (if retried then { p with serving := false, retries := p.retries.drop 1 } else p)).fillFrame slot c payload
      else s.badFrame slot port retried c)

/-- A retry: of a received frame, in a slack slot or a hold, whose next arrival is the retried one; of the sent frame of a slot, which the
receiver has asked for, and which goes again in the next slack slot (R264). -/
def execFrameRetry (_slot port : Nat) (retry : Retry) (s : State) : Result :=
  let p := s.port port
  .next (match retry with
    | .send frame =>
      (match p.sent.reverse.find? fun x => x.1 == frame with
        | some x => s.setPort port { p with resends := p.resends ++ [x] }
        | none => s)
    | .receive => if p.retries.isEmpty then s else s.setPort port { p with serving := true })

/-! ### Holds (R265) -/

/-- Reference-clock cycles of a hold, Hn. -/
def holdCycles : Nat := 448

/-- A hold serves every frame that awaits a retry. -/
def State.serveHold (s : State) : State :=
  { s with ports := s.ports.map fun (p : Nat × Port) => (p.1, { p.2 with retries := p.2.retries.map fun r => (r.1, r.2 + 1) }) }

/-- A hold announced at a DCC a is in force at h = a + 512; one that comes while a hold is pending, or in force, adds
to it, and one in force serves the pending retries once more (R265). -/
def execFabricHoldAnnounce (hold : HoldAnnouncement) (s : State) : Result :=
  let slot := hold.slot
  let d := s.domain slot
  .next (match d.hold with
    | none => s.setDomain slot { d with hold := some (hold.dcc, hold.dcc + 512, holdCycles) }
    | some (a, h, n) =>
      let s := s.setDomain slot { d with hold := some (a, h, n + holdCycles) }
      if d.frozen ∧ d.use = .hold then s.serveHold else s)

/-- Every module freezes at h: the domain clock stops; no supervisor context is entered (R265). -/
def execFabricHold (slot : Nat) (s : State) : Result :=
  .next (match (s.domain slot).hold with
    | some (a, h, _) =>
      (s.serveHold.mapDomain slot fun d => { d with frozen := true, use := .hold }).archiveUncore (s.headDie slot) slot 0x0C 0
        (BitVec.ofNat 64 a) (BitVec.ofNat 64 h)
    | none => s)

/-- The hold's reference cycles have passed: the timetable resumes at h (R265). -/
def execFabricHoldEnd (slot : Nat) (s : State) : Result :=
  .next (s.mapDomain slot fun d => if d.use = .hold then { d with frozen := false, use := .fault, hold := none } else d)

/-! ### The time beacon (R266) -/

/-- What a beacon flit of another module brings besides the time: a throttle change, which every module makes at its DCC, a hold, another
module's arrival at the pier, a link that has failed (R263, R265, R266). -/
def State.heedBeacon (s : State) (slot : Nat) (b : Beacon) : State :=
  let s := s.mapDomain slot fun d =>
    { d with throttleNext := match b.throttle with | some x => some x | none => d.throttleNext,
             pier := match b.arrival with
               | some x => { d.pier with others := d.pier.others.filter (fun o => o.1 ≠ x.1) ++ [x] }
               | none => d.pier }
  let s := s.mapDomain slot Domain.fixRelease
  let s := match b.failed with
    | some port => s.linkFailed slot 0x5005 port
    | none => s
  match b.hold with
  | some a => { s with agenda := ⟨0, slot, Origin.none, .fabricHoldAnnounce ⟨slot, a⟩⟩ :: s.agenda }
  | none => s

/-- A module sends a beacon flit on every port; one that has come from another module brings its announcements, and the master's sets the DCC
so that its arrival equals the carried value plus the padded latency (R266). -/
def execTimeBeacon (slot : Nat) (beacon : Beacon) (s : State) : Result :=
  let d := s.domain slot
  .next (if beacon.sender = d.spec.rank then
      (List.range 16).foldl (fun s p => s.setPort p { s.port p with beacon := some beacon }) s
    else
      match beacon.dcc with
      | some c => (if d.spec.beaconMaster then s else s.setDomain slot { d with dcc := c.toNat + d.spec.fabricCrossing }).heedBeacon slot beacon
      | none => s.heedBeacon slot beacon)

/-- The beacon that a master sends every 1 024 cycles; a hold has been announced when it was needed. -/
def Domain.beacon (d : Domain) : Beacon :=
  { d.plainBeacon with throttle := d.throttleNext, arrival := d.pier.allArrived.map fun a => (d.spec.rank, a) }

/-! ### Launch messages (R268) -/

/-- The last frame of a launch message has been written: the message fires its entry at this cycle, or is refused (R268, R285). -/
def execLaunchMessageComplete (slot tag : Nat) (s : State) : Result :=
  let e := s.entry slot tag
  let discarded : Bool := s.ports.any fun p => (p.2.schedule.zipIdx).any fun (x, i) =>
    x.kind == 2 && x.dir == 1 && x.tag == tag && Table.find p.2.heard i == some 0
  let payload := BitVec.ofNat 64 (4 * 2 ^ 60 + wbits e.w2 47 0)
  let u := s.unit slot
  .next (if discarded then s.countUnarmed slot (BitVec.ofNat 64 tag) else s.setUnit slot { u with fires := u.fires ++ [(tag, .message payload)] })

/-- Tags of the messages whose last frame's last sector performs in this cycle; of a message that has no region, which is discarded, those
whose last frame's windows would begin now (notes/assumptions/83.md). -/
def State.messagesDone (s : State) (slot : Nat) : List Nat :=
  let d := s.domain slot
  d.commands.filterMap fun c =>
    if c.form = .fabric ∧ !c.frameSend ∧ c.progress = 1 then
      match s.frameEntry c with
      | some e =>
        let last := ((c.blocks.getLast?).map fun b => 4 * b.window + (b.hi - 1) / 64).getD (d.spec.frameCycle c.bayStart c.frameSlotNo true)
        if e.kind = 2 ∧ c.work.getD 2 0 + 1 = e.count ∧ last = d.dcc then some e.tag else none
      | none => none
    else none

/-! ### Collectives (R269) -/

/-- Starts of the bays in which values of a collective have come. -/
def Collective.bays (x : Collective) : List Nat := (x.contributions.map fun p => p.1 / 2 ^ 40).eraseDups

/-- Frames, with the starts of their bays, that a collective can combine now and has not combined. -/
def Collective.ready (x : Collective) (rank modules : Nat) : List (Nat × Nat) :=
  x.bays.flatMap fun b => ((List.range (x.count * 4 / 1024 + x.count * (x.fmt.width / 8) / 1024 + 1)).filter fun f =>
    (Table.find x.combined (combinedKey b f)).isNone && (x.combine b rank modules f).isSome).map fun f => (b, f)

/-- The result of a frame goes to the receiving entries that wait for it, whose windows are still to come (R262, R269). -/
def State.deliverResult (s : State) (slot id bayStart f : Nat) (bs : List Byte) : State :=
  let d := s.domain slot
  let mine := d.commands.filter fun c =>
    c.form == .fabric && !c.frameSend && c.progress == 2 && c.bayStart == bayStart &&
      (match s.frameEntry c with | some e => e.kind == 3 && e.collective == id && s.collectiveFrame c e == f | none => false)
  mine.foldl (fun s c => s.putCommand slot { c with progress := 1, buffer := c.frameSectors bs }) s

/-- The fabric interface combines the frames whose contributions are all there; the result goes to the receiving entries' regions in their
windows (R269). -/
def execCollectiveCombine (slot id : Nat) (s : State) : Result :=
  let d := s.domain slot
  .next (match Table.find s.collectives id with
    | none => s
    | some x =>
      (x.ready d.spec.rank d.spec.modules).foldl (fun s (b, f) =>
        let bs := (x.combine b d.spec.rank d.spec.modules f).getD []
        let y := (Table.find s.collectives id).getD x
        let s := { s with collectives := Table.put s.collectives id { y with combined := Table.put y.combined (combinedKey b f) bs } }
        if x.final d.spec.rank then s.deliverResult slot id b f bs else s) s)

end Sys2Proof.Machine
end

