-- ==== Sys2Proof/Machine/Host.lean ====
section
/-!
DEFINITION. The PCIe function: host reads and writes of BAR0 (spec/13 R271, spec/22 R390), the firmware update window (spec/17 R329, spec/22 R400), and the
MMC's mailbox (spec/17 R332, spec/21 R386, spec/22 R394).
-/
namespace Sys2Proof.Machine

/-! ### BAR0 (R271) -/

/-- The areas of BAR0 by offset. -/
inductive HostArea where
  | mailbox | firePort (d : Nat) | cancelPort (d : Nat) | unarmed | msix | arming (slot tag index : Nat) | archive (die entry index : Nat) | firmware
  | none
  deriving DecidableEq, Repr

def hostArea (offset : Nat) : HostArea :=
  if offset < 0x1000 then .mailbox
  else if offset < 0x1100 then .firePort ((offset - 0x1000) / 8)
  else if offset < 0x1200 then .cancelPort ((offset - 0x1100) / 8)
  else if offset < 0x1208 then .unarmed
  else if 0x2000 ≤ offset ∧ offset < 0x2100 then .msix
  else if 0x10000 ≤ offset ∧ offset < 0x30000 then .arming ((offset - 0x10000) / 8192) ((offset - 0x10000) / 32 % 256) (offset / 8 % 4)
  else if 0x100000 ≤ offset ∧ offset < 0x200000 then
    .archive ((offset - 0x100000) / 0x20000) (offset / 32 % 4096) (offset / 8 % 4)
  else if 0x1000000 ≤ offset ∧ offset < 0x2000000 then .firmware
  else .none

/-- What a host write brings to a launch unit waits for the unit's own order of the present cycle (spec/15 R286). -/
def State.arrive (s : State) (i : Instr) : State := { s with inputs := s.inputs ++ [⟨s.tick, i⟩] }

/-- A step that follows within the present one. -/
def State.follow (s : State) (slot : Nat) (i : Instr) : State := { s with agenda := ⟨0, slot, Origin.none, i⟩ :: s.agenda }

/-- A table of words after a host write. -/
def coverPut (t : Table Word) (k : Nat) (c : Cover) (w : Word) : Table Word := Table.put t k (coverWord c (Table.at t 0 k) w)

/-- How a host write completes: a word not aligned, a read-only area and a 4-byte write of a fire or cancel port are aborted, an offset
not listed is unsupported. -/
def writeCompletion (offset : Nat) (c : Cover) : Completion :=
  if offset % 8 ≠ 0 then .abort
  else match hostArea offset with
    | .mailbox | .msix | .arming _ _ _ | .firmware => .success
    | .firePort _ | .cancelPort _ => if c = .full then .success else .abort
    | .unarmed | .archive _ _ _ => .abort
    | .none => .unsupported

/-- The host writes BAR0 at the offset of an 8-byte word, all of it or one half. An access that is aborted or unsupported changes no
state of the device. Areas with a behaviour of their own act in the step that follows; the words of the port areas beyond port 15 have none
(notes/assumptions/85.md). -/
def State.hostWrite (s : State) (offset : Nat) (c : Cover) (w : Word) : State :=
  let s := { s with host := { s.host with completion := writeCompletion offset c } }
  if writeCompletion offset c ≠ .success then s
  else match hostArea offset with
    | .mailbox => { s with host := { s.host with mailbox := coverPut s.host.mailbox (offset / 8) c w } }
    | .msix => { s with host := { s.host with msix := coverPut s.host.msix ((offset - 0x2000) / 8) c w } }
    | .firePort d => if d < 16 then s.arrive (.hostFirePortWrite d w) else s
    | .cancelPort d => if d < 16 then s.arrive (.hostCancelPortWrite d w) else s
    | .arming slot tag index => s.arrive (.armingEntryWrite slot tag index c w)
    | .firmware => s.follow 0 (.firmwareUpdateWrite (offset - 0x1000000) c w)
    | .unarmed | .archive _ _ _ | .none => s

def execHostRegisterWrite (offset : Nat) (cover : Cover) (word : Word) (s : State) : Result := .next (s.hostWrite offset cover word)

/-- Word k of an archive entry. -/
def ArchiveEntry.word (e : ArchiveEntry) (k : Nat) : Word :=
  match k with
  | 0 => e.w0
  | 1 => e.w1
  | 2 => e.w2
  | _ => e.w3

/-- Entry i of a die's archive as the host and the MMC read it; one not written yet reads as zero (spec/22 R387, R390,
notes/assumptions/85.md). -/
def State.archiveRead (s : State) (die i k : Nat) : Word := ((Table.find (s.die die).ring i).map fun e => e.word k).getD 0

/-- A word of BAR0 as the host reads it: none in an area that is only written, or that is not listed. -/
def State.hostWord (s : State) (offset : Nat) : Option Word :=
  match hostArea offset with
  | .mailbox => some (Table.at s.host.mailbox 0 (offset / 8))
  | .msix => some (Table.at s.host.msix 0 ((offset - 0x2000) / 8))
  | .unarmed => some (BitVec.ofNat 64 s.host.unarmed)
  | .arming slot tag index => some ((s.entry slot tag).word index)
  | .archive die i k => some (s.archiveRead die i k)
  | .firePort _ | .cancelPort _ | .firmware | .none => none

/-- The lifecycle state, fuse word 2 bits [2:0] (spec/17 R325). -/
def State.lifecycle (s : State) : Nat := wbits (s.fuse 2) 2 0

/-- What a part still lets the outside read: of a retired one, the archive alone (spec/17 R327; notes/assumptions/59.md). -/
def State.readable (s : State) (area : HostArea) : Bool := s.lifecycle != 7 || match area with | .archive _ _ _ => true | _ => false

/-- A host read of BAR0: 4 or 8 bytes, naturally aligned; anything else, and a read of an area that is only written or no longer readable, is aborted, an
offset not listed unsupported. It changes nothing (spec/13 R271). -/
def State.hostRead (s : State) (offset bytes : Nat) : Completion × Word :=
  if (bytes ≠ 4 ∧ bytes ≠ 8) ∨ offset % bytes ≠ 0 then (.abort, 0)
  else match (s.hostWord offset).filter fun _ => s.readable (hostArea offset) with
    | some w => (.success, if bytes = 8 then w else (w >>> (8 * (offset % 8))) &&& 0xFFFFFFFF#64)
    | none => (if hostArea offset = .none then .unsupported else .abort, 0)

/-- A write at an offset of the update window: the staging store while reduced service is active, else the image that takes effect
at the next reset (R329, R400). -/
def execFirmwareUpdateWrite (offset : Nat) (cover : Cover) (word : Word) (s : State) : Result :=
  let k := offset / 8
  .next (if s.reduced ∧ offset < 2 ^ 20 then s.write64 (stagingAddr (8 * k)) (coverWord cover (s.read64 (stagingAddr (8 * k))) word)
    else { s with host := { s.host with firmware := coverPut s.host.firmware k cover word } })

/-! ### The mailbox (R332, R386, R394) -/

/-- A nonce of 32 bytes: free values. -/
def State.issueNonce (s : State) : State :=
  let bs := (List.range 4).flatMap fun k => leBytes 8 (Config.freeWord (s.draws + k)).toNat
  { s with mmc := { s.mmc with nonce := some bs, noncesIssued := s.mmc.noncesIssued + 1 }, draws := s.draws + 4 }

/-- The MMC takes a command; in recovery mode it accepts only a firmware update (R329). -/
def execMmcMailboxCommand (cmd : MailboxCommand) (s : State) : Result :=
  .next (if s.mmc.recovery then s
    else match cmd with
      | .haltGroups p mask => s.raiseGroups (some p) mask
      | .coreReset die => s.follow 0 (.coreReset die)
      | .uncoreReset die => s.follow 0 (.uncoreReset die)
      | .nonceRequest => s.issueNonce)

end Sys2Proof.Machine
end

