-- ==== Sys2Proof/Machine/Signature.lean ====
section
/-!
DEFINITION. The signatures of the module: XMSS^MT with SHAKE256, n = 32, Winternitz parameter 16 (spec/17 R328). The manual names the scheme
of NIST SP 800-208 and its parameter sets; the algorithm is taken from there (notes/assumptions/91.md).
-/
namespace Sys2Proof.Machine

/-- A number in n bytes, the first the most significant. -/
def bigBytes (n x : Nat) : List Byte := (leBytes n x).reverse
def bigNat (bs : List Byte) : Nat := leNat bs.reverse

/-- The four keyed functions of the scheme, told apart by a number: 0 the chain function F, 1 the tree function H, 2 the message hash, 3 the
pseudorandom function, 4 the derivation of secret values. -/
def keyedHash (kind : Nat) (key input : List Byte) : List Byte := shakeBytes 32 (bigBytes 32 kind ++ key ++ input)

def maskBytes (a b : List Byte) : List Byte := (a.zip b).map fun p => p.1 ^^^ p.2

/-- A hash address: its layer and tree, its kind (0 a one-time key, 1 the tree that compresses one, 2 a hash tree), and the three numbers
that its kind uses. -/
structure HashPlace where
  layer : Nat
  tree : Nat
  kind : Nat
  a : Nat
  b : Nat
  c : Nat
  deriving DecidableEq, Repr

/-- The bytes of an address for a use: 0 a key, 1 and 2 masks. -/
def HashPlace.bytes (p : HashPlace) (use : Nat) : List Byte :=
  bigBytes 4 p.layer ++ bigBytes 8 p.tree ++ [p.kind, p.a, p.b, p.c, use].flatMap (bigBytes 4)

/-- The value that a seed gives at an address for a use. -/
def HashPlace.value (p : HashPlace) (seed : List Byte) (use : Nat) : List Byte := keyedHash 3 seed (p.bytes use)

/-- A node of a tree from its two children. -/
def HashPlace.join (p : HashPlace) (seed l r : List Byte) : List Byte :=
  keyedHash 1 (p.value seed 0) (maskBytes (l ++ r) (p.value seed 1 ++ p.value seed 2))

/-- A chain of a one-time key, n steps on from step i. -/
def chainOn (p : HashPlace) (seed : List Byte) : Nat → Nat → List Byte → List Byte
  | 0, _, x => x
  | n + 1, i, x =>
    let q := { p with c := i }
    chainOn p seed n (i + 1) (keyedHash 0 (q.value seed 0) (maskBytes x (q.value seed 1)))

/-- The 67 digits that a one-time key signs: 64 of the message, high half of a byte first, and three of their check sum. -/
def signedDigits (m : List Byte) : List Nat :=
  let ds := m.flatMap fun x => [x.toNat / 16, x.toNat % 16]
  let sum := (ds.map (15 - ·)).sum
  ds ++ [sum / 256 % 16, sum / 16 % 16, sum % 16]

/-- The 32-byte values of a string. -/
def hashValues (n : Nat) (bs : List Byte) : List (List Byte) := (List.range n).map fun i => (bs.drop (32 * i)).take 32

/-- One level of the tree that compresses a one-time key: neighbours are joined, an odd last one goes up as it is. -/
def compressLevel (p : HashPlace) (seed : List Byte) : Nat → List (List Byte) → List (List Byte)
  | i, l :: r :: rest => { p with c := i }.join seed l r :: compressLevel p seed (i + 1) rest
  | _, xs => xs

/-- The value of a one-time public key: its 67 chain ends, compressed. -/
def compressKey (p : HashPlace) (seed : List Byte) : Nat → Nat → List (List Byte) → List Byte
  | 0, _, xs => xs.headD []
  | n + 1, level, xs => compressKey p seed n (level + 1) (compressLevel { p with b := level } seed 0 xs)

/-- The leaf that the ends of a key's chains give. -/
def leafOf (layer tree leaf : Nat) (seed : List Byte) (ends : List (List Byte)) : List Byte :=
  compressKey ⟨layer, tree, 1, leaf, 0, 0⟩ seed 7 0 ends

/-- The chain ends of a signed message. -/
def signedEnds (layer tree leaf : Nat) (seed m : List Byte) (sig : List (List Byte)) : List (List Byte) :=
  ((signedDigits m).zip sig).zipIdx.map fun (x, i) => chainOn ⟨layer, tree, 0, leaf, i, 0⟩ seed (15 - x.1) x.1 x.2

/-- From a leaf to the root along its path of neighbours. -/
def climb (layer tree : Nat) (seed : List Byte) : Nat → Nat → List Byte → List (List Byte) → List Byte
  | _, _, node, [] => node
  | level, i, node, x :: rest =>
    let p : HashPlace := ⟨layer, tree, 2, 0, level, i / 2⟩
    climb layer tree seed (level + 1) (i / 2) (if i % 2 = 0 then p.join seed node x else p.join seed x node) rest

/-- The parameter sets: the height of a layer's trees and the number of layers. -/
structure TreeShape where
  height : Nat
  layers : Nat
  deriving DecidableEq, Repr

def authorityShape : TreeShape := ⟨10, 2⟩
def identityShape : TreeShape := ⟨5, 8⟩

/-- Bytes of an index, of one layer's part, and of a signature. -/
def TreeShape.indexBytes (t : TreeShape) : Nat := (t.height * t.layers + 7) / 8
def TreeShape.layerBytes (t : TreeShape) : Nat := 32 * (67 + t.height)
def TreeShape.size (t : TreeShape) : Nat := t.indexBytes + 32 + t.layers * t.layerBytes

/-- The root that a signature's layers give for a message, from layer j on. -/
def TreeShape.rootFrom (t : TreeShape) (seed : List Byte) : Nat → Nat → Nat → List Byte → List Byte → List Byte
  | 0, _, _, m, _ => m
  | n + 1, j, i, m, sig =>
    let leaf := i % 2 ^ t.height
    let tree := i / 2 ^ t.height
    let parts := hashValues (67 + t.height) sig
    let node := leafOf j tree leaf seed (signedEnds j tree leaf seed m (parts.take 67))
    TreeShape.rootFrom t seed n (j + 1) tree (climb j tree seed 0 leaf node (parts.drop 67)) (sig.drop t.layerBytes)

/-- The hash of a message that is signed with an index. -/
def messageHash (r root : List Byte) (index : Nat) (m : List Byte) : List Byte := keyedHash 2 (r ++ root ++ bigBytes 32 index) m

/-- A signature of a message verifies under a public key: root and seed. -/
def TreeShape.verifies (t : TreeShape) (key m sig : List Byte) : Bool :=
  let (root, seed) := (key.take 32, key.drop 32)
  let index := bigNat (sig.take t.indexBytes)
  let r := (sig.drop t.indexBytes).take 32
  sig.length == t.size && decide (index < 2 ^ (t.height * t.layers)) &&
    t.rootFrom seed t.layers 0 index (messageHash r root index m) (sig.drop (t.indexBytes + 32)) == root

/-- The digest of a public key as the fuses hold it: SHAKE256, truncated to 256 bits (spec/17 R325). -/
def keyDigest (key : List Byte) : List Word := (List.range 4).map fun i => BitVec.ofNat 64 (leNat (((shakeBytes 32 key).drop (8 * i)).take 8))

/-- A signature verifies under the authority whose public key has a fused digest. -/
def signatureValid (digest : List Word) (m sig : List Byte) : Bool :=
  let key := Config.authorityKey digest
  keyDigest key == digest && authorityShape.verifies key m sig

/-! ### Signing -/

/-- The secret start of chain i of a one-time key. -/
def secretStart (layer tree leaf i : Nat) (secret seed : List Byte) : List Byte :=
  keyedHash 4 secret (seed ++ (HashPlace.mk layer tree 0 leaf i 0).bytes 0)

/-- A leaf of a tree. -/
def treeLeaf (layer tree : Nat) (secret seed : List Byte) (leaf : Nat) : List Byte :=
  leafOf layer tree leaf seed ((List.range 67).map fun i =>
    chainOn ⟨layer, tree, 0, leaf, i, 0⟩ seed 15 0 (secretStart layer tree leaf i secret seed))

/-- Node i of a level of a tree. -/
def treeNode (layer tree : Nat) (secret seed : List Byte) : Nat → Nat → List Byte
  | 0, i => treeLeaf layer tree secret seed i
  | n + 1, i =>
    (HashPlace.mk layer tree 2 0 n i).join seed (treeNode layer tree secret seed n (2 * i)) (treeNode layer tree secret seed n (2 * i + 1))

/-- The neighbour of a number in its pair. -/
def neighbour (i : Nat) : Nat := if i % 2 = 0 then i + 1 else i - 1

/-- One layer's part of a signature: the chains of the leaf's key at the message's digits, and the leaf's path. -/
def TreeShape.signLayer (t : TreeShape) (j tree leaf : Nat) (secret seed m : List Byte) : List Byte :=
  ((signedDigits m).zipIdx.flatMap fun (d, i) => chainOn ⟨j, tree, 0, leaf, i, 0⟩ seed d 0 (secretStart j tree leaf i secret seed)) ++
    (List.range t.height).flatMap fun k => treeNode j tree secret seed k (neighbour (leaf / 2 ^ k))

/-- The layers of a signature of a message, from layer j on. -/
def TreeShape.signFrom (t : TreeShape) (secret seed : List Byte) : Nat → Nat → Nat → List Byte → List Byte
  | 0, _, _, _ => []
  | n + 1, j, i, m =>
    let leaf := i % 2 ^ t.height
    let tree := i / 2 ^ t.height
    t.signLayer j tree leaf secret seed m ++ TreeShape.signFrom t secret seed n (j + 1) tree (treeNode j tree secret seed t.height 0)

/-- A signature of a message with an index. -/
def TreeShape.sign (t : TreeShape) (secret prf seed : List Byte) (index : Nat) (m : List Byte) : List Byte :=
  let root := treeNode (t.layers - 1) 0 secret seed t.height 0
  let r := keyedHash 3 prf (bigBytes 32 index)
  bigBytes t.indexBytes index ++ r ++ t.signFrom secret seed t.layers 0 index (messageHash r root index m)

/-- The device identity's signature with a leaf index. -/
def identitySign (leaf : Nat) (m : List Byte) : List Byte :=
  let part (i : Nat) : List Byte := bigBytes 32 (Config.identitySecret i)
  identityShape.sign (part 0) (part 1) (part 2) leaf m

end Sys2Proof.Machine
end

