-- ==== Sys2Proof/Machine/Manage.lean ====
section
/-!
DEFINITION. The management controller: partitions, scrubs, key slots, lifecycle, debug unlock, SPDM, verification at power-on
(spec/17 R313 to R316, R322, R325 to R332); resets, stack temperature, link retraining, patrol scrub, the archive's writer, reduced
service (spec/20 R367, spec/22 R387 to R389, R394 to R396, R400, R401).
-/
namespace Sys2Proof

def SpdmPath.code : SpdmPath → Nat
  | .doe => 0
  | .mctp => 1

/-- The register AF0–AF3 of an image (R322). -/
def FirmwareImage.index : FirmwareImage → Nat
  | .bootCode => 0
  | .mmcFirmware => 1
  | .baseDie => 2
  | .residentHandler => 3

/-- Numbers of the kinds of corrected errors, from 0 (R388). -/
def StoreKind.code : StoreKind → Nat
  | .sram => 0
  | .istore => 1
  | .hbm => 2

/-- The dies a causeway joins: six horizontal pairs, then four vertical ones (notes/assumptions/10.md). -/
def Machine.causewayDies : List (Nat × Nat) := [(0, 1), (1, 2), (2, 3), (4, 5), (5, 6), (6, 7), (0, 4), (1, 5), (2, 6), (3, 7)]

/-- Number of a link in records and in the archive, and the die whose archive takes its entry (notes/assumptions/10.md). -/
def Link.number : Link → Nat
  | .causeway n | .port n | .catwalk n => n
def Link.die : Link → Nat
  | .causeway n => ((Machine.causewayDies[n]?).map (·.1)).getD 0
  | .port n => n / 2
  | .catwalk die => die

end Sys2Proof

namespace Sys2Proof.Machine

/-! ### Measurement by the MMC (R322) -/

/-- Eight free words: data that the manual does not state (notes/assumptions/1.md). -/
def State.freeDigest (s : State) : List Byte := (List.range 8).flatMap fun k => leBytes 8 (Config.freeWord (s.draws + k)).toNat

/-- Register n of R322, from 2 on. -/
def Mmc.register (m : Mmc) (n : Nat) : BitVec 512 := if n = 2 then m.ap else m.af.getD (n - 3) 0
def Mmc.setRegister (m : Mmc) (n : Nat) (v : BitVec 512) : Mmc :=
  if n = 2 then { m with ap := v } else { m with af := m.af.setIfInBounds (n - 3) v }

/-- The MMC extends register n with 64 bytes, which the archive records (R322, spec/22 R388). MMC events stand in die 0's archive. -/
def State.extendMmc (s : State) (n : Nat) (d : List Byte) : State :=
  let v := extendAccession (s.mmc.register n) d
  let s := { s with mmc := s.mmc.setRegister n v }
  s.archiveLoose 0 0x09 n (v.setWidth 64) ((v >>> 64).setWidth 64)

/-- AP after a partition or lifecycle change; the manual does not state with what. -/
def State.extendPlatform (s : State) : State := { s.extendMmc 2 s.freeDigest with draws := s.draws + 8 }

/-- A refusal or a failure that the manual says is archived, without its kind. -/
def State.archiveRefusal (s : State) : State :=
  { s.archiveLoose 0 (Config.freeNat s.draws % 256) (Config.freeNat (s.draws + 1)) (Config.freeWord (s.draws + 2)) (Config.freeWord (s.draws + 3)) with
    draws := s.draws + 4 }

/-! ### Quiet domains -/

/-- Nothing runs, starts, drains or is frozen in a slot. -/
def State.quiet (s : State) (slot : Nat) : Bool :=
  let d := s.domain slot
  d.launch.isNone && d.draining.isNone && !d.frozen && d.plan.isNone

/-- Every entry of a slot is cancelled (spec/15 R295). -/
def State.cancelSlot (s : State) (slot : Nat) : State :=
  (s.unit slot).entries.foldl (fun s p => s.cancelOne slot p.1) s

/-- Domain slots whose domain has an island among some. -/
def State.slotsOn (s : State) (island : Nat → Bool) : List Nat :=
  (s.domains.filter fun p => p.1 < 16 ∧ p.2.spec.islands.any island).map (·.1)

/-- Domains end: their slots hold none. -/
def State.dropDomains (s : State) (slots : List Nat) : State :=
  { s with domains := s.domains.filter fun p => !slots.contains p.1 }

/-! ### Keys of HBM (R316) -/

/-- The key of a stack: that of its partition's key slot. -/
def State.stackKey (s : State) (k : Nat) : Option (BitVec 512) :=
  (s.partitionOfIsland (k / 2)).bind fun i => Table.find s.mmc.keySlots (wbits (s.mmc.partitions.getD i 0) 43 40)

/-- Every sector of a stack reads as what was sealed under one key opens under another; memory holds what it reads as. -/
def State.rekeyStack (s : State) (k : Nat) (old new : Option (BitVec 512)) : State :=
  (List.range (2 ^ 31)).foldl (fun s i =>
    let p := k * 2 ^ 36 + 32 * i
    s.writeBytes (hbmAddr p) (openSector new p (sealSector old p (s.readBytes (hbmAddr p) 32)))) s

/-- A change of partitions or key slots, from `old`: the stacks that have been used and whose key has changed read anew. -/
def State.rekey (s old : State) : State :=
  ((List.range 32).filter fun k => (old.stack k).used && old.stackKey k != s.stackKey k).foldl
    (fun s k => s.rekeyStack k (old.stackKey k) (s.stackKey k)) s

/-! ### Partitions (R313, R314) -/

def partitionValid (w : Word) : Bool := w.getLsbD 63
def partitionIslands (w : Word) : List Nat := (List.range 16).filter fun i => w.getLsbD i
def partitionKey (w : Word) : Nat := wbits w 43 40

/-- The resources of two partitions are disjoint: islands with their stacks, ports, key slot. -/
def partitionsApart (a b : Word) : Bool := a &&& b &&& 0xFFFFFFFF#64 == 0 && partitionKey a != partitionKey b

/-- An island that may join partition `index`: it has belonged to no other, or has been scrubbed since (spec/23 R405: a second stage runs
before any scrub); the part has it, and its die's map agrees with the fuses. -/
def State.mayJoin (s : State) (index island : Nat) : Bool :=
  let die := s.die (island / 2)
  ((Table.find s.mmc.lastOwner island).all (· == index) || s.mmc.scrubbed.contains island) && die.available && !die.booting &&
    !die.absent.contains island

/-- The reserved fields of a partition word are zero. -/
def partitionFields (w : Word) : Bool := wbits w 62 57 == 0 && wbits w 47 44 == 0 && wbits w 39 32 == 0

/-- A valid word for an index: a quota of at most 256, islands, ports that the part has (R325), nothing shared. -/
def State.partitionOk (s : State) (index : Nat) (w : Word) : Bool :=
  decide (wbits w 56 48 ≤ 256) && wbits w 15 0 != 0 && (wbits w 31 16 &&& wbits (s.fuse 39) 15 0) == wbits w 31 16 &&
    (partitionIslands w).all (s.mayJoin index) &&
    (List.range 16).all fun k =>
      let o := s.mmc.partitions.getD k 0
      k == index || !partitionValid o || partitionsApart w o

/-- The islands of a partition change hands: those that leave await a scrub, those that join are its own. -/
def Mmc.setPartition (m : Mmc) (index : Nat) (w : Word) : Mmc :=
  let now := if partitionValid w then partitionIslands w else []
  { m with partitions := m.partitions.setIfInBounds index w, scrubbed := m.scrubbed.filter fun i => !now.contains i,
           lastOwner := now.foldl (fun t i => Table.put t i index) m.lastOwner,
           forming := (m.forming.filter fun k => k ≠ index) ++ (if partitionValid w then [index] else []) }

/-- Islands leave every partition that holds them; a partition left with none is dissolved. -/
def Mmc.withoutIslands (m : Mmc) (islands : List Nat) : Mmc :=
  let out : Word := BitVec.ofNat 64 (islands.foldl (fun n i => n ||| 2 ^ i) 0)
  { m with partitions := m.partitions.map fun w => if wbits (w &&& ~~~out) 15 0 = 0 then 0 else w &&& ~~~out }

/-- A domain stands on islands of a partition. -/
def State.partitionInUse (s : State) (index : Nat) : Bool := !(s.slotsOn fun i => s.partitionOfIsland i == some index).isEmpty

/-- PARTITION: created, changed or dissolved. A word that breaks R313 or R314, or that takes an island from under a domain that is not
quiet, changes nothing; domains on islands that leave end. -/
def State.configurePartition (s : State) (index : Nat) (w : Word) : State :=
  let old := s.mmc.partitions.getD index 0
  let kept := if partitionValid w then partitionIslands w else []
  let gone := s.slotsOn fun i => partitionValid old && (partitionIslands old).contains i && !kept.contains i
  if 16 ≤ index ∨ s.mmc.recovery ∨ !partitionFields w ∨ (partitionValid w ∧ !s.partitionOk index w) ∨ !gone.all s.quiet then s
  else (State.rekey { s.dropDomains gone with mmc := s.mmc.setPartition index (if partitionValid w then w else 0) } s).extendPlatform

def execPartitionConfigure (index : Nat) (word : Word) (s : State) : Result := .next (s.configurePartition index word)

/-! ### The scrub (R315) -/

/-- Physical sites of an island: sixteen rows of its die. -/
def islandSites (island : Nat) : List Nat :=
  (List.range 16).flatMap fun r => (List.range 33).map fun c => siteOf (island / 2) (16 * (island % 2) + r) c

/-- A tile after a scrub. -/
def Tile.scrub (t : Tile) : Tile :=
  { t with s := .replicate 64 0, v := .replicate 32 .zero, p := .replicate 8 false, m := .replicate 8 0, z := .replicate 16 0,
           tables := resetTables, mx := { t.mx with store := [], directory := [] },
           sv := { t.sv with queues := .replicate 3 .reset } }

/-- A launch unit after a scrub; its configuration stays. -/
def LaunchUnit.scrub (u : LaunchUnit) : LaunchUnit :=
  { u with entries := [], counters := [], userRange := .replicate 64 (0, 0), supRange := .replicate 64 (0, 0), accU := 0, accS := 0,
           zeroed := [], decrements := [], fires := [], away := [] }

/-- Memory of a site cleared, its error words with it. -/
def State.clearSite (s : State) (site : Nat) : State :=
  let s := (s.clearBytes (sramAddr site 0) (2 ^ 20)).clearBytes (istoreAddr site 0) (2 ^ 17)
  let inside (a : Nat) : Bool := (sramAddr site 0 ≤ a && decide (a < sramAddr site (2 ^ 20))) || (istoreAddr site 0 ≤ a && decide (a < istoreAddr site (2 ^ 17)))
  { s with badWords := s.badWords.filter fun a => !inside a, badRegs := s.badRegs.filter fun r => r.1 ≠ site }

/-- A stack written with zeros: no sector is in error and none holds a live barrier word. -/
def State.clearStack (s : State) (k : Nat) : State :=
  let lo := hbmAddr (k * 2 ^ 36)
  let s := s.clearBytes lo (2 ^ 36)
  { s with badWords := s.badWords.filter fun a => !(decide (lo ≤ a) && decide (a < lo + 2 ^ 36)) }.setStack k { s.stack k with live := [], used := false }

/-- SCRUB of an island, in no partition and no domain. -/
def State.scrubIsland (s : State) (island : Nat) : State :=
  if 16 ≤ island ∨ s.mmc.recovery ∨ (s.partitionOfIsland island).isSome ∨ !(s.slotsOn (· == island)).isEmpty then s
  else
    let s := (islandSites island).foldl (fun s k => (s.clearSite k).mapTile k Tile.scrub) s
    let s := (islandStacks island).foldl State.clearStack s
    let s := s.setUnit island (s.unit island).scrub
    { s with mmc := { s.mmc with scrubbed := island :: s.mmc.scrubbed.filter fun i => i ≠ island } }

def execIslandScrub (island : Nat) (s : State) : Result := .next (s.scrubIsland island)

/-! ### Key slots and lifecycle (R316, R325, R327, R328) -/

/-- The partition that uses a key slot is being formed: it is configured, none has been formed on it since, and none that it had
before lives on. -/
def State.keyFormed (s : State) (slot : Nat) : Bool :=
  s.mmc.forming.any fun k => let w := s.mmc.partitions.getD k 0; partitionValid w && partitionKey w == slot && !s.partitionInUse k

/-- The debug port of some die is open. -/
def State.debugPortOpen (s : State) : Bool := (List.range 8).any fun d => (s.die d).debugOpen

/-- KEY SLOT: written by the MMC while the partition is being formed, in state provisioned; a zero key clears it. -/
def execKeySlotWrite (index : Nat) (key : BitVec 512) (s : State) : Result :=
  .next (if 16 ≤ index ∨ s.lifecycle ≠ 1 ∨ s.mmc.recovery ∨ !s.keyFormed index ∨ s.mmc.unlocking.isSome ∨ s.debugPortOpen then s
    else State.rekey { s with mmc := { s.mmc with keySlots := if key = 0 then Table.drop s.mmc.keySlots index else Table.put s.mmc.keySlots index key } } s)

/-- The fused digests of the debug-authority key and of the firmware-signing key. -/
def State.debugKey (s : State) : List Word := [s.fuse 3, s.fuse 4, s.fuse 5, s.fuse 6]
def State.firmwareKey (s : State) : List Word := [s.fuse 7, s.fuse 8, s.fuse 9, s.fuse 10]

/-- The state only advances, along the codes of R327. -/
def lifecycleAdvances (old new : Nat) : Bool := [0, 1, 3, 7].contains new && decide (old < new)

/-- The debug port of a die is open by its lifecycle state (R327). -/
def lifecycleOpen (state : Nat) : Bool := state == 0 || state == 3

/-- The key slots of a part in a lifecycle state: only a provisioned one holds any (R327). -/
def keysIn (state : Nat) (slots : Table (BitVec 512)) : Table (BitVec 512) := if state = 1 then slots else []

/-- LIFECYCLE: a signed command; the advance extends AP and is archived. No key stays in a part that is no longer provisioned, so no
port opens over one (R327, R332). -/
def execLifecycleAdvance (state : Nat) (command signature : List Byte) (s : State) : Result :=
  .next (if !lifecycleAdvances s.lifecycle state ∨ !signatureValid s.firmwareKey command signature ∨ s.mmc.recovery then s
    else
      let w := (s.fuse 2 &&& ~~~7#64) ||| BitVec.ofNat 64 state
      let s := State.rekey { s with mmc := { s.mmc with fuses := s.mmc.fuses.setIfInBounds 2 w, keySlots := keysIn state s.mmc.keySlots } } s
      let s := (List.range 8).foldl (fun s d => s.setDie d { s.die d with debugOpen := lifecycleOpen state }) s
      (s.archiveLoose 0 0x08 state 0 0).extendPlatform)

/-! ### Debug unlock (R332) -/

/-- Step 1: magic, zero bytes and an unused nonce. -/
def State.tokenForm (s : State) (t : List Byte) : Bool :=
  t.length == 64 && leNat (t.take 4) == 0x4B4E4C44 && ((t.drop 22).take 10).all (· == 0) && s.mmc.nonce == some (t.drop 32)

/-- Step 2: this device, state provisioned, and the signature. -/
def State.tokenMatches (s : State) (t signature : List Byte) : Bool :=
  leNat ((t.drop 4).take 16) == (s.fuse 0).toNat + (s.fuse 1).toNat * 2 ^ 64 && (t.getD 20 0).toNat == 1 && s.lifecycle == 1 &&
    signatureValid s.debugKey t signature

/-- Slots of every partition's domains. -/
def State.partitionSlots (s : State) : List Nat := s.slotsOn fun i => (s.partitionOfIsland i).isSome

/-- Steps 1 to 3: the token is checked, its nonce spent, every domain stopped as a cancel stops it. -/
def State.presentToken (s : State) (t signature : List Byte) : State :=
  if s.mmc.unlocking.isSome ∨ !s.tokenForm t ∨ s.mmc.recovery then s.archiveRefusal
  else
    let s := { s with mmc := { s.mmc with nonce := none } }
    if !s.tokenMatches t signature then s.archiveRefusal
    else
      let s := s.partitionSlots.foldl State.cancelSlot s
      { s with mmc := { s.mmc with unlocking := some t } }.later (.debugUnlock [] [])

/-- Steps 4 to 6, once every domain is quiet: keys cleared, partitions dissolved, the named dies' ports opened, AP extended. -/
def State.openDebug (s : State) (t : List Byte) : State :=
  let s := s.dropDomains s.partitionSlots
  -- no partition takes an island back unscrubbed
  let owner (i : Nat) : Nat := if (s.partitionOfIsland i).isSome then 16 else Table.at s.mmc.lastOwner 16 i
  let owned := (List.range 16).filter fun i => (s.partitionOfIsland i).isSome || (Table.find s.mmc.lastOwner i).isSome
  let s := { s with mmc := { s.mmc with lastOwner := owned.map fun i => (i, owner i) } }
  let s := State.rekey { s with mmc := { s.mmc with keySlots := [], partitions := .replicate 16 0, forming := [], scrubbed := [], unlocking := none } } s
  let dies := (List.range 8).filter fun d => (t.getD 21 0).getLsbD d
  let s := dies.foldl (fun s d => s.setDie d { s.die d with debugOpen := true }) s
  s.extendMmc 2 (shake256 t)

/-- DEBUG UNLOCK: a token presented, or (with empty arguments) the later steps of the unlock in progress. -/
def execDebugUnlock (token signature : List Byte) (s : State) : Result :=
  .next (match s.mmc.unlocking with
    | some t =>
      if token.isEmpty ∧ signature.isEmpty then
        (if s.partitionSlots.all s.quiet then s.openDebug t else s.later (.debugUnlock [] []))
      else s.archiveRefusal
    | none => s.presentToken token signature)

/-! ### SPDM (R328, R331) -/

/-- A message of SPDM 1.3: version byte, code, two parameter bytes, body (notes/assumptions/92.md for the forms of DSP0274). -/
def spdmMessage (code p1 p2 : Nat) (body : List Byte) : List Byte :=
  [0x13, BitVec.ofNat 8 code, BitVec.ofNat 8 p1, BitVec.ofNat 8 p2] ++ body

/-- The MMC answers no request: in recovery mode, and in a retired part, of which only the archive can be read (R327, R329). -/
def State.mute (s : State) : Bool := s.mmc.recovery || s.lifecycle == 7

/-- A request joins the transcript; a mute MMC takes none. -/
def State.ask (s : State) (code p1 p2 : Nat) (body : List Byte) : State :=
  if s.mute then s else { s with mmc := { s.mmc with transcript := s.mmc.transcript ++ spdmMessage code p1 p2 body } }

/-- The MMC answers: the response joins the transcript. -/
def State.respond (s : State) (m : List Byte) : State :=
  if s.mute then s else { s with mmc := { s.mmc with response := m, transcript := s.mmc.transcript ++ m } }

/-- An error response. -/
def State.spdmError (s : State) : State := s.respond (spdmMessage 0x7F 0 0 [])

/-- A signed answer: the leaf index advances before the signature is released; with none left unused the request fails. The signature
covers the digest of the transcript. -/
def State.signed (s : State) (m : List Byte) : State :=
  let leaf := s.mmc.leafIndex
  if 2 ^ 40 ≤ leaf then s.spdmError
  else if s.mute then s
  else
    let s := { s with mmc := { s.mmc with leafIndex := leaf + 1 } }
    let sig := identitySign leaf (sha3_512 (s.mmc.transcript ++ m))
    { s with mmc := { s.mmc with response := m ++ sig, transcript := [] } }

/-- VERSION: one entry, 1.3. -/
def versionBody : List Byte := [0, 1, 0x00, 0x13]

/-- CAPABILITIES: certificates, challenge, and measurements with signature. -/
def capabilitiesBody : List Byte := [0, Config.spdmTimeout, 0, 0] ++ leBytes 4 0x16 ++ leBytes 8 Config.spdmSizes.toNat

/-- ALGORITHMS: raw measurements, no base signature algorithm but one extended one, SHA3-512 (R331). -/
def algorithmsBody : List Byte :=
  leBytes 2 40 ++ [1, 0] ++ leBytes 4 1 ++ leBytes 4 0 ++ leBytes 4 0x20 ++ List.replicate 12 0 ++ [1, 0, 0, 0] ++
    leBytes 4 Config.spdmExtended.toNat

/-- GET_VERSION begins a new transcript. -/
def execGetVersion (_path : SpdmPath) (s : State) : Result :=
  .next (((if s.mute then s else { s with mmc := { s.mmc with transcript := [] } }).ask 0x84 0 0 []).respond
    (spdmMessage 0x04 0 0 versionBody))

/-- A request's fields that the manual does not give are free bytes. -/
def execGetCapabilities (_path : SpdmPath) (s : State) : Result :=
  .next ((s.ask 0xE1 0 0 (freeBytes s.draws 16)).drawn.respond (spdmMessage 0x61 0 0 capabilitiesBody))

def execNegotiateAlgorithms (_path : SpdmPath) (s : State) : Result :=
  .next ((s.ask 0xE3 0 0 (freeBytes s.draws 28)).drawn.respond (spdmMessage 0x63 0 0 algorithmsBody))

/-- GET_DIGESTS: the digest of the chain of slot 0. -/
def execGetDigests (_path : SpdmPath) (s : State) : Result :=
  .next ((s.ask 0x81 0 0 []).respond (spdmMessage 0x01 0 1 (sha3_512 Config.certificateChain)))

/-- GET_CERTIFICATE: a portion of slot 0's chain; another slot is an error. -/
def execGetCertificate (_path : SpdmPath) (certSlot offset length : Nat) (s : State) : Result :=
  let part := (Config.certificateChain.drop offset).take length
  let rest := Config.certificateChain.length - offset - part.length
  let s := s.ask 0x82 certSlot 0 (leBytes 2 offset ++ leBytes 2 length)
  .next (if certSlot ≠ 0 then s.spdmError
    else s.respond (spdmMessage 0x02 0 0 (leBytes 2 part.length ++ leBytes 2 rest ++ part)))

/-- CHALLENGE: the digest of the chain and a fresh nonce of the MMC's, signed. -/
def execChallenge (_path : SpdmPath) (nonce : List Byte) (s : State) : Result :=
  let mine := freeBytes s.draws 32
  .next ((s.ask 0x83 0 0 nonce).drawn.signed (spdmMessage 0x03 0 1 (sha3_512 Config.certificateChain ++ mine)))

/-- The digest of the 16 partition words (R314): the words as the manual numbers them, little-endian. -/
def Mmc.partitionDigest (m : Mmc) : List Byte := shake256 (m.partitions.toList.flatMap fun w => leBytes 8 w.toNat)

/-- The raw value of a measurement block; none for an index not listed. -/
def State.measurement (s : State) (i : Nat) : Option (List Byte) :=
  let bytes (v : BitVec 512) : List Byte := leBytes 64 v.toNat
  if 1 ≤ i ∧ i ≤ 4 then some (bytes (s.mmc.af.getD (i - 1) 0))
  else if i = 5 then some (bytes s.mmc.ap)
  else if i = 6 then some s.mmc.partitionDigest
  else if 0x10 ≤ i ∧ i < 0x30 then
    let u := s.unit ((i - 0x10) / 2)
    some (bytes (if i % 2 = 0 then u.accU else u.accS))
  else none

/-- A measurement block: its index and its value. -/
def measurementBlock (i : Nat) (v : List Byte) : List Byte := BitVec.ofNat 8 i :: leBytes 2 v.length ++ v

def measurementIndices : List Nat := [1, 2, 3, 4, 5, 6] ++ (List.range 32).map (0x10 + ·)

/-- GET_MEASUREMENTS with signature: one block, or every block for index 0xFF, and a fresh nonce of the MMC's. -/
def execGetMeasurements (_path : SpdmPath) (index : Nat) (nonce : List Byte) (s : State) : Result :=
  let wanted := if index = 0xFF then measurementIndices else [index]
  let blocks := wanted.filterMap fun i => (s.measurement i).map fun v => measurementBlock i v
  let mine := freeBytes s.draws 32
  let s := (s.ask 0xE0 1 index nonce).drawn
  .next (if blocks.isEmpty then s.spdmError
    else s.signed (spdmMessage 0x60 0 0 (BitVec.ofNat 8 blocks.length :: blocks.flatten ++ mine)))

/-! ### Verification at power-on (R329) -/

/-- Image n and its signature: what a firmware update has installed, else what the part was made with. -/
def State.firmware (s : State) (n : Nat) : List Byte × List Byte := (Table.find s.mmc.installed n).getD (Config.factoryImage n)

/-- What runs on a die from its entry into boot state: the boot image and the second stage (spec/23 R402). -/
def bootBytes : List Byte := bootImage ++ (List.range 16384).map Config.secondStage

/-- The bytes that the signature of image n covers: the resident handler's covers the boot image and the second stage too. -/
def signedBytes (n : Nat) (bytes : List Byte) : List Byte := if n = 3 then bytes ++ bootBytes else bytes

/-- An image that verifies extends its register and runs; the boot code stands in mask ROM and is measured only. AF3 is also extended with
the boot image and the second stage (spec/23 R402). One that fails does not run, and the MMC stays in recovery mode. -/
def State.verifyImage (s : State) (n : Nat) : State :=
  let (bytes, signature) := s.firmware n
  if n = 0 ∨ signatureValid s.firmwareKey (signedBytes n bytes) signature then
    let s := s.extendMmc (3 + n) (shake256 bytes)
    let s := if n = 3 then s.extendMmc 6 (shake256 bootBytes) else s
    { s with mmc := { s.mmc with booted := n :: s.mmc.booted } }
  else { s with mmc := { s.mmc with recovery := true } }.archiveRefusal

/-- An image that an update has brought takes effect at the next reset of the part that runs it: it no longer counts as verified. -/
def State.installImage (s : State) (n : Nat) : State :=
  match Config.updateImage s.host.firmware n with
  | some x =>
    if s.firmware n = x then s
    else { s with mmc := { s.mmc with installed := Table.put s.mmc.installed n x, booted := s.mmc.booted.filter fun k => k ≠ n } }
  | none => s

/-- A part whose firmware has changed runs it once it is verified. -/
def State.refreshImage (s : State) (n : Nat) : State :=
  let s := s.installImage n
  if s.mmc.booted.contains n ∨ !s.mmc.booted.contains 0 ∨ s.mmc.recovery then s else s.verifyImage n

/-- A die whose power has come back: only the archive, on its standby rail, and what manufacturing fixed have stayed. -/
def Die.powerCycle (d : Die) : Die :=
  { Die.reset with fusedOff := d.fusedOff, absent := d.absent, ring := d.ring, written := d.written, queue := d.queue, dropped := d.dropped }

/-- The module whose power has come back. Fuses, the images and the window's words of an update, and the identity key's leaf index are kept in
storage that needs none (R325, R328, R329); what stands outside the module stays; everything else is as at the first power-on
(notes/assumptions/90.md). -/
def State.powerCycle (s : State) : State :=
  { State.reset with
    mem := s.mem.filter fun c => decide (Config.portableBase ≤ c.1), portable := s.portable
    mmc := { Mmc.reset with fuses := s.mmc.fuses, installed := s.mmc.installed, leafIndex := s.mmc.leafIndex, noncesIssued := s.mmc.noncesIssued }
    host := { HostPort.reset with firmware := s.host.firmware }
    dies := s.dies.map fun p => (p.1, p.2.powerCycle)
    tick := s.tick, phase := s.phase, cur := s.cur, inputs := s.inputs, nextId := s.nextId, draws := s.draws }

/-- The lifecycle state takes effect at power-on: debug ports, and the key slots of a returned part (R327, R332). -/
def State.powerOn (s : State) : State :=
  let s := [1, 2, 3].foldl State.installImage s
  let s := (List.range 8).foldl (fun s d => s.setDie d { s.die d with debugOpen := lifecycleOpen s.lifecycle }) s
  State.rekey { s with mmc := { s.mmc with keySlots := keysIn s.lifecycle s.mmc.keySlots } } s

/-- The module as the verification of image n finds it: the boot code runs at a power-on alone, so where it has run before, the power has
been away since. -/
def State.atVerification (s : State) (n : Nat) : State :=
  if n = 0 ∧ (s.mmc.recovery ∨ s.mmc.booted.contains 0) then s.powerCycle else s

/-- POWER-ON VERIFICATION of the next image, as the MMC reads it from its store: the boot code, the MMC's firmware, the base dies', the resident handler, in this order; after the
last every die enters boot state (spec/23 R402). -/
def execPowerOnVerification (image : FirmwareImage) (bytes signature : List Byte) (s : State) : Result :=
  let n := image.index
  .next (if s.firmware n ≠ (bytes, signature) ∨ (n ≠ 0 ∧ (s.mmc.recovery ∨ s.mmc.booted.contains n ∨ !(List.range n).all s.mmc.booted.contains)) then s
    else
      let s := (if n = 0 then (s.atVerification n).powerOn else s).verifyImage n
      if n = 3 ∧ !s.mmc.recovery then
        { s with agenda := (List.range 8).map (fun d => ⟨0, 16 + d, Origin.none, .bootStateEntry d⟩) ++ s.agenda }
      else s)

/-! ### Resets (R394) -/

/-- Every tile of a die after its core reset, its memories zero. -/
def State.resetTiles (s : State) (die : Nat) : State :=
  let sites := (List.range 1056).map fun k => die * 1056 + k
  let s := sites.foldl State.clearSite s
  { s with tiles := s.tiles.filter fun p => siteDie p.1 ≠ die }

/-- Launch units of a die's slots after an uncore reset; the accession registers stay. -/
def State.resetUnits (s : State) (die : Nat) : State :=
  [2 * die, 2 * die + 1].foldl (fun s k =>
    let u := s.unit k
    s.setUnit k { LaunchUnit.reset with accU := u.accU, accS := u.accS }) s

/-- The messages and requests that a die's tiles have not yet given to the catwalk are gone, and so are those whose lines a queue of
theirs is taking. -/
def State.dropUnsent (s : State) (die : Nat) : State :=
  { s with messages := s.messages.filter fun m => (m.taken || siteDie m.src != die) && !(m.placed && siteDie m.dst == die),
           requests := s.requests.filter fun m => m.taken || siteDie m.site != die,
           owed := s.owed.filter fun o => siteDie o.site != die }

/-- A die belongs to no domain and no partition from here on (spec/23 R403). -/
def State.releaseDie (s : State) (die : Nat) : State :=
  let s := s.dropDomains ((16 + die) :: s.slotsOn fun i => i / 2 == die)
  State.rekey { s with mmc := s.mmc.withoutIslands [2 * die, 2 * die + 1] } s

/-- A core reset once no domain of the die is busy: its domains have ended, and its tiles stand as at power-on. -/
def State.coreResetNow (s : State) (die : Nat) (code : Nat) : State :=
  let s := s.releaseDie die
  let s := (s.resetTiles die).dropUnsent die
  let s := s.setDie die { s.die die with booting := false, leaderDone := false, available := false }
  (s.archiveLoose die 0x07 code (BitVec.ofNat 64 die) 0).refreshImage 3

/-- The domains of some dies are quiet. -/
def State.diesQuiet (s : State) (dies : List Nat) : Bool := (s.slotsOn fun i => dies.contains (i / 2)).all s.quiet

/-- A reset first cancels every domain that includes the die, its entries that no launch has started among the rest, and waits for their
drains. -/
def State.whenQuiet (s : State) (dies : List Nat) (i : Instr) (f : State → State) : State :=
  let s := (s.slotsOn fun k => dies.contains (k / 2)).foldl State.cancelSlot s
  if s.diesQuiet dies then f s else s.later i

def execCoreReset (die : Nat) (s : State) : Result :=
  .next (if 8 ≤ die ∨ s.mmc.recovery then s
    else s.whenQuiet [die] (.coreReset die) fun s => (s.coreResetNow die 1).follow (16 + die) (.bootStateEntry die))

/-- Reference ticks that an uncore reset takes: a free number, within 20 ms (notes/assumptions/95.md). -/
def State.resetTime (s : State) : Nat := 1 + s.draw 2000000

/-- Windows that a die's stacks have given and that have not begun are taken back: the HBM goes into self-refresh, and the commands wait. -/
def State.revokeWindows (s : State) (die : Nat) : State :=
  let back (c : Command) : Command :=
    match c.need with
    | .block b true => if c.phase = .untimed ∧ b.stack / 4 = die then { c with need := .block b false } else c
    | _ => c
  { s with domains := s.domains.map fun p => (p.1, { p.2 with commands := p.2.commands.map back }) }

/-- The uncore of a die, with its core: memory controllers and launch units start anew, and the die is away for a while, when catwalk
messages whose route crosses it are held. -/
def State.uncoreResetNow (s : State) (die : Nat) : State :=
  let s := (List.range 4).foldl (fun s k => s.setStack (4 * die + k) { s.stack (4 * die + k) with untimedWindows := 0 }) s
  let s := (((s.resetUnits die).revokeWindows die).coreResetNow die 2).refreshImage 2
  (s.setDie die { s.die die with away := s.resetTime }).drawn

/-- The causeways of a die. -/
def causewaysOf (die : Nat) : List Nat := (List.range 10).filter fun n => match causewayDies[n]? with | some (a, b) => a == die || b == die | none => false

/-- A die comes back from its uncore reset: its causeways have been retrained, and it enters boot state. -/
def dieReturns (die : Nat) : List Todo :=
  (causewaysOf die).map (fun n => ⟨0, 0, Origin.none, .linkRetrain (.causeway n) (some 0)⟩) ++ [⟨0, 16 + die, Origin.none, .bootStateEntry die⟩]

/-- An uncore reset; that of die 0 is the whole module's, and clears the barrier pool. -/
def execUncoreReset (die : Nat) (s : State) : Result :=
  let dies := if die = 0 then List.range 8 else [die]
  .next (if 8 ≤ die ∨ s.mmc.recovery then s else s.whenQuiet dies (.uncoreReset die) fun s =>
    let s := if die = 0 then { s with pool := [] } else s
    dies.foldl State.uncoreResetNow s)

/-! ### Temperature (R395) -/

/-- A change of a stack's critical flag, archived for the owning domain. -/
def State.setCritical (s : State) (k temperature : Nat) (flag : Bool) : State :=
  let s := s.setStack k { s.stack k with critical := flag, temperature := temperature }
  let w3 : Word := if flag then 1 else 0
  match (s.slotsOn (· == k / 2)).head? with
  | some slot => s.archiveUncore (k / 4) slot 0x05 k (BitVec.ofNat 64 temperature) w3
  | none => s.archiveLoose (k / 4) 0x05 k (BitVec.ofNat 64 temperature) w3

/-- The owning domain freezes at t + 40 with class 0 records; a multi-module domain announces a hold instead. -/
def State.thermalFreeze (s : State) (slot k : Nat) : State :=
  if (s.domain slot).spec.cls = .multi then s.needHold slot
  else s.mapDomain slot fun d =>
    let p : FreezePlan := ⟨d.dcc, d.dcc + 40, 0, 0, 0, .thermal k⟩
    match d.plan with
    | some q => if d.stepUntil.isSome ∧ p.due < q.due then { d with plan := some p, stepUntil := none } else d
    | none => if d.frozen then d else { d with plan := some p }

/-- A stack reaches 95 °C: its flag rises once. -/
def execThermalCritical (stack temperature : Nat) (s : State) : Result :=
  .next (if (s.stack stack).critical then s
    else (s.slotsOn (· == stack / 2)).foldl (fun s slot => s.thermalFreeze slot stack) (s.setCritical stack temperature true))

/-- The stack has stayed at or below 90 °C for 1 ms; the domain resumes by R378. -/
def execThermalRecovery (stack temperature : Nat) (s : State) : Result :=
  .next (if (s.stack stack).critical then s.setCritical stack temperature false else s)

/-! ### Links (R367, R388) -/

/-- Slots of the domains that use a causeway: both dies supply islands. -/
def State.causewaySlots (s : State) (n : Nat) : List Nat :=
  match causewayDies[n]? with
  | some (a, b) => (s.domains.filter fun p => p.1 < 16 ∧ p.2.spec.dies.contains a ∧ p.2.spec.dies.contains b).map (·.1)
  | none => []

/-- Slots of the domains that use a link: a causeway both of whose dies supply islands, a port of a multi-module domain, a die's catwalk
link. -/
def State.linkSlots (s : State) (link : Link) : List Nat :=
  match link with
  | .causeway n => s.causewaySlots n
  | .port _ => (s.domains.filter fun p => p.2.spec.cls = .multi).map (·.1)
  | .catwalk die => (s.domains.filter fun p => p.1 < 16 ∧ p.2.spec.dies.contains die).map (·.1)

/-- The entry of a retraining: causeways and ports have one (R388); N = 1 when no domain uses the link (R387). -/
def State.archiveRetrain (s : State) (link : Link) (success : Bool) : State :=
  let w2 : Word := if success then 0 else 1
  match link, (s.linkSlots link).head? with
  | .catwalk _, _ => s
  | _, some slot => s.archiveUncore link.die slot 0x06 link.number w2 0
  | _, none => s.archiveLoose link.die 0x06 link.number w2 0

/-- A link has retrained; the failure of a causeway or catwalk link is a machine check in the tile with flat number 0 of each domain using
it (R367). A port keeps the latency it has trained at (spec/13 R263). -/
def execLinkRetrain (link : Link) (trained : Option Nat) (s : State) : Result :=
  let s := s.archiveRetrain link trained.isSome
  .next (match link with
    | .port n => s.setPort n { s.port n with trained := trained.isSome, latency := trained }
    | _ => if trained.isSome then s else (s.linkSlots link).foldl (fun s slot => s.linkFailed slot 0x5006 link.number) s)

/-! ### Corrected errors (R396) -/

/-- Domain slot of a location: of the tile whose memory it is, or of the stack's owner. -/
def State.locationSlot (s : State) (kind : StoreKind) (address : Nat) : Option Nat :=
  match kind with
  | .sram => s.slotOf ((address - Config.sramBase) / 2 ^ 20)
  | .istore => s.slotOf ((address - Config.istoreBase) / 2 ^ 17)
  | .hbm => (s.slotsOn (· == address / 2 ^ 36 / 2)).head?

/-- The patrol scrubber has rewritten a word with one corrected error: the bytes stay; counts rise, and each 1024th is archived. -/
def execPatrolScrub (die : Nat) (kind : StoreKind) (address : Nat) (s : State) : Result :=
  let d := s.die die
  let n := d.corrected.getD kind.code 0 + 1
  let s := s.setDie die { d with corrected := d.corrected.setIfInBounds kind.code n }
  let k := address / 2 ^ 36
  let s := if kind = .hbm then s.setStack k { s.stack k with correctedCount := bump (s.stack k).correctedCount (locChannel address) } else s
  let e := s.dieEvent die (s.locationSlot kind address) 0x0D (kind.code + 1) (BitVec.ofNat 64 n) 0
  .next (if n % 1024 = 0 then s.setDie die ((s.die die).archive e) else s)

/-! ### The archive's writer (R387, R389) -/

/-- Word 1 of an entry (R387). -/
def ArchiveEvent.word1 (e : ArchiveEvent) (written : Nat) : Word :=
  BitVec.ofNat 64 (e.kind * 2 ^ 56 + written / 4096 % 256 * 2 ^ 48 + e.slot * 2 ^ 44 + (if e.uncore then 0 else e.tile) * 2 ^ 34
    + (if e.noDomain then 2 ^ 33 else 0) + (if e.uncore then 2 ^ 32 else 0) + e.code % 2 ^ 32)

/-- One entry of the queue goes into the ring; a queue with room again takes the entry that records the events dropped, `lost`. -/
def Die.writeArchive (d : Die) (lost : ArchiveEvent) : Die :=
  match d.queue with
  | [] => d
  | e :: rest =>
    let x : ArchiveEntry := ⟨BitVec.ofNat 64 e.dcc, e.word1 d.written, e.w2, e.w3⟩
    let d := { d with ring := Table.put d.ring (d.written % 4096) x, written := d.written + 1, queue := rest }
    if d.dropped = 0 then d else { d with queue := d.queue ++ [lost], dropped := 0 }

def execArchiveEntryWrite (die : Nat) (s : State) : Result :=
  .next (s.setDie die ((s.die die).writeArchive (s.dieEvent die none 0x10 (s.die die).dropped 0 0)))

/-- Standby power is removed: the archive is lost. -/
def execStandbyPowerRemoval (die : Nat) (s : State) : Result :=
  .next (s.setDie die { s.die die with ring := [], written := 0, queue := [], dropped := 0 })

/-! ### Reduced service (R400, R401) -/

/-- The island domain of reduced service. -/
def reducedSpec : DomainSpec := ⟨.island, [0], false, false, false, 0, 1, false, 16⟩

/-- From power-on island 0 of die 0 is an island domain of slot 0 with k = 16: once die 0 has come out of boot state, in which it belongs to
no domain and has no logical grid (spec/23 R403, R405). -/
def execReducedServiceStart (s : State) : Result :=
  .next (if s.reduced ∨ s.hasDomain 0 then s
    else if !(s.die 0).available ∨ (s.die 0).booting then s.later .reducedServiceStart
    else
      let s := { s.setDomain 0 { Domain.blank with spec := reducedSpec, throttle := 16 } with reduced := true, trained := false }
      s.archiveUncore 0 0 0x11 1 0 0)

/-- Reduced service is over: slot 0's entries are free, its range tables clear, its domain ends. -/
def State.endReduced (s : State) : State :=
  let s := s.archiveUncore 0 0 0x11 2 0 0
  let u := s.unit 0
  let s := s.setUnit 0 { u with entries := u.entries.map fun (p : Nat × ArmEntry) => (p.1, { p.2 with state := EntryState.free }),
                                userRange := .replicate 64 (0, 0), supRange := .replicate 64 (0, 0), fires := [] }
  { s.dropDomains [0] with reduced := false, trained := false }

/-- Training is complete: the service ends at the completion of the running launch, or at once; launches fired in the meantime wait. -/
def execReducedServiceEnd (s : State) : Result :=
  .next (if !s.reduced then s
    else if s.quiet 0 then s.endReduced
    else { s with trained := true }.later .reducedServiceEnd)

end Sys2Proof.Machine
end

