-- ==== Sys2Proof/Machine/Translator.lean ====
section
/-!
DEFINITION. The translation of portable code into native bundles: blocks, register assignment with spills, placement of each native
operation, and the closing of blocks (spec/18 R339 to R349).
-/
namespace Sys2Proof.Machine

/-! ### Slots of native moves (spec/02 R32, R39 to R41) -/

/-- The socket number that stands for the one a placement chooses. -/
def anySock : BitVec 5 := 31

def srcImm (n : Int) : Source := .imm (BitVec.ofInt 21 n)
def srcS (n : Nat) : Source := .port 5 0 (BitVec.ofNat 7 n) 0
def srcV (n : Nat) : Source := .port 6 0 (BitVec.ofNat 7 n) 0
def srcM (n : Nat) : Source := .port 7 0 (BitVec.ofNat 7 (8 + n)) 0
def srcQ0 (sock : BitVec 5) : Source := .port sock 0 0 0
def srcQ1 (sock : BitVec 5) : Source := .port sock 1 0 0

def always : Guard := ⟨false, 0⟩

def mov (src : Source) (sock : BitVec 5) (kind : BitVec 2) (sel : Nat) : Slot := ⟨src, sock, kind, BitVec.ofNat 7 sel, always⟩
def toS (src : Source) (n : Nat) : Slot := mov src 5 0 n
def toV (src : Source) (n : Nat) : Slot := mov src 6 0 n
def toM (src : Source) (n : Nat) : Slot := mov src 7 0 (8 + n)
def toP (src : Source) (n : Nat) : Slot := mov src 7 0 n
def toO1 (src : Source) : Slot := mov src anySock 0 0
def toO2 (src : Source) : Slot := mov src anySock 1 0
def toTrig (src : Source) (sel : Nat) : Slot := mov src anySock 2 sel
def toAux (src : Source) (sel : Nat) : Slot := mov src anySock 3 sel

/-- The slot with the chosen socket in it. -/
def Slot.choose (s : Slot) (q : BitVec 5) : Slot :=
  let src := match s.src with
    | .port k kind sel tag => if k = anySock then .port q kind sel tag else s.src
    | x => x
  { s with src := src, sock := if s.sock = anySock then q else s.sock }

/-! ### Native operations (R347) -/

/-- A native operation before its placement: the moves of its trigger bundle, the sockets tried, the latency and move of its result,
its long immediate, its interval, its first and last perform cycle after the trigger, the ready cycle of its ring slot and whether that
slot is the last one's, whether it drains one, and the GN state it reads and writes. -/
structure NativeOp where
  index : Nat
  moves : List Slot
  socks : List Nat
  lat : Nat
  result : Option Slot
  lim : Option (BitVec 32)
  interval : Nat
  mem : Option (Nat × Nat)
  ready : Option (Nat × Bool)
  drains : Bool
  gnReads : List Nat
  gnWrites : List Nat
  deriving DecidableEq, Repr

/-- An operation with none of the rarer properties. -/
def nativeOp (index : Nat) (moves : List Slot) (socks : List Nat) (lat : Nat) (result : Option Slot) : NativeOp :=
  ⟨index, moves, socks, lat, result, none, 1, none, none, false, [], []⟩

def intSocks : List Nat := [2, 3]
def vecSocks : List Nat := [8, 9, 10]
def memSocks : List Nat := [12, 13]

/-- An integer operation into a scalar register. -/
def intOp (i : Nat) (a : Source) (b : Source) (sel lat d : Nat) : NativeOp :=
  nativeOp i [toO1 a, toTrig b sel] intSocks lat (some (toS (srcQ0 anySock) d))

/-- Registers of the portable scalars (R343). -/
def nativeG (i : BitVec 4) : Nat := 16 + i.toNat
def srcG (i : BitVec 4) : Source := srcS (nativeG i)
def srcK (k : BitVec 2) : Source := srcM k.toNat

/-- The spill operations of R346: slot n of the spill area at Dsp. -/
def reloadOp (i n v : Nat) : NativeOp :=
  { nativeOp i [toO1 (srcS 37), toAux (srcM 0) 1, toTrig (srcImm (256 * n : Nat)) 0x04] [12] 4 (some (toV (srcQ0 anySock) v)) with mem := some (2, 2) }

def spillOps (i dsp n v : Nat) : List NativeOp :=
  [nativeOp i [toTrig (srcImm (dsp + 256 * n : Nat)) 0x08] [4] 1 (some (toS (srcQ0 anySock) 38)),
   { nativeOp i [toO1 (srcS 38), toAux (srcM 0) 1, toTrig (srcV v) 0x0C] [12] 0 none with mem := some (3, 3) }]

/-- The format word of a matrix instruction (R347). -/
def matrixFormat (f : BitVec 2) : Int := match f.toNat with | 0 => 0x42 | 1 => 0x21 | 2 => 0x84 | _ => 0x63

/-- A two-operand vector operation. -/
def vecOp (i : Nat) (a b : Nat) (k : BitVec 2) (sel lat d : Nat) : NativeOp :=
  nativeOp i [toO1 (srcV a), toAux (srcK k) 2, toTrig (srcV b) sel] vecSocks lat (some (toV (srcQ0 anySock) d))

def matrixOp (i : Nat) (a b c : BitVec 4) (k : BitVec 8) (f : BitVec 2) (acc : Bool) : NativeOp :=
  let n := k.toNat
  { nativeOp i [mov (srcG a) 14 3 0, mov (srcG b) 14 3 1, mov (srcG c) 14 3 2, mov (.port 0 3 1 0) 14 3 3, mov (srcImm (matrixFormat f)) 14 3 8,
                mov (srcImm 0) 14 2 (if acc then 1 else 0)] [14] 0 none with
    lim := some (BitVec.ofNat 32 (n * 2 ^ 24 + n + 14)), interval := n, mem := some (1, n), ready := some (n + 14, acc) }

/-- The operations of one instruction; `a`, `b`, `c` and `d` are the native vector registers of its operands and its destination
(the third one is vfma's addend). Branches give the compare; the closing gives the rest. -/
def nativeOps (i : Nat) (x : Instr) (a b c d : Nat) : List NativeOp :=
  match x with
  | .rosnilAdd rd ra rb => [intOp i (srcG ra) (srcG rb) 0x00 1 (nativeG rd)]
  | .rosnilSub rd ra rb => [intOp i (srcG ra) (srcG rb) 0x01 1 (nativeG rd)]
  | .rosnilAnd rd ra rb => [intOp i (srcG ra) (srcG rb) 0x02 1 (nativeG rd)]
  | .rosnilOr rd ra rb => [intOp i (srcG ra) (srcG rb) 0x03 1 (nativeG rd)]
  | .rosnilXor rd ra rb => [intOp i (srcG ra) (srcG rb) 0x04 1 (nativeG rd)]
  | .rosnilShl rd ra rb => [intOp i (srcG ra) (srcG rb) 0x05 1 (nativeG rd)]
  | .rosnilShr rd ra rb => [intOp i (srcG ra) (srcG rb) 0x06 1 (nativeG rd)]
  | .rosnilSra rd ra rb => [intOp i (srcG ra) (srcG rb) 0x07 1 (nativeG rd)]
  | .rosnilMul rd ra rb => [intOp i (srcG ra) (srcG rb) 0x10 3 (nativeG rd)]
  | .rosnilSlt rd ra rb => [intOp i (srcG ra) (srcG rb) 0x1A 1 (nativeG rd)]
  | .rosnilSltu rd ra rb => [intOp i (srcG ra) (srcG rb) 0x1B 1 (nativeG rd)]
  | .rosnilAddi rd ra imm => [intOp i (srcG ra) (srcImm imm.toInt) 0x00 1 (nativeG rd)]
  | .rosnilLi rd imm => [nativeOp i [toS (srcImm imm.toInt) (nativeG rd)] [] 0 none]
  | .rosnilLio rd ra imm =>
    [intOp i (srcG ra) (srcImm 18) 0x05 1 32, intOp i (srcS 32) (srcImm imm.toNat) 0x03 1 (nativeG rd)]
  | .rosnilLd rd ra imm =>
    [{ nativeOp i [toO1 (srcG ra), toTrig (srcImm imm.toInt) 0x03] memSocks 4 (some (toS (srcQ0 anySock) (nativeG rd))) with mem := some (2, 2) }]
  | .rosnilSt ra rb => [{ nativeOp i [toO1 (srcG ra), toTrig (srcG rb) 0x0B] memSocks 0 none with mem := some (3, 3) }]
  | .rosnilBne ra rb _ => [nativeOp i [toO1 (srcG ra), toTrig (srcG rb) 0x19] intSocks 1 (some (toP (srcQ0 anySock) 7))]
  | .rosnilBlt ra rb _ => [nativeOp i [toO1 (srcG ra), toTrig (srcG rb) 0x1A] intSocks 1 (some (toP (srcQ0 anySock) 7))]
  | .rosnilGvl rd => [nativeOp i [toS (.port 20 2 0x0F 0) (nativeG rd)] [] 0 none]
  | .rosnilVld _ ra k imm =>
    [{ nativeOp i [toO1 (srcG ra), toAux (srcK k) 1, toTrig (srcImm imm.toInt) 0x04] memSocks 4 (some (toV (srcQ0 anySock) d)) with mem := some (2, 2) }]
  | .rosnilVst ra _ k => [{ nativeOp i [toO1 (srcG ra), toAux (srcK k) 1, toTrig (srcV b) 0x0C] memSocks 0 none with mem := some (3, 3) }]
  | .rosnilVfadd _ _ _ k => [vecOp i a b k 0x00 4 d]
  | .rosnilVfsub _ _ _ k => [vecOp i a b k 0x01 4 d]
  | .rosnilVfmul _ _ _ k => [vecOp i a b k 0x02 4 d]
  | .rosnilVfma _ _ _ k =>
    [nativeOp i [toO1 (srcV a), toO2 (srcV b), toAux (srcK k) 2, toTrig (srcV c) 0x03] vecSocks 5 (some (toV (srcQ0 anySock) d))]
  | .rosnilVfmax _ _ _ k => [vecOp i a b k 0x06 4 d]
  | .rosnilVfmin _ _ _ k => [vecOp i a b k 0x05 4 d]
  | .rosnilVwid _ _ k h s =>
    [nativeOp i [toAux (srcImm (if s = 0 then 0x20 else 0x40)) 0, toAux (srcImm (4 * h.toNat : Nat)) 3, toO2 (srcImm 0), toAux (srcK k) 2,
                 toTrig (srcV b) 0x29] vecSocks 3 (some (toV (srcQ0 anySock) d))]
  | .rosnilVrsum _ _ k => [nativeOp i [toAux (srcK k) 2, toTrig (srcV b) 0x2E] vecSocks 16 (some (toV (srcQ0 anySock) d))]
  | .rosnilVbcast _ ra => [nativeOp i [toV (srcG ra) d] [] 0 none]
  | .rosnilVwhile kd ra rb =>
    [nativeOp i [toAux (srcM 0) 2, toTrig (srcG ra) 0x33] vecSocks 2 (some (toV (srcQ0 anySock) 15)),
     nativeOp i [toO1 (srcV 15), toAux (srcM 0) 2, toTrig (srcG rb) 0x23] vecSocks 2 (some (toM (srcQ1 anySock) kd.toNat))]
  | .rosnilVmovs rd _ =>
    [nativeOp i [toO1 (srcV b), toO2 (srcImm 0), toTrig (srcImm 32) 0x1E] intSocks 1 (some (toS (srcQ0 anySock) (nativeG rd)))]
  | .rosnilMtile ra rb rc k f => [matrixOp i ra rb rc k f false]
  | .rosnilMtilea ra rb rc k f => [matrixOp i ra rb rc k f true]
  | .rosnilMdrain ra =>
    [{ nativeOp i [mov (srcImm 256) 15 0 0, mov (srcG ra) 15 3 4, mov (srcImm 0) 15 2 0] [15] 0 none with
        interval := 32, mem := some (5, 36), drains := true }]
  | .rosnilGkey ra => [{ nativeOp i [mov (srcG ra) 16 2 0] [16] 0 none with gnWrites := [0] }]
  | .rosnilGsm ra rb =>
    [{ nativeOp i [mov (srcG ra) 16 2 1] [16] 0 none with gnWrites := [1] }, { nativeOp i [mov (srcG rb) 16 2 2] [16] 0 none with gnWrites := [2] }]
  | .rosnilGdraw _ ra =>
    [{ nativeOp i [mov (srcImm 3) 16 0 0, mov (srcG ra) 16 2 3] [16] 6 (some (toV (srcQ0 16) d)) with gnReads := [0, 1, 2] }]
  | _ => []

/-! ### Instructions as the translator sees them (R339, R341, R342) -/

/-- Profile bits of R62 byte 16. -/
def profileOf (x : Instr) : Nat :=
  match x with
  | .rosnilGvl _ | .rosnilVld _ _ _ _ | .rosnilVst _ _ _ | .rosnilVfadd _ _ _ _ | .rosnilVfsub _ _ _ _ | .rosnilVfmul _ _ _ _
  | .rosnilVfma _ _ _ _ | .rosnilVfmax _ _ _ _ | .rosnilVfmin _ _ _ _ | .rosnilVwid _ _ _ _ _ | .rosnilVrsum _ _ _ | .rosnilVbcast _ _
  | .rosnilVwhile _ _ _ | .rosnilVmovs _ _ => 1
  | .rosnilMtile _ _ _ _ _ | .rosnilMtilea _ _ _ _ _ | .rosnilMdrain _ => 2
  | .rosnilGkey _ | .rosnilGsm _ _ | .rosnilGdraw _ _ => 3
  | _ => 0

/-- Words from a branch to its target. -/
def branchOffset (x : Instr) : Option Int :=
  match x with
  | .rosnilBne _ _ o | .rosnilBlt _ _ o | .rosnilJ o => some o.toInt
  | _ => none

/-- An instruction that ends its block. -/
def endsBlock (x : Instr) : Bool := (branchOffset x).isSome || x == .rosnilHalt

/-- Vector registers read, as operands a, b and d (R346), and the one written. -/
structure VecUse where
  a : Option Nat
  b : Option Nat
  c : Option Nat
  d : Option Nat
  deriving DecidableEq, Repr

def vecUse (x : Instr) : VecUse :=
  match x with
  | .rosnilVld d _ _ _ => ⟨none, none, none, some d.toNat⟩
  | .rosnilVst _ b _ => ⟨none, some b.toNat, none, none⟩
  | .rosnilVfadd d a b _ | .rosnilVfsub d a b _ | .rosnilVfmul d a b _ | .rosnilVfmax d a b _ | .rosnilVfmin d a b _ =>
    ⟨some a.toNat, some b.toNat, none, some d.toNat⟩
  | .rosnilVfma d a b _ => ⟨some a.toNat, some b.toNat, some d.toNat, some d.toNat⟩
  | .rosnilVwid d b _ _ _ => ⟨none, some b.toNat, none, some d.toNat⟩
  | .rosnilVrsum d b _ => ⟨none, some b.toNat, none, some d.toNat⟩
  | .rosnilVbcast d _ => ⟨none, none, none, some d.toNat⟩
  | .rosnilVmovs _ b => ⟨none, some b.toNat, none, none⟩
  | .rosnilGdraw d _ => ⟨none, none, none, some d.toNat⟩
  | _ => ⟨none, none, none, none⟩

def VecUse.names (u : VecUse) (w : Nat) : Bool := u.a == some w || u.b == some w || u.c == some w || u.d == some w

/-- A translator's rejection: cause and word index (R342). -/
abbrev Rejected := Nat × Nat

/-- The instruction of a word, checked against the declared profiles and the kernel's extent (R342). -/
def translateWord (profiles lo hi i : Nat) (w : BitVec 32) : Except Rejected Instr :=
  match decodePortable w with
  | none => .error (0x20, i)
  | some x =>
    if !WellFormed x then .error (0x20, i)
    else if profiles / 2 ^ profileOf x % 2 = 0 then .error (0x21, i)
    else match branchOffset x with
      | some o => if (i : Int) + o < lo ∨ (hi : Int) ≤ (i : Int) + o then .error (0x22, i) else .ok x
      | none => .ok x

def translateWords (profiles lo hi i : Nat) : List (BitVec 32) → Except Rejected (List Instr)
  | [] => .ok []
  | w :: ws =>
    match translateWord profiles lo hi i w with
    | .error e => .error e
    | .ok x => (translateWords profiles lo hi (i + 1) ws).map fun l => x :: l

/-! ### Registers (R345) -/

/-- The interval of a vector register over the kernel's indices. -/
structure LiveRange where
  w : Nat
  lo : Nat
  hi : Nat
  deriving DecidableEq, Repr

/-- From the first to the last index at which wn is read or written. -/
def liveRange (us : List VecUse) (w : Nat) : Option LiveRange :=
  let l := (List.range us.length).filter fun i => (us[i]?).any fun u => u.names w
  match l.head?, l.getLast? with
  | some lo, some hi => some ⟨w, lo, hi⟩
  | _, _ => none

/-- Widened over a backward branch that it meets. -/
def LiveRange.widen (r : LiveRange) (backs : List (Nat × Nat)) : LiveRange :=
  backs.foldl (fun r p => if r.lo ≤ p.2 ∧ p.1 ≤ r.hi then { r with lo := min r.lo p.1, hi := max r.hi p.2 } else r) r

/-- Widened until no interval changes. -/
def widenAll (backs : List (Nat × Nat)) : Nat → List LiveRange → List LiveRange
  | 0, l => l
  | fuel + 1, l =>
    let l' := l.map fun r => r.widen backs
    if l' = l then l else widenAll backs fuel l'

/-- The linear scan: what is active, what each register was given, and from which index it is spilled; the spills of active intervals. -/
structure Scan where
  active : List (LiveRange × Nat)
  given : Table (Option Nat × Nat)
  spills : List (Nat × Nat × Nat)

/-- Next index at or after one at which a register is read or written; the length when there is none. -/
def nextUse (us : List VecUse) (w i : Nat) : Nat :=
  ((List.range us.length).find? fun k => decide (i ≤ k) && (us[k]?).any fun u => u.names w).getD us.length

/-- The interval to spill: farthest next use, then higher number. -/
def farthest (us : List VecUse) (i : Nat) (ws : List Nat) : Nat :=
  ws.foldl (fun best w => if (nextUse us best i, best) = (nextUse us w i, w) then best
    else if nextUse us best i < nextUse us w i ∨ (nextUse us best i = nextUse us w i ∧ best < w) then w else best) (ws.headD 0)

def Scan.take (us : List VecUse) (s : Scan) (r : LiveRange) : Scan :=
  let active := s.active.filter fun p => r.lo ≤ p.1.hi
  let never := us.length
  match (List.range 12).find? fun v => active.all fun p => p.2 != v with
  | some v => { s with active := active ++ [(r, v)], given := Table.put s.given r.w (some v, never) }
  | none =>
    let w := farthest us r.lo (r.w :: active.map (·.1.w))
    match active.find? fun p => p.1.w = w with
    | some (old, v) =>
      { active := (active.filter fun p => p.1.w ≠ w) ++ [(r, v)],
        given := Table.put (Table.put s.given old.w (some v, r.lo)) r.w (some v, never), spills := s.spills ++ [(r.lo, old.w, v)] }
    | none => { s with active := active, given := Table.put s.given r.w (none, 0) }

def liveBefore (a b : LiveRange) : Bool := decide (a.lo < b.lo) || (a.lo == b.lo && decide (a.w < b.w))

/-- Registers of a kernel. -/
def scanKernel (xs : List Instr) : Scan :=
  let us := xs.map vecUse
  let backs := (List.range xs.length).filterMap fun (i : Nat) =>
    ((xs[i]?).bind branchOffset).bind fun o => if o ≤ 0 then some (((i : Int) + o).toNat, i) else none
  let ranges := widenAll backs (32 * backs.length + 1) ((List.range 16).filterMap (liveRange us))
  (sortBy liveBefore ranges).foldl (Scan.take us) ⟨[], [], []⟩

/-- The native register of wn at an index; none when it is spilled there. -/
def Scan.place (s : Scan) (w i : Nat) : Option Nat :=
  match Table.find s.given w with
  | some (some v, till) => if i < till then some v else none
  | _ => none

/-- Reload of an operand, with the register it is read from. -/
def Scan.operand (s : Scan) (i : Nat) (w : Option Nat) (temp : Nat) : Nat × List NativeOp :=
  match w with
  | none => (0, [])
  | some w =>
    match s.place w i with
    | some v => (v, [])
    | none => (temp, [reloadOp i w temp])

/-- The operations of the instruction at an index, spills inserted (R346); `base` is the word index of the kernel's entry. -/
def Scan.ops (s : Scan) (base dsp i : Nat) (x : Instr) : List NativeOp :=
  let u := vecUse x
  let before := (s.spills.filter fun p => p.1 = i).flatMap fun p => spillOps i dsp p.2.1 p.2.2
  let (a, la) := s.operand i u.a 12
  let (b, lb) := s.operand i u.b 13
  let (c, lc) := s.operand i u.c 14
  let (d, ld) := match u.d with
    | none => (0, [])
    | some w => match s.place w i with
      | some v => (v, [])
      | none => (15, spillOps i dsp w 15)
  (before ++ la ++ lb ++ lc ++ nativeOps i x a b c d ++ ld).map fun o => { o with index := base + o.index }

/-! ### Placement (R348) -/

/-- A placed operation: its trigger bundle and its socket. -/
structure PlacedOp where
  op : NativeOp
  t : Nat
  sock : Nat
  deriving DecidableEq, Repr

/-- A register read by a move, or written by one, as a number. -/
def regKey (sock : BitVec 5) (sel : BitVec 7) : Option Nat :=
  if sock = 5 then some sel.toNat else if sock = 6 then some (128 + sel.toNat) else if sock = 7 then some (256 + sel.toNat) else none

def Slot.readKey (s : Slot) : Option Nat :=
  match s.src with
  | .port k kind sel _ => if kind = 0 then regKey k sel else none
  | .imm _ => none

def Slot.writeKey (s : Slot) : Option Nat := if s.kind = 0 then regKey s.sock s.sel else none

/-- What an operation reads at its trigger and writes at a later bundle: registers, and the state of GN from 512 on. -/
def NativeOp.reads (o : NativeOp) : List Nat := o.moves.filterMap Slot.readKey ++ o.gnReads.map (512 + ·)
def NativeOp.writes (o : NativeOp) : List Nat :=
  (o.moves ++ o.result.toList).filterMap Slot.writeKey ++ o.gnWrites.map (512 + ·)

/-- The bundle of its result move; for a register move its own. -/
def PlacedOp.written (p : PlacedOp) : Nat := p.t + p.op.lat

/-- The moves of a bundle, in the order of placement. -/
def PlacedOp.movesAt (p : PlacedOp) (b : Nat) : List Slot :=
  let q := BitVec.ofNat 5 p.sock
  (if p.t = b then p.op.moves.map fun m => Slot.choose m q else []) ++
    (match p.op.result with | some m => if p.written = b then [Slot.choose m q] else [] | none => [])

/-- The capacity rules of spec/02 R48 and R49 on the moves of a bundle. -/
def capacityOk (l : List Slot) : Bool :=
  let reads (lo hi : Nat) : Nat := ((l.filterMap Slot.readKey).eraseDups.filter fun k => decide (lo ≤ k) && decide (k < hi)).length
  let writes (lo hi : Nat) : Nat := ((l.filterMap Slot.writeKey).filter fun k => decide (lo ≤ k) && decide (k < hi)).length
  let dests := l.map fun m => (m.sock, m.kind, if m.kind = 2 then 0 else m.sel)
  decide (l.length ≤ 24) && decide (reads 0 128 ≤ 12) && decide (writes 0 128 ≤ 6) && decide (reads 128 256 ≤ 8) && decide (writes 128 256 ≤ 4) &&
    decide (reads 256 512 ≤ 8) && decide (writes 256 512 ≤ 4) && dests.eraseDups.length == dests.length

/-- An operation and an earlier one agree on registers and GN state. -/
def PlacedOp.ordered (e p : PlacedOp) : Bool :=
  (p.op.reads.all fun r => !e.op.writes.contains r || decide (e.written < p.t)) &&
    p.op.writes.all fun r => (!e.op.reads.contains r || decide (e.t ≤ p.written)) && (!e.op.writes.contains r || decide (e.written < p.written))

/-- An operation and an earlier one of the same socket. -/
def PlacedOp.apart (e p : PlacedOp) : Bool :=
  p.op.socks.isEmpty || e.op.socks.isEmpty || e.sock != p.sock ||
    ((if e.t ≤ p.t then decide (e.t + e.op.interval ≤ p.t) else decide (p.t + p.op.interval ≤ e.t)) && e.t != p.t &&
      !(e.op.result.isSome && p.op.result.isSome && e.written == p.written))

/-- Memory operations perform in program order. -/
def PlacedOp.memoryAfter (e p : PlacedOp) : Bool :=
  match e.op.mem, p.op.mem with
  | some (_, x), some (y, _) => decide (e.t + x < p.t + y)
  | _, _ => true

/-- The operation fits at its bundle: `ring` are the ready cycles of the slots not yet drained, oldest first. -/
def PlacedOp.fits (done : List PlacedOp) (ring : List Nat) (p : PlacedOp) : Bool :=
  let bundle (b : Nat) : List Slot := (done ++ [p]).flatMap fun x => x.movesAt b
  (done.all fun e => e.ordered p && e.apart p && e.memoryAfter p) &&
    (p.op.lim.isNone || done.all fun e => e.op.lim.isNone || e.t != p.t) &&
    (!p.op.drains || (match ring.head? with | some r => decide (r ≤ p.t + 1) | none => true)) &&
    capacityOk (bundle p.t) && capacityOk (bundle p.written)

/-- A bundle from which on nothing earlier is in the way. -/
def PlacedOp.clear (p : PlacedOp) : Nat :=
  1 + max (max p.written (p.t + p.op.interval)) (max (((p.op.mem.map (·.2)).getD 0) + p.t) (((p.op.ready.map (·.1)).getD 0) + p.t))

/-- The block under construction. -/
structure BlockPlan where
  done : List PlacedOp
  ring : List Nat

/-- Place one operation at the earliest bundle, the lowest socket that fits first. -/
def BlockPlan.add (b : BlockPlan) (o : NativeOp) : BlockPlan :=
  let far := (b.done.map PlacedOp.clear).foldl max 0
  let socks := if o.socks.isEmpty then [0] else o.socks
  let p := ((List.range (far + 1)).findSome? fun t => (socks.find? fun q => PlacedOp.fits b.done b.ring ⟨o, t, q⟩).map fun q => ⟨o, t, q⟩).getD
    ⟨o, far, socks.headD 0⟩
  let ring := if o.drains then b.ring.drop 1 else b.ring
  let ring := match o.ready with
    | some (n, acc) => (if acc then ring.dropLast else ring) ++ [p.t + n]
    | none => ring
  ⟨b.done ++ [p], ring⟩

/-- E of R349: one more than the last trigger, result move, perform cycle or ready cycle; 0 for an empty block. -/
def BlockPlan.last (b : BlockPlan) : Nat :=
  (b.done.map fun p => 1 + max p.written (max (p.t + (p.op.mem.map (·.2)).getD 0) (p.t + (p.op.ready.map (·.1)).getD 0))).foldl max 0

/-! ### Blocks and their closing (R341, R349) -/

/-- A native bundle before its branch is filled in: an idle count, or moves with a long immediate; a taken branch by the index of its
target and whether p7 guards it; the entry of the loader's table. -/
structure NativeBundle where
  idle : Nat
  moves : List (BitVec 40)
  lim : BitVec 32
  jump : Option (Bool × Nat)
  source : Nat
  deriving DecidableEq, Repr

/-- The closing of a block: the branch or halt with its bundle, and the block's length. -/
structure Closing where
  jumpAt : Option (Nat × Bool × Nat)
  haltAt : Option Nat
  length : Nat

def closing (b : BlockPlan) (i : Nat) (x : Option Instr) : Closing :=
  let e := b.last
  match x with
  | some (.rosnilBne _ _ o) | some (.rosnilBlt _ _ o) =>
    let visible := ((b.done.getLast?).map fun p => p.written + 1).getD 0
    let t := max (e - 4) visible
    ⟨some (t, true, ((i : Int) + o.toInt).toNat), none, t + 4⟩
  | some (.rosnilJ o) => ⟨some (e - 4, false, ((i : Int) + o.toInt).toNat), none, e - 4 + 4⟩
  | some .rosnilHalt => ⟨none, some e, e + 1⟩
  | _ => ⟨none, none, e⟩

/-- The bundle at cycle n of a block; `i` is the word index of its last instruction. -/
def blockBundle (b : BlockPlan) (c : Closing) (i n : Nat) : NativeBundle :=
  let here := b.done.filter fun p => !(p.movesAt n).isEmpty
  let moves := here.flatMap fun p => (p.movesAt n).map encodeSlot
  let lim := (here.findSome? fun p => if p.t = n then p.op.lim else none).getD 0
  let jump := match c.jumpAt with | some (t, g, k) => if t = n then some (g, k) else none | none => none
  let halts : Bool := c.haltAt == some n
  let moves := if halts then moves ++ [encodeSlot (mov (srcImm 0) 1 2 0x0D)] else moves
  let own := if jump.isSome || halts then [i] else []
  ⟨0, moves, lim, jump, ((here.map (·.op.index)) ++ own).foldl min 0xFFFF⟩

/-- A bundle without a move. -/
def NativeBundle.isEmpty (b : NativeBundle) : Bool := b.idle = 0 ∧ b.moves.isEmpty ∧ b.jump.isNone

/-- Runs of empty bundles become idle runs of at most 65 535. -/
def compress : List NativeBundle → List NativeBundle
  | [] => []
  | b :: rest =>
    let l := compress rest
    if b.isEmpty then
      match l with
      | x :: xs => if 0 < x.idle ∧ x.idle < 65535 then { x with idle := x.idle + 1 } :: xs else { b with idle := 1 } :: l
      | [] => [{ b with idle := 1 }]
    else b :: l

/-- Index (within the kernel) of the first instruction of each block (R341). -/
def blockStarts (xs : List Instr) : List Nat :=
  let targets := (List.range xs.length).filterMap fun (i : Nat) => ((xs[i]?).bind branchOffset).map fun o => ((i : Int) + o).toNat
  (List.range xs.length).filter fun i => i == 0 || targets.contains i || (xs[i - 1]?).any endsBlock

/-- The bundles of a block of instructions lo to hi − 1, and the ring as it leaves it: its slots are ready. -/
def planBlock (s : Scan) (xs : List Instr) (base dsp lo hi : Nat) (ring : List Nat) : List NativeBundle × List Nat :=
  let ops := ((List.range (hi - lo)).map (lo + ·)).flatMap fun i => (xs[i]?).elim [] fun x => s.ops base dsp i x
  let b := ops.foldl BlockPlan.add ⟨[], ring⟩
  let i := hi - 1
  let c := closing b i (xs[i]?)
  (compress ((List.range c.length).map (blockBundle b c (base + i))), b.ring.map fun _ => 0)

/-- The prologue of R344. -/
def prologue (dsp : Nat) : List NativeBundle :=
  let bundle (l : List Slot) : NativeBundle := ⟨0, l.map encodeSlot, 0, none, 0xFFFF⟩
  [bundle ([mov (srcImm 0) 1 2 0x09, mov (srcImm dsp) 4 2 0x08] ++ (List.range 6).map fun k => toS (srcS k) (16 + k)),
   bundle [toS (srcQ0 4) 37, toS (srcS 6) 22, toS (srcS 7) 23]]

/-- A kernel's bundles with the place of each block: pairs of its first instruction and its bundle. -/
def planKernel (xs : List Instr) (base dsp : Nat) : List NativeBundle × List (Nat × Nat) :=
  let s := scanKernel xs
  let starts := blockStarts xs
  let ends := starts.drop 1 ++ [xs.length]
  let r := (starts.zip ends).foldl (init := (prologue dsp, ([] : List (Nat × Nat)), ([] : List Nat))) fun acc p =>
    let (l, ring) := planBlock s xs base dsp p.1 p.2 acc.2.2
    (acc.1 ++ l, acc.2.1 ++ [(p.1, acc.1.length)], ring)
  (r.1, r.2.1)

/-- The bundle with its branch: the difference of the indices (R65, R349). -/
def NativeBundle.finish (b : NativeBundle) (starts : List (Nat × Nat)) (here : Nat) : Bundle :=
  if 0 < b.idle then ⟨BitVec.ofNat 64 (b.idle * 2 ^ 16 + 1), []⟩
  else
    let jump := match b.jump with
      | some (g, k) =>
        let target := ((starts.find? fun p => p.1 = k).map (·.2)).getD 0
        let m := mov (srcImm ((target : Int) - here)) 1 2 0
        [encodeSlot (if g then { m with guard := ⟨false, 7⟩ } else m)]
      | none => []
    ⟨b.lim.setWidth 64 <<< 16, b.moves ++ jump⟩

/-! ### The object's kernels (R341, R342) -/

/-- What the translation answers: the native bundles from folio B on, the loader's table, and the native entry of each kernel. -/
structure Translated where
  bundles : List Bundle
  table : List Nat
  entries : List Nat

/-- The words of a kernel's code: up to the first zero word, the next kernel's entry, or the end. -/
def kernelWords (words : List (BitVec 32)) (entries : List Nat) (e : Nat) : List (BitVec 32) :=
  let next := ((entries.filter fun k => e < k).foldl min words.length)
  ((words.take next).drop e).takeWhile fun w => w ≠ 0

/-- One kernel joins the translation. -/
def Translated.addKernel (t : Translated) (profiles dsp : Nat) (words : List (BitVec 32)) (entries : List Nat) (e : Nat) :
    Except Rejected Translated :=
  let ws := kernelWords words entries e
  match translateWords profiles e (e + ws.length) e ws with
  | .error x => .error x
  | .ok xs =>
    let (l, starts) := planKernel xs e dsp
    .ok ⟨t.bundles ++ l.zipIdx.map (fun p => p.1.finish starts p.2), t.table ++ l.map (·.source), t.entries ++ [t.bundles.length]⟩

def translateKernels (profiles dsp : Nat) (words : List (BitVec 32)) (entries : List Nat) :
    List Nat → Translated → Except Rejected Translated
  | [], t => .ok t
  | e :: es, t =>
    match t.addKernel profiles dsp words entries e with
    | .error x => .error x
    | .ok t' => translateKernels profiles dsp words entries es t'

/-- The spill area's base: the least multiple of 4 096 at or above D + Z (R344). -/
def spillBase (d z : Nat) : Nat := (d + z + 4095) / 4096 * 4096

/-- The whole translation of an object's words, to be placed from folio B (R342). -/
def translateObject (profiles b d z : Nat) (words : List (BitVec 32)) (entries : List Nat) : Except Rejected Translated :=
  let dsp := spillBase d z
  if profiles % 2 = 0 then .error (0x21, 0)
  else if 2 ^ 20 < dsp + 4096 then .error (0x24, 0)
  else match translateKernels profiles dsp words entries entries ⟨[], [], []⟩ with
    | .error x => .error x
    | .ok t => if 64 * (15 - b) < t.bundles.length then .error (0x23, 0) else .ok t

end Sys2Proof.Machine
end

