-- ==== Sys2Proof/Machine/Loader.lean ====
section
/-!
DEFINITION. The Berael loader: an object's header, its checks, relocations and placement (spec/03 R62 to R66, spec/17 R330), portable
objects (spec/18 R339 to R349), and the forming of timing domains (spec/01 R10 to R13, R21, spec/22 R397 to R399).
-/
namespace Sys2Proof.Machine

/-! ### The file (R62, R64) -/

/-- A little-endian number of a file. -/
def fileNat (f : List Byte) (off n : Nat) : Nat := leNat ((f.drop off).take n)

/-- A file's header (R62). -/
structure ObjectHeader where
  mask : Word
  rosnil : Nat
  grid : Nat
  timing : Nat
  z : Nat
  kernels : Nat
  folios : Nat
  got : Nat
  symbols : Nat
  relocs : Nat
  kernelAt : Nat
  symbolAt : Nat
  folioAt : Nat
  dataAt : Nat
  relocAt : Nat
  stringAt : Nat
  deriving DecidableEq, Repr

def readHeader (f : List Byte) : ObjectHeader :=
  { mask := BitVec.ofNat 64 (fileNat f 8 8), rosnil := fileNat f 16 1, grid := fileNat f 17 1, timing := fileNat f 18 1,
    z := fileNat f 24 4, kernels := fileNat f 28 2, folios := fileNat f 30 2, got := fileNat f 32 2, symbols := fileNat f 34 2,
    relocs := fileNat f 36 4, kernelAt := fileNat f 40 4, symbolAt := fileNat f 44 4, folioAt := fileNat f 48 4,
    dataAt := fileNat f 52 4, relocAt := fileNat f 56 4, stringAt := fileNat f 60 4 }

/-- A kernel record. -/
structure KernelRecord where
  name : Nat
  entry : Nat
  flags : Nat
  reserved : Nat
  deriving DecidableEq, Repr

def ObjectHeader.kernel (h : ObjectHeader) (f : List Byte) (i : Nat) : KernelRecord :=
  let a := h.kernelAt + 16 * i
  ⟨fileNat f a 4, fileNat f (a + 4) 2, fileNat f (a + 6) 2, fileNat f (a + 12) 4⟩

def ObjectHeader.kernelList (h : ObjectHeader) (f : List Byte) : List KernelRecord := (List.range h.kernels).map (h.kernel f)

/-- A symbol record. -/
structure SymbolRecord where
  name : Nat
  section_ : Nat
  reserved : Nat
  value : Nat
  deriving DecidableEq, Repr

def ObjectHeader.symbol (h : ObjectHeader) (f : List Byte) (i : Nat) : SymbolRecord :=
  let a := h.symbolAt + 16 * i
  ⟨fileNat f a 4, fileNat f (a + 4) 1, fileNat f (a + 5) 3, fileNat f (a + 8) 8⟩

/-- A relocation record (R64). -/
structure Reloc where
  kind : Nat
  section_ : Nat
  slot : Nat
  reserved : Nat
  location : Nat
  index : Nat
  paired : Nat
  addend : Int
  deriving DecidableEq, Repr

def ObjectHeader.reloc (h : ObjectHeader) (f : List Byte) (i : Nat) : Reloc :=
  let a := h.relocAt + 24 * i
  ⟨fileNat f a 1, fileNat f (a + 1) 1, fileNat f (a + 2) 1, fileNat f (a + 3) 1, fileNat f (a + 4) 4, fileNat f (a + 8) 4,
    fileNat f (a + 12) 4, (BitVec.ofNat 64 (fileNat f (a + 16) 8)).toInt⟩

/-! ### Header and placement (R63, R66) -/

/-- A name string stands in the string table and ends there (R62). -/
def ObjectHeader.nameOk (h : ObjectHeader) (f : List Byte) (off : Nat) : Bool := (f.drop (h.stringAt + off)).contains 0

/-- Every section and name lies within the file. -/
def ObjectHeader.inFile (h : ObjectHeader) (f : List Byte) : Bool :=
  let fits (at_ n : Nat) : Bool := decide (at_ + n ≤ f.length)
  fits h.kernelAt (16 * h.kernels) && fits h.symbolAt (16 * h.symbols) && fits h.folioAt (8192 * h.folios) && fits h.dataAt h.z &&
    fits h.relocAt (24 * h.relocs) && fits h.stringAt 0 && (h.kernelList f).all (fun k => h.nameOk f k.name) &&
    (List.range h.symbols).all fun i => h.nameOk f (h.symbol f i).name

/-- Island-height field of header byte 18 (spec/22 R399). -/
def ObjectHeader.height (h : ObjectHeader) : Nat := h.timing / 4 % 4

/-- A reserved field or flag is not zero. -/
def ObjectHeader.reservedBad (h : ObjectHeader) (f : List Byte) : Bool :=
  fileNat f 6 2 != 0 || decide (2 ^ 16 ≤ h.mask.toNat) || h.timing / 16 != 0 || decide (2 ≤ h.height) ||
    (h.timing / 2 % 2 == 1 && h.grid != 5) ||
    (h.kernelList f).any (fun k => k.flags / 2 != 0 || k.reserved != 0 || (h.rosnil != 0 && k.flags != 0)) ||
    (List.range h.symbols).any fun i => (h.symbol f i).reserved != 0 || decide (1 < (h.symbol f i).section_)

/-- The GOT stands at the end of the data image. -/
def ObjectHeader.folioLimit (h : ObjectHeader) (f : List Byte) : Nat :=
  let ks := h.kernelList f
  if !ks.isEmpty && ks.all (fun k => k.flags % 2 == 1) then 16 else 15

/-- The fused true latency of a pair of dies a < b (spec/17 R325). -/
def State.pairLatency (s : State) (a b : Nat) : Nat :=
  let n := a * (15 - a) / 2 + (b - a - 1)
  wbits (s.fuse (11 + n / 10)) (6 * (n % 10) + 5) (6 * (n % 10))

/-- Every pair of dies falls within the latency class (R21). -/
def State.latencyOk (s : State) (d : DomainSpec) : Bool :=
  let ds := d.dies
  ds.all fun a => ds.all fun b => decide (b ≤ a) ||
    (let v := s.pairLatency a b
     if d.extended then decide (25 ≤ v) && decide (v ≤ 32) else decide (v ≤ 24))

/-- The first cause that rejects a header or a placement in a domain (R66); `admits` tells the latency classes that its dies admit (R21). The data
image is placed by the conditions of R63 (notes/assumptions/103.md). -/
def headerCause (f : List Byte) (d : DomainSpec) (admits : Bool → Bool) (place : Placement) : Option Nat :=
  if f.length < 6 ∨ fileNat f 0 4 ≠ 0x4C524542 ∨ fileNat f 4 2 ≠ 1 then some 0x0001
  else if f.length < 64 then some 0x0009
  else
    let h := readHeader f
    if !h.inFile f then some 0x0009
    else if h.reservedBad f then some 0x0002
    else if h.mask ≠ 1 then some 0x0003
    else if h.rosnil / 16 ≠ 0 then some 0x0004
    else if h.grid ≠ d.cls.code ∨ (h.height = 1) ≠ (d.rows12 = true) then some 0x0005
    else if !admits (h.timing % 2 == 1) ∨ (h.timing / 2 % 2 = 1) ≠ (d.cls = .multi ∧ d.longFabric = true) then some 0x0006
    else if h.folioLimit f < place.folio + h.folios then some 0x0007
    else if place.data % 4096 ≠ 0 ∨ 2 ^ 20 < place.data + h.z then some 0x0008
    else none

/-- The cause for a load into a slot: its domain's dies admit a latency class when every pair of them falls within it. -/
def State.loadCause (s : State) (slot : Nat) (place : Placement) (file : List Byte) : Option Nat :=
  let d := (s.domain slot).spec
  headerCause file d (fun x => s.latencyOk { d with extended := x }) place

/-! ### Relocations (R64 to R66) -/

/-- A value to write into a field: an 8-byte word of the data image, a bundle's long immediate (slot 24), or a slot's immediate. -/
structure Patch where
  inData : Bool
  location : Nat
  slot : Nat
  value : Int
  deriving DecidableEq, Repr

/-- What relocations are computed from: the file, its header, the placement. -/
structure LoadContext where
  file : List Byte
  h : ObjectHeader
  place : Placement

def LoadContext.symbolAddress (c : LoadContext) (i : Nat) : Int :=
  let y := c.h.symbol c.file i
  if y.section_ = 0 then 64 * c.place.folio + y.value else c.place.data + y.value

/-- The full value: a data symbol's is a local pointer (R63). -/
def LoadContext.fullValue (c : LoadContext) (i : Nat) : Int :=
  c.symbolAddress i + (if (c.h.symbol c.file i).section_ = 0 then 0 else 2 ^ 60)

/-- Value of the HI20 record that a LO12 names. -/
def LoadContext.high (c : LoadContext) (r : Reloc) : Int := (c.symbolAddress r.index + r.addend + 0x800) / 4096

/-- V of a record (R65). -/
def LoadContext.value (c : LoadContext) (r : Reloc) : Int :=
  let s := c.symbolAddress r.index
  match r.kind with
  | 1 => c.fullValue r.index + r.addend
  | 2 => s + r.addend
  | 3 => c.high r
  | 4 =>
    let p := c.h.reloc c.file r.paired
    c.symbolAddress p.index + p.addend - c.high p * 4096
  | 5 => s + r.addend - (64 * c.place.folio + r.location)
  | _ => (c.place.data : Int) + c.h.z - 8 * c.h.got + 8 * r.index + r.addend

/-- The range of V by kind. -/
def relocRange (kind : Nat) (v : Int) : Bool :=
  match kind with
  | 2 => decide (-2 ^ 31 ≤ v) && decide (v < 2 ^ 32)
  | 3 => decide (-524288 ≤ v) && decide (v ≤ 524287)
  | 4 => decide (-2048 ≤ v) && decide (v ≤ 2047)
  | 5 => decide (-1048576 ≤ v) && decide (v ≤ 1048575)
  | 6 => decide (0 ≤ v) && decide (v ≤ 1048575)
  | _ => true

/-- The 40 bits of a slot in the file's folio images. -/
def LoadContext.slotBits (c : LoadContext) (bundle slot : Nat) : Nat := fileNat c.file (c.h.folioAt + 128 * bundle + 8 + 5 * slot) 5

/-- Section, slot, location and immediate bit suit the kind; in a portable object only the data image may be named (spec/18 R340). -/
def LoadContext.placeOk (c : LoadContext) (r : Reloc) : Bool :=
  if r.kind = 1 then r.section_ == 1 && r.slot == 0 && r.location % 8 == 0 && decide (r.location + 8 ≤ c.h.z)
  else r.section_ == 0 && c.h.rosnil == 0 && decide (r.location < 64 * c.h.folios) &&
    (if r.kind = 2 then r.slot == 0xFF else decide (r.slot < 24) && (c.slotBits r.location r.slot).testBit 39)

/-- The first cause that rejects a record, in the order of R66. -/
def LoadContext.relocCause (c : LoadContext) (r : Reloc) : Option Nat :=
  if r.kind = 0 ∨ 6 < r.kind then some 0x0010
  else if r.reserved ≠ 0 ∨ (r.kind ≠ 4 ∧ r.paired ≠ 0) then some 0x0002
  else if !c.placeOk r then some 0x0011
  else if (if r.kind = 6 then c.h.got ≤ r.index else if r.kind = 4 then c.h.relocs ≤ r.paired else c.h.symbols ≤ r.index) then some 0x0014
  else if r.kind = 4 ∧ (r.index ≠ 0 ∨ r.addend ≠ 0 ∨ (c.h.reloc c.file r.paired).kind ≠ 3) then some 0x0013
  else if !relocRange r.kind (c.value r) then some 0x0012
  else none

/-- The error record of R66. -/
def errorRecord (index kind cause : Nat) (v : Word) : Word × Word := (BitVec.ofNat 64 (index * 2 ^ 32 + kind * 2 ^ 24 + cause), v)

/-- The first record that fails, as the load's error record. -/
def LoadContext.relocError (c : LoadContext) : Option (Word × Word) :=
  (List.range c.h.relocs).findSome? fun i =>
    let r := c.h.reloc c.file i
    (c.relocCause r).map fun cause => errorRecord i r.kind cause (if cause = 0x0012 then BitVec.ofInt 64 (c.value r) else 0)

def LoadContext.patch (c : LoadContext) (i : Nat) : Patch :=
  let r := c.h.reloc c.file i
  ⟨r.kind == 1, r.location, if r.kind = 2 then 24 else r.slot, c.value r⟩

/-! ### Writing (R65, R66) -/

/-- Write a patch into a placed object. -/
def State.applyPatch (s : State) (site : Nat) (c : LoadContext) (p : Patch) : State :=
  if p.inData then s.sramWrite site (c.place.data + p.location) (leBytes 8 (BitVec.ofInt 64 p.value).toNat)
  else
    let at_ := istoreAddr site (8192 * c.place.folio + 128 * p.location)
    if p.slot = 24 then s.writeBytes (at_ + 2) (leBytes 4 (BitVec.ofInt 32 p.value).toNat)
    else
      let old := c.slotBits p.location p.slot
      let v := (BitVec.ofInt 21 p.value).toNat
      s.writeBytes (at_ + 8 + 5 * p.slot) (leBytes 5 (old / 2 ^ 39 * 2 ^ 39 + v * 2 ^ 18 + old % 2 ^ 18))

/-- The loader measures the whole file into AS for supervisor kernels, else into AU, before it writes (spec/17 R330). -/
def State.measureLoad (s : State) (slot : Nat) (supervisor : Bool) (f : List Byte) : State :=
  let u := s.unit slot
  s.setUnit slot (if supervisor then { u with accS := extendAccession u.accS (shake256 f) } else { u with accU := extendAccession u.accU (shake256 f) })

/-- The entries that start kernels with supervisor privilege (spec/17 R317), after folios have been written. -/
def LaunchUnit.setKernels (u : LaunchUnit) (first count : Nat) (sup : List Nat) : LaunchUnit :=
  { u with supKernels := (u.supKernels.filter fun k => k < 64 * first ∨ 64 * (first + count) ≤ k) ++ sup }

/-- The profile masks that an object declares: the user context's for folios 0 to 14, the supervisor context's for folio 15
(spec/02 R53). -/
def LaunchUnit.declare (u : LaunchUnit) (first count : Nat) (mask : Word) : LaunchUnit :=
  { u with profile := if 0 < count ∧ first < 15 then mask else u.profile,
           supProfile := if first ≤ 15 ∧ 15 < first + count then mask else u.supProfile }

/-- The folio images and the data image of a file. -/
def LoadContext.folioBytes (c : LoadContext) : List Byte := (c.file.drop c.h.folioAt).take (8192 * c.h.folios)
def LoadContext.dataBytes (c : LoadContext) : List Byte := (c.file.drop c.h.dataAt).take c.h.z

/-- The data image and its relocated words. -/
def State.writeData (s : State) (site : Nat) (c : LoadContext) : State :=
  let s := s.sramWrite site c.place.data c.dataBytes
  ((List.range c.h.relocs).map c.patch).foldl (fun s p => if p.inData then s.applyPatch site c p else s) s

/-- The tiles that take an object. -/
def LoadContext.sites (c : LoadContext) : List Nat := c.place.site :: c.place.others

/-- A native object as it stands in one tile. -/
def State.writeFolios (s : State) (c : LoadContext) (site : Nat) : State :=
  let s := s.istoreWrite site (8192 * c.place.folio) c.folioBytes
  let s := ((List.range c.h.relocs).map c.patch).foldl (fun s p => if p.inData then s else s.applyPatch site c p) s
  s.writeData site c

/-- A native object is written, to every tile after it has been measured; with a supervisor kernel in it, the whole object is measured in AS (notes/assumptions/66.md). -/
def State.writeNative (s : State) (slot : Nat) (c : LoadContext) : State :=
  let ks := c.h.kernelList c.file
  let sup := (ks.filter fun k => k.flags % 2 = 1).map fun k => 64 * c.place.folio + k.entry
  let s := s.measureLoad slot (!sup.isEmpty) c.file
  let s := c.sites.foldl (fun s site => s.writeFolios c site) s
  let u := s.unit slot
  s.setUnit slot ((u.setKernels c.place.folio c.h.folios sup).declare c.place.folio c.h.folios c.h.mask)

/-- The words of a portable object. -/
def LoadContext.words (c : LoadContext) : List (BitVec 32) :=
  (List.range (2048 * c.h.folios)).map fun i => BitVec.ofNat 32 (fileNat c.file (c.h.folioAt + 4 * i) 4)

/-- A translated object is written; its folios are those its bundles reach into. -/
def State.writeTranslated (s : State) (slot : Nat) (c : LoadContext) (t : Translated) : State :=
  let s := s.measureLoad slot false c.file
  let bytes := t.bundles.flatMap Bundle.bytes
  let count := (t.bundles.length + 63) / 64
  let s := c.sites.foldl (fun s site =>
    (s.istoreWrite site (8192 * c.place.folio) (bytes ++ List.replicate (8192 * count - bytes.length) 0)).writeData site c) s
  let u := s.unit slot
  { s.setUnit slot ((u.setKernels c.place.folio count []).declare c.place.folio count c.h.mask) with host := { s.host with loadTable := t.table } }

/-- A portable context at its first kernel's entry: launch arguments in g0 to g7, everything else zero (spec/18 R333). -/
def State.startPortable (s : State) (c : LoadContext) : State :=
  let site := c.place.site
  let args := (s.tile site).s
  let s := s.writeBytes Config.portableBase c.folioBytes
  let entry := ((c.h.kernelList c.file).head?.map (·.entry)).getD 0
  let p := Portable.reset (Config.portableBase + 4 * entry)
  { s with portable := { p with running := true, site := site, g := Vector.ofFn fun i => if i.val < 8 then args.getD i.val 0 else 0 } }

/-- A portable object is translated and written; on request it also runs in its portable form (notes/assumptions/6.md). -/
def State.loadPortable (s : State) (slot : Nat) (c : LoadContext) : State :=
  let entries := (c.h.kernelList c.file).map (·.entry)
  match translateObject c.h.rosnil c.place.folio c.place.data c.h.z c.words entries with
  | .error (cause, word) => { s with host := { s.host with loadError := some (errorRecord (2 ^ 32 - 1) 0 cause (BitVec.ofNat 64 word)) } }
  | .ok t =>
    let s := s.writeTranslated slot c t
    if c.place.portable then s.startPortable c else s

/-- LOAD of an object onto a tile of a domain: the first failure rejects it and writes nothing (R66). -/
def State.loadObject (s : State) (slot : Nat) (place : Placement) (file : List Byte) : State :=
  let s := { s with host := { s.host with loadError := none, loadTable := [] } }
  let reject (e : Word × Word) : State := { s with host := { s.host with loadError := some e } }
  match s.loadCause slot place file with
  | some cause => reject (errorRecord (2 ^ 32 - 1) 0 cause 0)
  | none =>
    let c : LoadContext := ⟨file, readHeader file, place⟩
    match c.relocError with
    | some e => reject e
    | none => if c.h.rosnil ≠ 0 then s.loadPortable slot c else s.writeNative slot c

def execObjectLoad (slot : Nat) (place : Placement) (file : List Byte) (s : State) : Result := .next (s.loadObject slot place file)

/-! ### Forming a domain (spec/01 R10 to R13, R21, spec/22 R397) -/

/-- The islands of a class, as placed (R11). -/
def DomainSpec.shapeOk (d : DomainSpec) : Bool :=
  let dies (a n : Nat) : List Nat := (List.range (2 * n)).map (2 * a + ·)
  (!d.rows12 || (d.cls != .whole && d.cls != .multi)) && decide (d.throttle ≤ 16) &&
  match d.cls, d.islands with
  | .island, [i] => decide (i < 16)
  | .die, i :: _ => i % 2 == 0 && decide (i < 16) && d.islands == dies (i / 2) 1
  | .pair, i :: _ => i % 2 == 0 && decide (i < 16) && decide (i / 2 % 4 < 3) && d.islands == dies (i / 2) 2
  | .half, i :: _ => (i == 0 || i == 8) && d.islands == dies (i / 2) 4
  | .whole, _ | .multi, _ => d.islands == List.range 16
  | _, _ => false

/-- The trained links of a module admit a multi-module domain of a fabric class: each port that has measured its latency (spec/13 R263). -/
def State.fabricOk (s : State) (d : DomainSpec) : Bool :=
  d.cls != .multi || s.ports.all fun (p : Nat × Port) =>
    match p.2.latency with
    | some n => !p.2.trained || (if d.longFabric then decide (337 ≤ n) && decide (n ≤ 784) else decide (n ≤ 336))
    | none => true

/-- No row that a die supplies to a domain is left out of the die's grid (spec/01 R8, spec/22 R397). -/
def State.rowsWhole (s : State) (d : DomainSpec) (die : Nat) : Bool :=
  (List.range 32).all fun y => (d.coords die 0 y).isNone || decide ((s.die die).left y ≤ 32)

/-- A domain may be formed in a slot: its class's islands, of one partition, of dies that are available, in no other domain. -/
def State.formable (s : State) (slot : Nat) (d : DomainSpec) : Bool :=
  DomainSpec.shapeOk d && slot == d.islands.foldl min 16 && s.latencyOk d && s.fabricOk d && (!s.hasDomain slot || s.quiet slot) &&
    (match s.partitionOfIsland (d.islands.headD 16) with
      | some k => d.islands.all fun i => s.partitionOfIsland i == some k
      | none => false) &&
    (d.dies.all fun k => (s.die k).available && !(s.die k).booting && s.rowsWhole d k) &&
    (s.slotsOn fun i => d.islands.contains i).all fun k => k == slot

/-- FORMING a domain: its DCC is 0 and its pier sub-tree is set up anew (R13). -/
def execDomainFormation (slot : Nat) (spec : DomainSpec) (s : State) : Result :=
  .next (if s.formable slot spec then
      let s := s.setDomain slot { Domain.blank with spec := spec, throttle := spec.throttle }
      let s := ((List.range 32).filter spec.owns).foldl (fun s k => s.setStack k { s.stack k with used := true }) s
      { s with mmc := { s.mmc with forming := s.mmc.forming.filter fun k => some k ≠ s.partitionOf slot } }
    else s)

end Sys2Proof.Machine
end

