-- ==== Sys2Proof/Machine/Boot.lean ====
section
/-!
DEFINITION. Cold start of a compute die: entering boot state, and its end (spec/23 R402 to R405).
-/
namespace Sys2Proof.Machine

/-- The boot leader of a die: the tile at physical site (0, 0) (R402). -/
def bootLeader (die : Nat) : Nat := siteOf die 0 0

/-- A tile at the entry into boot state: z0 tells the leader, queue 1 is open and current, the supervisor context starts at 960. -/
def Tile.enterBoot (leader : Bool) : Tile :=
  { Tile.reset with
    z := Tile.reset.z.setIfInBounds 0 (if leader then 1 else 0)
    sv := { SvState.reset with queues := SvState.reset.queues.setIfInBounds 0 ⟨0x80000, 12, 0, []⟩, current := 1 }
    inSup := true, loose := true }

/-- Boot image into folios 14 and 15. -/
def State.placeBootImage (s : State) (site : Nat) : State := s.istoreWrite site (14 * 8192) bootImage

/-- ENTRY INTO BOOT STATE: the tiles stand as after a core reset, the images are placed, and every live tile's supervisor context
starts; the die's clock runs at k = 16 (R402). -/
def State.enterBoot (s : State) (die : Nat) : State :=
  let slot := 16 + die
  let s := (s.releaseDie die).resetTiles die
  let s := s.setDomain slot { Domain.blank with boot := true, throttle := 16 }
  let s := s.setUnit slot { s.unit slot with limits := 0x101020 }
  let s := s.setDie die { s.die die with booting := true, leaderDone := false, available := false }
  let sites := s.domainSites slot
  let s := sites.foldl (fun s k => (s.placeBootImage k).setTile k (Tile.enterBoot (k == bootLeader die))) s
  s.sramWrite (bootLeader die) 0xFC000 ((List.range 16384).map Config.secondStage)

/-- The boot image and the second stage run only when they have been verified (spec/17 R329). -/
def execBootStateEntry (die : Nat) (s : State) : Result :=
  .next (if 8 ≤ die ∨ s.mmc.recovery ∨ !s.mmc.booted.contains 3 then s else s.enterBoot die)

/-- The left-out columns that the leader has found: lanes 0 to 31 at offset 0x7_FC00 (R405). -/
def State.bootMap (s : State) (die : Nat) : List Nat :=
  (List.range 32).map fun y => leNat (s.sramRead (bootLeader die) (0x7FC00 + 4 * y) 4)

/-- The map agrees with the fuses, row by row (R325, R405). -/
def State.mapAgrees (s : State) (die : Nat) : Bool := ((s.bootMap die).zipIdx).all fun p => s.fusedCol die p.2 == p.1

/-- The leader has issued SY.eret and no catwalk message sent on the die is on its way (R405). -/
def State.bootDone (s : State) (die : Nat) : Bool :=
  (s.die die).booting && (s.die die).leaderDone && (s.messages.all fun m => siteDie m.src != die) &&
    s.requests.all fun m => siteDie m.site != die

/-- A tile whose boot has ended: no context issues. -/
def Tile.leaveBoot (t : Tile) : Tile := { t with inSup := false, loose := false, supHalted := false }

/-- END OF BOOT STATE: the routers take the map, rows left out of the grid stay out; a die whose map agrees is available (R405). -/
def State.endBoot (s : State) (die : Nat) : State :=
  let slot := 16 + die
  let left := s.bootMap die
  let ok := s.mapAgrees die
  let s := s.mapDomainTiles slot Tile.leaveBoot
  let s := s.dropDomains [slot]
  s.setDie die { s.die die with leftOut := left, booting := false, leaderDone := false, available := ok }

def execBootStateEnd (die : Nat) (s : State) : Result := .next (if s.bootDone die then s.endBoot die else s)

end Sys2Proof.Machine
end

