-- ==== Sys2Proof/Machine/Control.lean ====
section
/-!
DEFINITION. The control socket CT (spec/04 R81 to R91) and the steps of a context's issue that follow from it: reaching a
branch target, the end of a hardware loop, forced realignment, and a user interrupt.
-/
namespace Sys2Proof.Machine

/-- The issue state of the context that issues. -/
def Tile.thread (t : Tile) : Thread := if t.inSup then t.sup else t.user
def Tile.setThread (t : Tile) (h : Thread) : Tile := if t.inSup then { t with sup := h } else { t with user := h }

/-- The bundle that the issuing context reaches (R82). -/
def State.nextBundle (s : State) (site : Nat) : Bundle := s.bundleAt site (s.tile site).thread.pc

/-- Highest bundle index open to a branch target (R81, R82). -/
def Tile.topIndex (t : Tile) : Nat := if t.inSup || t.privileged then 1023 else 959

def Tile.setCt (t : Tile) (x : CtState) : Tile := { t with cap := { t.cap with ct := x } }

/-- A control fault of a trigger: trigger data and o1 in the record (spec/20 R364). -/
def Trig.controlFault (g : Trig) (s : State) : State := g.fault s 0x2002 g.b (s.tile g.site).cap.ct.o1

/-- A taken branch: the pc takes the target after three delay bundles (R82). -/
def Tile.branch (t : Tile) (target : Nat) : Tile :=
  t.setThread { t.thread with redirects := t.thread.redirects ++ [⟨3, target⟩] }

/-- A bundle issued now is a delay bundle of a taken branch (R82). -/
def Thread.inDelay (h : Thread) : Bool := !h.redirects.isEmpty

/-- A branch to a computed target, with a change of the tile that goes with it; a target out of range is a control fault. -/
def Trig.branch (g : Trig) (s : State) (target : Word) (f : Tile → Tile) : State :=
  if (s.tile g.site).topIndex < target.toNat then g.controlFault s
  else s.mapTile g.site fun t => (f t).branch target.toNat

/-- The index of the issuing bundle as a word. -/
def Trig.here (g : Trig) : Word := BitVec.ofNat 64 g.from_.bundle

/-- lnk := i + 4 (R81, R83). -/
def Tile.link (t : Tile) (i : Nat) : Tile := t.setCt { t.cap.ct with lnk := BitVec.ofNat 64 (i + 4) }

def fireJmp (g : Trig) (s : State) : State := g.branch s (g.here + g.b) id
def fireJmpa (g : Trig) (s : State) : State := g.branch s g.b id
def fireJmpx (g : Trig) (s : State) : State := g.branch s ((s.tile g.site).cap.ct.o1 + g.b) id
def fireCall (g : Trig) (s : State) : State := g.branch s (g.here + g.b) fun t => t.link g.from_.bundle
def fireCalla (g : Trig) (s : State) : State := g.branch s g.b fun t => t.link g.from_.bundle
def fireRet (g : Trig) (s : State) : State := g.branch s (s.tile g.site).cap.ct.lnk id

/-- Why CT.loop is a control fault (R84). -/
def loopBad (t : Tile) (i : Nat) (l n : Word) : Bool :=
  l == 0 || decide (t.topIndex < i + l.toNat) || decide (2 ^ 32 ≤ n.toNat) || t.thread.inDelay

/-- CT.loop at bundle i: start i + 1, end i + L, count n; with n = 0 the next bundle is the one after the end (R84). -/
def Tile.setLoop (t : Tile) (i : Nat) (l n : Word) : Tile :=
  let t := t.setCt { t.cap.ct with start := (i + 1) % 1024, lend := i + l.toNat, lcnt := n.toNat }
  if n = 0 then t.setThread { t.thread with pc := (i + l.toNat + 1) % 1024 } else t

def fireLoop (g : Trig) (s : State) : State :=
  let t := s.tile g.site
  let l := t.cap.ct.o1
  if loopBad t g.from_.bundle l g.b then g.controlFault s
  else s.mapTile g.site fun t => t.setLoop g.from_.bundle l g.b

/-- lcnt := 0 and a branch past the loop's end (R81). -/
def fireLbrk (g : Trig) (s : State) : State :=
  g.branch s (BitVec.ofNat 64 ((s.tile g.site).cap.ct.lend + 1)) fun t => t.setCt { t.cap.ct with lcnt := 0 }

/-- The bits of the mode mask that may be set: 2, 3, 4 and 8 to 16 (R85). -/
def modeBits : Word := 0x1FF1C#64

/-- The mask applies from c + 1 (R85). -/
def fireMode (g : Trig) (s : State) : State :=
  if g.b &&& ~~~modeBits ≠ 0 then g.controlFault s
  else s.mapTile g.site fun t => t.setCt { t.cap.ct with maskNext := some (g.b.setWidth 17) }

/-- The tile is loose from c + 1 (R86). -/
def fireLoose (g : Trig) (s : State) : State := s.mapTile g.site fun t => { t with looseNext := true }

/-- The arrival of a tile; the supervisor context issues no more before its next entry (R87). -/
def Tile.arrive (t : Tile) : Tile := { t with arrived := true, supHalted := t.supHalted || t.inSup }

/-- CT.pier: the tile's arrival, with its parked mark to the desk (R87, spec/15 R304). -/
def firePier (g : Trig) (s : State) : State :=
  if (s.tile g.site).thread.inDelay || (s.domain g.slot).boot then g.controlFault s
  else
    let s := s.mapTile g.site Tile.arrive
    (s.notePier g.slot).postUnit g.site g.slot (.desk (.parked (s.flat g.slot g.site) (s.tile g.site).bay)) false [] []

/-- A realignment at cycle c pauses issue during c + 1 to c + 32 and restarts the interval of R25, which counts from c + 33 on (the model's choice,
notes/assumptions/100.md). -/
def Domain.realign (d : Domain) : Domain := { d with pausedUntil := d.dcc + 33, realignFrom := d.dcc + 33 }

/-- CT.realign; a loose tile's is a control fault (R88). -/
def fireRealign (g : Trig) (s : State) : State :=
  if (s.tile g.site).loose || (s.domain g.slot).boot then g.controlFault s
  else s.mapDomain g.slot Domain.realign

/-- A specification word of CT.fence that raises a control fault (R89). -/
def fenceBad (b : Word) : Bool :=
  decide (b.toNat / 64 ≠ 0) || b.getLsbD 3 || decide (wbits b 5 4 = 0) || decide (5 ≤ wbits b 2 0)

/-- What a fence holds later untimed operations for: a release for the part of the tile's release set within its scope, an acquire for
the replies of earlier bchks, which either kind waits for, since a release releases what they acquire as well; an earlier qpop has landed
before any of them departs (R89, spec/12 R254 to R256). -/
def State.fenceHolds (s : State) (slot site : Nat) (b : Word) : List Outstanding :=
  (if b.getLsbD 4 then (s.releaseSet slot site).filter (s.inScope slot site (wbits b 2 0)) else []) ++ s.unobserved site

/-- CT.fence never delays issue: it holds later untimed operations of the tile (R89, spec/12 R254, R255). -/
def fireFence (g : Trig) (s : State) : State :=
  if fenceBad g.b then g.controlFault s
  else
    s.mapTile g.site fun t => { t with holds := t.holds ++ s.fenceHolds g.slot g.site g.b }

/-- The end of a tile's task; the supervisor context issues no more before its next entry (R90). -/
def Tile.endTask (t : Tile) : Tile := { t with halted := true, running := false, supHalted := t.supHalted || t.inSup }

/-- CT.halt: the task ends, with a release at system scope that its count at the launch counter waits for (spec/12 R255), counts as arrived at every later pier, and its ended mark goes to the desk (R87, R90, spec/15 R304).
In boot state the tile stops until boot state ends (spec/23 R403). -/
def fireHalt (g : Trig) (s : State) : State :=
  if (s.domain g.slot).boot then s.mapTile g.site fun t => { t with supHalted := true }
  else
    let waits := s.signalWaits g.slot g.site (some 4)
    let s := s.mapTile g.site fun t => { t.endTask with holds := waits }
    let s := s.mapDomain g.slot fun d => { d with launch := d.launch.map fun l => { l with lastHalt := some d.dcc } }
    (s.notePier g.slot).postUnit g.site g.slot (.desk (.ended (s.flat g.slot g.site) (s.tile g.site).bay)) false [] []

/-- Debug is enabled for the context that issued the trigger: configuration register 0x002 (spec/17 R324). -/
def State.debugEnabled (s : State) (slot : Nat) (sup : Bool) : Bool := (s.unit slot).debugEnable.getLsbD (if sup then 1 else 0)

/-- CT.bkpt: a breakpoint trap when debug is enabled for the context, else nothing (R90). -/
def fireBkpt (g : Trig) (s : State) : State :=
  if s.debugEnabled g.slot g.from_.sup then g.fault s 0x2004 0 0 else s

/-- CT.ecall: an ecall trap with b and o1 in the record (R90). -/
def fireEcall (g : Trig) (s : State) : State := g.fault s 0x2003 g.b (s.tile g.site).cap.ct.o1

/-- CT.uiret: a branch to uipc as read at c; the mask clears at c + 4 (R91). -/
def fireUiret (g : Trig) (s : State) : State :=
  g.branch s (s.tile g.site).cap.ct.uipc fun t => t.setCt { t.cap.ct with unmaskAt := some (g.cyc + 4) }

/-- CT.uimask: the mask takes b[0]; other bits must be zero (R91). -/
def fireUimask (g : Trig) (s : State) : State :=
  if g.b.toNat / 2 ≠ 0 then g.controlFault s
  else s.mapTile g.site fun t => t.setCt { t.cap.ct with masked := g.b.getLsbD 0 }

/-- `jmp`: taken branch to i + b (R81, R82). -/
def execCtJmp (s : State) : Result := .next (s.trigger [.ct] fireJmp)

/-- `jmpa`: taken branch to b (R81). -/
def execCtJmpa (s : State) : Result := .next (s.trigger [.ct] fireJmpa)

/-- `jmpx`: taken branch to a + b (R81). -/
def execCtJmpx (s : State) : Result := .next (s.trigger [.ct] fireJmpx)

/-- `call`: jmp with lnk := i + 4 (R81, R83). -/
def execCtCall (s : State) : Result := .next (s.trigger [.ct] fireCall)

/-- `calla`: jmpa with lnk := i + 4 (R81, R83). -/
def execCtCalla (s : State) : Result := .next (s.trigger [.ct] fireCalla)

/-- `ret`: taken branch to lnk (R81). -/
def execCtRet (s : State) : Result := .next (s.trigger [.ct] fireRet)

/-- `loop`: hardware loop (R84). -/
def execCtLoop (s : State) : Result := .next (s.trigger [.ct] fireLoop)

/-- `lbrk`: leaves a loop (R81). -/
def execCtLbrk (s : State) : Result := .next (s.trigger [.ct] fireLbrk)

/-- `mode`: socket modes (R85). -/
def execCtMode (s : State) : Result := .next (s.trigger [.ct] fireMode)

/-- `loose`: loose from c + 1 (R86). -/
def execCtLoose (s : State) : Result := .next (s.trigger [.ct] fireLoose)

/-- `pier`: arrival (R87). -/
def execCtPier (s : State) : Result := .next (s.trigger [.ct] firePier)

/-- `realign` (R25, R88). -/
def execCtRealign (s : State) : Result := .next (s.trigger [.ct] fireRealign)

/-- `fence` (R89). -/
def execCtFence (s : State) : Result := .next (s.trigger [.ct] fireFence)

/-- `halt`: end of task (R90). -/
def execCtHalt (s : State) : Result := .next (s.trigger [.ct] fireHalt)

/-- `bkpt`: breakpoint trap when enabled (R90). -/
def execCtBkpt (s : State) : Result := .next (s.trigger [.ct] fireBkpt)

/-- `ecall`: ecall trap (R90). -/
def execCtEcall (s : State) : Result := .next (s.trigger [.ct] fireEcall)

/-- `uiret`: return from a user interrupt (R91). -/
def execCtUiret (s : State) : Result := .next (s.trigger [.ct] fireUiret)

/-- `uimask`: sets the interrupt mask (R91). -/
def execCtUimask (s : State) : Result := .next (s.trigger [.ct] fireUimask)

/-! ### Issue steps -/

/-- A bundle cycle issues: pending branches have one delay bundle fewer to wait for (R82). -/
def Thread.count (h : Thread) : Thread := { h with redirects := h.redirects.map fun r => { r with left := r.left - 1 } }

/-- A branch with no delay bundle left fixes the next bundle, and ends an idle run (R82). -/
def Thread.takeBranch (h : Thread) : Thread :=
  match h.redirects.find? fun r => r.left == 0 with
  | some r => { h with pc := r.target, idle := 0, redirects := h.redirects.filter fun r => r.left != 0 }
  | none => h

/-- A taken branch's target becomes the next bundle after the third delay bundle (R82). -/
def execTakenBranchRedirect (site : Nat) (s : State) : Result :=
  .next (s.mapTile site fun t => t.setThread t.thread.takeBranch)

/-- The issue of the bundle at lend while lcnt ≥ 1: lcnt falls by one, and the next bundle is the loop's start if it was greater
than 1 (R84). -/
def Tile.loopEnd (t : Tile) (issued : Nat) : Tile :=
  let x := t.cap.ct
  if issued = x.lend ∧ 1 ≤ x.lcnt then
    let t := t.setCt { x with lcnt := x.lcnt - 1 }
    if 1 < x.lcnt then t.setThread { t.thread with pc := x.start } else t
  else t

/-- End of a hardware loop's pass, after the bundle that the step names as issued (R84). -/
def execHardwareLoopEnd (site : Nat) (s : State) : Result := .next (s.mapTile site fun t => t.loopEnd s.cur.from_.bundle)

/-- A realignment forced by the hardware, the same as one that CT.realign issues in this cycle (R25). -/
def execForcedRealignment (slot : Nat) (s : State) : Result := .next (s.mapDomain slot Domain.realign)

/-- A user interrupt may be taken in this cycle: never where the bundle that it would interrupt is an idle run, begun or to
begin, so that uipc never names one (R91). -/
def State.takesInterrupt (s : State) (site : Nat) : Bool :=
  let t := s.tile site
  !t.irqs.isEmpty && t.loose && !t.inSup && !t.cap.ct.masked && !t.user.inDelay && t.user.idle == 0 && (s.nextBundle site).kind != 1

/-- Taking the interrupt: uipc := the next bundle, the mask is set, the handler issues at the next cycle, and ID.xfer names the
transfer (R91, R94). -/
def Tile.interrupt (t : Tile) : Tile :=
  match t.irqs with
  | [] => t
  | q :: rest =>
    let t := t.setCt { t.cap.ct with uipc := BitVec.ofNat 64 t.user.pc, masked := true, unmaskAt := none }
    { t with irqs := rest, user := { t.user with pc := q.handler % 1024 }, id := { t.id with xfer := BitVec.ofNat 64 q.xfer } }

/-- A user-level interrupt is taken; nothing happens where the conditions of R91 do not hold. -/
def execUserInterruptTaken (site : Nat) (s : State) : Result :=
  .next (if s.takesInterrupt site then s.mapTile site Tile.interrupt else s)

end Sys2Proof.Machine
end

