-- ==== Sys2Proof/Machine/Gauss.lean ====
section
/-!
DEFINITION. The GN socket: key, stream and member, and the regenerable draws (spec/08 R177 to R184).
-/
namespace Sys2Proof.Machine

/-- The key, stream and member as they stand for the next change: a change under way counts (R177, R181). -/
def GnState.keys (x : GnState) : Word × BitVec 24 × BitVec 24 := x.next.getD (x.key, x.stream, x.member)

/-- Apply the change made in the last cycle (R177). -/
def GnState.settle (x : GnState) : GnState :=
  match x.next with
  | some (k, st, m) => { x with key := k, stream := st, member := m, next := none }
  | none => x

/-- A change of key, stream or member, visible from c + 1 (R177). -/
def State.setKeys (s : State) (site : Nat) (f : Word × BitVec 24 × BitVec 24 → Word × BitVec 24 × BitVec 24) : State :=
  s.mapTile site fun t => { t with gn := { t.gn with next := some (f t.gn.keys) } }

/-- A stream fault with the value refused and its reason (R178, spec/20 R364). -/
def Trig.streamFault (g : Trig) (s : State) (value : Word) (reason : Nat) : State :=
  g.fault s 0x2006 value (BitVec.ofNat 64 reason)

def fireGnKey (g : Trig) (s : State) : State := s.setKeys g.site fun k => (g.b, k.2)

def fireGnStream (g : Trig) (s : State) : State :=
  if 2 ^ 24 ≤ g.b.toNat then g.streamFault s g.b 3 else s.setKeys g.site fun k => (k.1, g.b.setWidth 24, k.2.2)

def fireGnMember (g : Trig) (s : State) : State :=
  if 2 ^ 24 ≤ g.b.toNat then g.streamFault s g.b 3 else s.setKeys g.site fun k => (k.1, k.2.1, g.b.setWidth 24)

/-- The member is compared as it stands at c (R177, R178). -/
def fireGnNext (g : Trig) (s : State) : State :=
  let m := (s.tile g.site).gn.member
  if m = 0xFFFFFF#24 then g.streamFault s (m.setWidth 64) 2 else s.setKeys g.site fun k => (k.1, k.2.1, m + 1)

/-- The three operations of R182 that land draws. -/
inductive GnOp where
  | draw | regen | bits
  deriving DecidableEq, Repr

def GnOp.ofSel (sel : Nat) : GnOp := match sel with | 3 => .draw | 4 => .regen | _ => .bits

/-- Landing: 6 cycles, 7 for regen (R181). -/
def GnOp.latency : GnOp → Nat | .regen => 7 | _ => 6

/-- Byte n of a vector (spec/06 R126). -/
def Vec.byte (v : Vec) (n : Nat) : Nat := (v.lane (n / 4)).toNat / 2 ^ (8 * (n % 4)) % 256

/-- The purpose of a draw: regen's is 0 (R182). -/
def GnOp.purpose (op : GnOp) (o1 : Word) : Nat := if op = .regen then 0 else o1.toNat % 256

/-- Lane i of R182. -/
def GnOp.lane (op : GnOp) (x : GnState) (e i : Nat) : Lane :=
  let out := (DrawKey.mk x.key x.stream x.member).call (op.purpose x.o1) (e + i)
  match op with
  | .draw => epsilonWord out
  | .bits => out.extractLsb' 0 32
  | .regen => deviation (Vec.byte x.o2 (64 * wbits x.o1 9 8 + i)) out

/-- A firing of draw, regen or bits (R178, R182). -/
def GnOp.fire (op : GnOp) (g : Trig) (s : State) : State :=
  let x := (s.tile g.site).gn
  if 2 ^ 40 - 63 ≤ g.b.toNat then g.streamFault s g.b 1
  else if x.o1.toNat / 1024 ≠ 0 ∨ 3 < op.purpose x.o1 then g.streamFault s x.o1 4
  else
    let r : InFlight := ⟨g.cyc + op.latency, some (.v (Vec.gen (op.lane x g.b.toNat))), some (g.b + 64), 0, false, none⟩
    s.mapTile g.site fun t => t.firePipe .gn (g.cyc + 1) r

/-- key, stream, member and next fire at their issue cycle in both modes, whatever waits (R183). They are no firing that operands written
or the issue interval are counted from (notes/assumptions/76.md). -/
def State.triggerNow (s : State) (own : List Sock) (fire : Trig → State → State) : State :=
  let g := s.trigOf own
  if !s.cur.pre.guard s.curSlot.guard then s
  else if s.forbidden g.slot g.site g.sock g.sel then g.forbid s
  else fire g s

/-- `key` (R181). -/
def execGnKey (s : State) : Result := .next (s.triggerNow [.gn] fireGnKey)

/-- `stream` (R181). -/
def execGnStream (s : State) : Result := .next (s.triggerNow [.gn] fireGnStream)

/-- `member` (R181). -/
def execGnMember (s : State) : Result := .next (s.triggerNow [.gn] fireGnMember)

/-- `draw` (R181, R182). -/
def execGnDraw (s : State) : Result := .next (s.trigger [.gn] (GnOp.fire .draw))

/-- `regen` (R181, R182). -/
def execGnRegen (s : State) : Result := .next (s.trigger [.gn] (GnOp.fire .regen))

/-- `bits` (R181, R182). -/
def execGnBits (s : State) : Result := .next (s.trigger [.gn] (GnOp.fire .bits))

/-- `next` (R181). -/
def execGnNext (s : State) : Result := .next (s.triggerNow [.gn] fireGnNext)

end Sys2Proof.Machine
end

