-- ==== Sys2Proof/Machine/Integer.lean ====
section
/-!
DEFINITION. The integer sockets IA and IB (spec/04 R72 to R74).
-/
namespace Sys2Proof.Machine

/-- The operations of IA and IB (R72). -/
inductive IntOp where
  | add | sub | and | or | xor | shl | shr | sra | min | max | minu | maxu | adds | subs | addus | subus | mul | mulh | mulhu
  | div | divu | rem | remu | ceq | cne | clt | cltu | clz | pop | ext
  deriving DecidableEq, Repr

/-- The operation of a trigger selector (spec/02 R43). -/
def IntOp.ofSel (sel : Nat) : IntOp :=
  match sel with
  | 0x00 => .add | 0x01 => .sub | 0x02 => .and | 0x03 => .or | 0x04 => .xor | 0x05 => .shl | 0x06 => .shr | 0x07 => .sra
  | 0x08 => .min | 0x09 => .max | 0x0A => .minu | 0x0B => .maxu | 0x0C => .adds | 0x0D => .subs | 0x0E => .addus
  | 0x0F => .subus | 0x10 => .mul | 0x11 => .mulh | 0x12 => .mulhu | 0x13 => .div | 0x14 => .divu | 0x15 => .rem
  | 0x16 => .remu | 0x18 => .ceq | 0x19 => .cne | 0x1A => .clt | 0x1B => .cltu | 0x1C => .clz | 0x1D => .pop
  | _ => .ext

/-- A signed value narrowed to the nearest 64-bit one. -/
def satSigned (k : Int) : Word := BitVec.ofInt 64 (if k < -2 ^ 63 then -2 ^ 63 else if 2 ^ 63 - 1 < k then 2 ^ 63 - 1 else k)

/-- The number of leading zero bits, 64 of zero. -/
def leadingZeros (b : Word) : Nat := if b = 0 then 64 else 63 - Nat.log2 b.toNat

/-- The number of one bits. -/
def onesCount (b : Word) : Nat := (List.range 64).foldl (fun n i => if b.getLsbD i then n + 1 else n) 0

/-- The bit field of R74: position `lo[5:0]`, width `spec[6:0]` of at most 64, sign-extended when `spec[7]` is set. -/
def bitField (a lo spec : Word) : Word :=
  let p := wbits lo 5 0
  let w := min 64 (wbits spec 6 0)
  let f := a.toNat / 2 ^ p % 2 ^ w
  if w = 0 then 0
  else if spec.getLsbD 7 ∧ 2 ^ (w - 1) ≤ f then BitVec.ofInt 64 ((f : Int) - 2 ^ w)
  else BitVec.ofNat 64 f

/-- q0 of an operation with a in o1, `lo` in o2 and b the trigger data (R72, R73, R74). -/
def IntOp.eval (op : IntOp) (a lo b : Word) : Word :=
  let sh := wbits b 5 0
  match op with
  | .add => a + b
  | .sub => a - b
  | .and => a &&& b
  | .or => a ||| b
  | .xor => a ^^^ b
  | .shl => a <<< sh
  | .shr => a >>> sh
  | .sra => a.sshiftRight sh
  | .min => if a.slt b then a else b
  | .max => if a.slt b then b else a
  | .minu => if a.ult b then a else b
  | .maxu => if a.ult b then b else a
  | .adds => satSigned (a.toInt + b.toInt)
  | .subs => satSigned (a.toInt - b.toInt)
  | .addus => if 2 ^ 64 ≤ a.toNat + b.toNat then .allOnes 64 else a + b
  | .subus => if a.toNat < b.toNat then 0 else a - b
  | .mul => a * b
  | .mulh => BitVec.ofInt 64 (a.toInt * b.toInt / 2 ^ 64)
  | .mulhu => BitVec.ofNat 64 (a.toNat * b.toNat / 2 ^ 64)
  | .div => if b = 0 then .allOnes 64 else a.sdiv b
  | .divu => if b = 0 then .allOnes 64 else a / b
  | .rem => if b = 0 then a else a.srem b
  | .remu => if b = 0 then a else a % b
  | .ceq => predWord (a == b)
  | .cne => predWord (a != b)
  | .clt => predWord (a.slt b)
  | .cltu => predWord (a.ult b)
  | .clz => BitVec.ofNat 64 (leadingZeros b)
  | .pop => BitVec.ofNat 64 (onesCount b)
  | .ext => bitField a lo b

/-- The four division forms share one divider (R73). -/
def IntOp.isDiv : IntOp → Bool
  | .div | .divu | .rem | .remu => true
  | _ => false

/-- L of R72. -/
def IntOp.latency (op : IntOp) : Nat :=
  if op.isDiv then 34
  else match op with
    | .mul | .mulh | .mulhu => 3
    | _ => 1

/-- Operand ports the operation reads (R70, R72, R74). -/
def IntOp.reads : IntOp → Bool × Bool
  | .clz | .pop => (false, false)
  | .ext => (true, true)
  | _ => (true, false)

/-- The result in flight of an operation fired at cycle c on a socket. -/
def IntOp.result (op : IntOp) (x : IntState) (b : Word) (c : Nat) : InFlight :=
  ⟨c + op.latency, some (.s (op.eval x.o1 x.o2 b)), none, 0, false, none⟩

/-- A firing: the result lands in q0 at c + L; a division holds the divider for 34 cycles against other divisions only (R73). -/
def IntOp.fireTile (op : IntOp) (q : Sock) (b : Word) (c : Nat) (t : Tile) : Tile :=
  let x := t.cap.int q
  let y := { x with divReadyAt := if op.isDiv then c + 34 else x.divReadyAt }
  { t with cap := t.cap.setInt q y } |>.firePipe q (c + 1) (op.result x b c)

/-- A firing of IA or IB; it never faults (R71). -/
def IntOp.fire (op : IntOp) (g : Trig) (s : State) : State := s.mapTile g.site (op.fireTile g.sock g.b g.cyc)

/-- Issue of an integer trigger. -/
def IntOp.issue (op : IntOp) (s : State) : State := s.trigger [.ia, .ib] op.fire

/-- `add`: (a + b) mod 2^64 (R72). -/
def execIaAdd (s : State) : Result := .next (IntOp.issue .add s)

/-- `sub`: (a − b) mod 2^64 (R72). -/
def execIaSub (s : State) : Result := .next (IntOp.issue .sub s)

/-- `and` (R72). -/
def execIaAnd (s : State) : Result := .next (IntOp.issue .and s)

/-- `or` (R72). -/
def execIaOr (s : State) : Result := .next (IntOp.issue .or s)

/-- `xor` (R72). -/
def execIaXor (s : State) : Result := .next (IntOp.issue .xor s)

/-- `shl`: a shifted left by b[5:0] (R72). -/
def execIaShl (s : State) : Result := .next (IntOp.issue .shl s)

/-- `shr`: zeros shifted in (R72). -/
def execIaShr (s : State) : Result := .next (IntOp.issue .shr s)

/-- `sra`: the sign shifted in (R72). -/
def execIaSra (s : State) : Result := .next (IntOp.issue .sra s)

/-- `min`: signed minimum (R72). -/
def execIaMin (s : State) : Result := .next (IntOp.issue .min s)

/-- `max`: signed maximum (R72). -/
def execIaMax (s : State) : Result := .next (IntOp.issue .max s)

/-- `minu`: unsigned minimum (R72). -/
def execIaMinu (s : State) : Result := .next (IntOp.issue .minu s)

/-- `maxu`: unsigned maximum (R72). -/
def execIaMaxu (s : State) : Result := .next (IntOp.issue .maxu s)

/-- `adds`: signed sum, saturated (R72). -/
def execIaAdds (s : State) : Result := .next (IntOp.issue .adds s)

/-- `subs`: signed difference, saturated (R72). -/
def execIaSubs (s : State) : Result := .next (IntOp.issue .subs s)

/-- `addus`: unsigned sum, saturated (R72). -/
def execIaAddus (s : State) : Result := .next (IntOp.issue .addus s)

/-- `subus`: unsigned difference, saturated to 0 (R72). -/
def execIaSubus (s : State) : Result := .next (IntOp.issue .subus s)

/-- `mul`: low 64 bits of the product (R72). -/
def execIaMul (s : State) : Result := .next (IntOp.issue .mul s)

/-- `mulh`: high 64 bits of the signed product (R72). -/
def execIaMulh (s : State) : Result := .next (IntOp.issue .mulh s)

/-- `mulhu`: high 64 bits of the unsigned product (R72). -/
def execIaMulhu (s : State) : Result := .next (IntOp.issue .mulhu s)

/-- `div`: signed quotient (R72, R73). -/
def execIaDiv (s : State) : Result := .next (IntOp.issue .div s)

/-- `divu`: unsigned quotient (R72, R73). -/
def execIaDivu (s : State) : Result := .next (IntOp.issue .divu s)

/-- `rem`: signed remainder (R72, R73). -/
def execIaRem (s : State) : Result := .next (IntOp.issue .rem s)

/-- `remu`: unsigned remainder (R72, R73). -/
def execIaRemu (s : State) : Result := .next (IntOp.issue .remu s)

/-- `ceq` (R72). -/
def execIaCeq (s : State) : Result := .next (IntOp.issue .ceq s)

/-- `cne` (R72). -/
def execIaCne (s : State) : Result := .next (IntOp.issue .cne s)

/-- `clt`: signed (R72). -/
def execIaClt (s : State) : Result := .next (IntOp.issue .clt s)

/-- `cltu`: unsigned (R72). -/
def execIaCltu (s : State) : Result := .next (IntOp.issue .cltu s)

/-- `clz`: leading zero bits of b (R72). -/
def execIaClz (s : State) : Result := .next (IntOp.issue .clz s)

/-- `pop`: one bits of b (R72). -/
def execIaPop (s : State) : Result := .next (IntOp.issue .pop s)

/-- `ext`: bit field of a (R74). -/
def execIaExt (s : State) : Result := .next (IntOp.issue .ext s)

end Sys2Proof.Machine
end

