-- ==== Sys2Proof/Machine/Issue.lean ====
section
/-!
DEFINITION. Issue: which bundle a tile issues, the checks that make a bundle illegal (spec/02 R48 to R52), the moves as one
simultaneous step (R38), idle runs and holds (R30, R31, spec/15 R301), data-locked firing (spec/04 R70), and results landing
(R69, spec/06 R129).
-/
namespace Sys2Proof

/-- A slot that carries a trigger, with its socket and selector. -/
def Slot.trig (x : Slot) : Option (Sock × Nat) :=
  if x.kind = 2 then (Sock.ofNum x.sock.toNat).map fun q => (q, x.sel.toNat) else none

/-- A slot that writes a port or register. -/
def Slot.writes (x : Slot) : Option (Sock × Nat × Nat) :=
  if x.kind = 2 then none else (Sock.ofNum x.sock.toNat).map fun q => (q, x.kind.toNat, x.sel.toNat)

/-- The register a source names: its file and number (spec/02 R40). -/
def Source.register : Source → Option (Sock × Nat)
  | .imm _ => none
  | .port k kind sel _ =>
    match Sock.ofNum k.toNat with
    | some q => if kind = 0 ∧ (q = .sr ∨ q = .vr ∨ q = .pr) then some (q, sel.toNat) else none
    | none => none

/-- The register a slot writes. -/
def Slot.register (x : Slot) : Option (Sock × Nat) :=
  match x.writes with
  | some (q, 0, sel) => if q = .sr ∨ q = .vr ∨ q = .pr then some (q, sel) else none
  | _ => none

/-- Two slots form a pair of R49: one predicate, opposite invert bits. -/
def Slot.pairs (a b : Slot) : Bool := a.guard.index == b.guard.index && a.guard.invert != b.guard.invert

end Sys2Proof

namespace Sys2Proof.Machine

/-- Operand ports a vector operation reads (spec/06 R132). -/
def VecOp.reads : VecOp → Bool × Bool
  | .ffma | .ffms | .sel | .enc => (true, true)
  | .cvt | .dec => (false, true)
  | .fabs | .fneg | .amax | .rsum | .iota => (false, false)
  | _ => (true, false)

/-! ### The checks of a bundle (R48 to R51) -/

/-- The non-empty slots of a bundle with their numbers. -/
def bundleSlots (b : Bundle) : List (Nat × Slot) :=
  (b.slots.map decodeSlot).zipIdx.filterMap fun x => if x.1.isEmpty then none else some (x.2, x.1)

/-- A mask of slots. -/
def slotMask (ks : List Nat) : Nat := ks.foldl (fun m k => m ||| 2 ^ k) 0

/-- Slots that share a destination, other than a legal pair (R48, R49: reason 0x09). -/
def sharedSlots (l : List (Nat × Slot)) : List Nat :=
  (l.filter fun x =>
    match x.2.writes with
    | none => false
    | some d =>
      let others := l.filter fun y => y.1 != x.1 && y.2.writes == some d
      match others with
      | [] => false
      | [y] => !x.2.pairs y.2
      | _ => true).map (·.1)

/-- Slots with a second trigger of their socket (R48, R49: reason 0x0A). -/
def secondTriggers (l : List (Nat × Slot)) : List Nat :=
  (l.filter fun x =>
    match x.2.trig with
    | none => false
    | some (q, _) => l.any fun y => y.1 != x.1 && (y.2.trig.map (·.1)) == some q).map (·.1)

/-- Limits of a register file: distinct registers read and written (R48). -/
def fileLimits : Sock → Nat × Nat
  | .sr => (12, 6)
  | _ => (8, 4)

/-- Slots of a register file whose limit is exceeded (R48: reason 0x0B). -/
def overLimit (l : List (Nat × Slot)) : List Nat :=
  [Sock.sr, Sock.vr, Sock.pr].flatMap fun f =>
    let rd := l.filter fun x => match Source.register x.2.src with | some (q, _) => q == f | none => false
    let wr := l.filter fun x => match x.2.register with | some (q, _) => q == f | none => false
    let distinct (r : Nat × Slot → Option (Sock × Nat)) (m : List (Nat × Slot)) : Nat := ((m.map r).eraseDups).length
    (if (fileLimits f).1 < distinct (fun x => Source.register x.2.src) rd then rd.map (·.1) else [])
      ++ (if (fileLimits f).2 < distinct (fun x => x.2.register) wr then wr.map (·.1) else [])

/-- The slots whose encoding breaks a reason from 0x05 to 0x0C. -/
def slotReason (l : List (Nat × Slot)) (user : Bool) (reason : Nat) : List Nat :=
  match reason with
  | 0x09 => sharedSlots l
  | 0x0A => secondTriggers l
  | 0x0B => overLimit l
  | r => (l.filter fun x => x.2.breaks user r).map (·.1)

/-- Reasons that the header alone breaks (R51): kind, reserved bits, a hold bit in a timed tile, an ill-formed idle run. -/
def headerReason (b : Bundle) (loose : Bool) : Option Nat :=
  let h := b.header
  if 2 ≤ b.kind then some 0x01
  else if h.extractLsb' 48 16 ≠ 0 ∨ h.extractLsb' 5 11 ≠ 0 then some 0x02
  else if b.hold ∧ !loose then some 0x03
  else if b.kind = 1 ∧ (b.idleCount = 0 ∨ h.extractLsb' 32 16 ≠ 0 ∨ b.slots.any fun x => x != 0) then some 0x04
  else none

/-! ### The checks of a firing trigger in a free-running socket (R50, R51, R42, R45) -/

/-- The interval of the socket's previous firing has not elapsed (R50, R73, R158, R163, R168). -/
def Tile.withinInterval (t : Tile) (q : Sock) (sel now : Nat) : Bool :=
  match q with
  | .mx => (decide (sel < 0x30) || sel == 0x40) && decide (now < t.mx.fetchEnd)
  | .ns => t.ep.net.any fun w => decide (w.1 ≤ now) && decide (now ≤ w.2)
  | .sy => decide (now < t.sy.accxReadyAt)
  | .ia | .ib => decide (now < (t.pipe q).readyAt) || ((IntOp.ofSel sel).isDiv && decide (now < (t.cap.int q).divReadyAt))
  | q => q.lockable && decide (now < (t.pipe q).readyAt)

/-- A format, rounding, act or ofmt word that the firing consumes is bad (R42, R114, R166); every routine trigger, calx among
them, consumes the format word of MX (spec/07 R149). -/
def Tile.badWordFor (t : Tile) (q : Sock) (sel : Nat) : Bool :=
  match q with
  | .va | .vb | .vc =>
    let x := t.cap.vec q
    let op := VecOp.ofSel sel
    (vecFormats op x.fmt x.tbl).isNone || (op == .cvt && (RndWord.ofWord x.rnd).check.isNone)
  | .ep => sel != 5 && (epWords t.ep.act t.ep.ofmt).isNone
  | .mx => (decide (sel < 0x30) || sel == 0x40) && (mxFormats t.mx.fmt).isNone
  | _ => false

/-- A routine trigger of the store whose entry is unwritten (R45). -/
def Tile.unwritten (t : Tile) (q : Sock) (sel : Nat) : Bool :=
  q == .mx && decide (0x10 ≤ sel) && decide (sel < 0x30) && (t.mx.routineStart sel).isNone

/-- A move of the bundle that performs: its slot, and its value as read at c. -/
structure Move where
  number : Nat
  slot : Slot
  value : Res
  deriving DecidableEq, Repr

/-- The reason a trigger with a true guard breaks, if any. -/
def State.fireReason (s : State) (slot site : Nat) (t : Tile) (locked : Sock → Bool) (x : Slot) (reason : Nat) : Bool :=
  match x.trig with
  | none => false
  | some (q, sel) =>
    if locked q || s.forbidden slot site q sel then false
    else match reason with
      | 0x06 => t.unwritten q sel
      | 0x0D => t.withinInterval q sel (s.sockCycle slot site q)
      | 0x0E => t.badWordFor q sel
      | _ => false

/-- The user context issues a bundle of folio 15 (spec/17 R317: reason 0x0C). -/
def inFolio15 (user : Bool) (index : Nat) : Bool := user && decide (960 ≤ index)

/-- The lowest reason of R51 from 0x05 on that a bundle breaks, with the mask of its slots: what its encoding breaks, whatever the
guards, and what its triggers break: those with a true guard, `guarded`, the interval, whether or not their sources slip, and those that
fire, `fired`, the other reasons; `t` is the tile with the bundle's writes made. A user bundle in folio 15 breaks 0x0C
with the slots that name supervisor ports, which may be none (notes/assumptions/48.md). -/
def State.bundleReason (s : State) (slot site index : Nat) (b : Bundle) (user : Bool) (t : Tile) (locked : Sock → Bool)
    (guarded fired : List (Nat × Slot)) : Option (Nat × Nat) :=
  [0x05, 0x06, 0x07, 0x08, 0x09, 0x0A, 0x0B, 0x0C, 0x0D, 0x0E].findSome? fun r =>
    let ks := slotReason (bundleSlots b) user r ++ ((if r = 0x0D then guarded else fired).filter fun x => s.fireReason slot site t locked x.2 r).map (·.1)
    if ks.isEmpty && !(r == 0x0C && inFolio15 user index) then none else some (r, slotMask ks)

/-! ### Issue of a bundle (R30, R38) -/

/-- Where a bundle of a tile is issued now; slot 0xFF names no move. -/
def State.originOf (s : State) (slot site bundle : Nat) : Origin :=
  let d := s.domain slot
  let t := s.tile site
  ⟨bundle, 0xFF, d.dcc, t.bay, t.bayOffset d.dcc, 0, t.inSup⟩

/-- An illegal bundle: nothing of it has effect (R51). -/
def State.illegal (s : State) (slot site : Nat) (o : Origin) (b : Bundle) (reason mask : Nat) : State :=
  let detail := BitVec.ofNat 64 (reason * 2 ^ 24 + mask)
  let first := (List.range 24).find? fun k => mask.testBit k
  match first with
  | some k => s.raise slot site { o with slot := k, slotValue := b.slots.getD k 0 } (0x1000 + reason) detail 0 []
  | none => s.raiseValue slot site o (0x1000 + reason) (if reason ≤ 4 then b.header else 0) detail 0 []

/-- The value a landing-register or data-locked read cannot give: its slip (R27, R219), or nothing. -/
def Tile.readSlip (t : Tile) : Source → Option (Nat × Word)
  | .imm _ => none
  | .port k kind sel tag =>
    match Sock.ofNum k.toNat with
    | none => none
    | some q =>
      if isLanding q kind sel.toNat then
        let l := t.ns.landing sel.toNat
        if l.tag ≠ tag then some (0x3001, tagWord sel.toNat tag l.tag) else none
      else if kind = 0 ∧ t.locked q ∧ !(t.pipe q).full then some (0x300C, BitVec.ofNat 64 q.num)
      else none

/-- The cell that a source reads. -/
def Source.cell : Source → Option Nat
  | .imm _ => none
  | .port k kind sel _ =>
    (Sock.ofNum k.toNat).map fun q =>
      cellCode (if q = .sr ∨ q = .vr ∨ q = .pr then 0 else kind.toNat + 1) q sel.toNat

/-- The cell that a slot writes. -/
def Slot.cell (x : Slot) : Option Nat :=
  x.writes.map fun (q, kind, sel) =>
    cellCode (if q = .sr ∨ q = .vr ∨ q = .pr then 0 else if kind = 3 then 3 else 4 + kind) q sel

/-- The cells that a bundle reads: the predicates of its guards, the sources of the moves whose guard is true, and the ports of
the EP and NS triggers that fire and that the bundle does not write (spec/20 R367, spec/24 R410). -/
def Tile.readCells (t : Tile) (l : List (Nat × Slot)) : List (Nat × Nat) :=
  let live := l.filter fun x => t.guard x.2.guard
  let written := live.filterMap fun x => Slot.cell x.2
  let ports (x : Slot) : List Nat :=
    match x.trig with
    | some (q, sel) => if t.locked q then [] else (operandCells q sel).filter fun c => !written.contains c
    | none => []
  (l.filter fun x => x.2.guard.index != 0).map (fun x => (x.1, cellCode 0 .pr x.2.guard.index.toNat)) ++
    live.flatMap fun x => ((Source.cell x.2.src).toList ++ ports x.2).map fun c => (x.1, c)

/-- The parity errors in the cells that a bundle reads: slots and cells. -/
def State.parityErrors (s : State) (site : Nat) (l : List (Nat × Slot)) : List (Nat × Nat) :=
  ((s.tile site).readCells l).filter fun r => s.badRegs.contains (site, r.2)

/-- Each parity error is an event of the tile: the lowest slot is kept, the others count (spec/20 R362). -/
def State.raiseParity (s : State) (slot site : Nat) (o : Origin) (b : Bundle) (l : List (Nat × Nat)) : State :=
  l.foldl (fun s (k, r) =>
    s.raise slot site { o with slot := k, slotValue := b.slots.getD k 0 } 0x5003 (BitVec.ofNat 64 (r % 2 ^ 13)) 0 []) s

/-- An uncorrectable error in the bundle's 128 bytes (spec/20 R367). -/
def State.bundleBad (s : State) (site index : Nat) : Bool :=
  let lo := istoreAddr site (128 * index)
  s.badWords.any fun a => decide (a < lo + 128) && decide (lo < a + 8)

/-- One bundle cycle has issued: the pc moves on, delay bundles count, and the user context retires one (R82, spec/15 R303). -/
def Tile.countCycle (t : Tile) (pc : Nat) : Tile :=
  let t := t.setThread { t.thread.count with pc := pc % 1024 }
  if t.inSup then t else { t with retired := t.retired + 1 }

/-- The quantum mark that a tile's retired count calls for; it follows the bundle's own requests (spec/15 R304). -/
def State.markSteps (s : State) (slot site : Nat) (o : Origin) : List Todo :=
  let t := s.tile site
  let q := (s.domain slot).quantum
  if !t.inSup ∧ t.retired % q = 0 ∧ 0 < t.retired then
    [⟨site, slot, o, .quantumMark slot (.passed (s.flat slot site) t.bay (t.retired / q - 1))⟩]
  else []

/-- What follows the issue of a bundle: its triggers, those of MX first, and with them a routine that waits in MX and fires in
this cycle, since an EP trigger looks at the ring as it leaves it (spec/07 R161); where the bundle's triggers write the same counter,
the later step of this order stands (notes/assumptions/30.md). CT.pier and CT.halt come last: what the bundle asks of the desk reaches it
before their marks (spec/15 R304). -/
def issueSteps (site slot : Nat) (o : Origin) (b : Bundle) (ms : List Move) : List Todo :=
  let todo (m : Move) : Option Todo :=
    (m.slot.trigger).map fun i => ⟨site, slot, { o with slot := m.number, slotValue := b.slots.getD m.number 0 }, i⟩
  let isMx (m : Move) : Bool := m.slot.sock == 14
  let isEnd (m : Move) : Bool := m.slot.trigger == some .ctPier || m.slot.trigger == some .ctHalt
  (ms.filter isMx).filterMap todo ++ [⟨site, slot, o, .dataLockedFire site .mx⟩] ++ (ms.filter fun m => !isMx m && !isEnd m).filterMap todo ++
    (ms.filter isEnd).filterMap todo

def flowSteps (site slot : Nat) (o : Origin) : List Todo :=
  [⟨site, slot, o, .hardwareLoopEnd site⟩, ⟨site, slot, o, .takenBranchRedirect site⟩]

/-- The writes of the moves: ports and registers (R34, R38). -/
def writeMoves (t : Tile) (ms : List Move) : Tile :=
  ms.foldl (fun t m =>
    match m.slot.writes with
    | some (q, kind, sel) => t.writePort q kind sel m.value
    | none => t) t

/-- Cells written whole lose a parity error. -/
def State.healCells (s : State) (site : Nat) (cells : List Nat) : State :=
  { s with badRegs := s.badRegs.filter fun r => !(r.1 == site && cells.contains r.2) }

/-- The moves of a bundle as one step (R38): sources are read, slips found, operands and registers written; a bundle that breaks a
reason of R51 has none of this effect. -/
def State.commitBundle (s : State) (slot site index : Nat) (o : Origin) (b : Bundle) : State :=
  let pre := s.tile site
  let guarded := (bundleSlots b).filter fun x => pre.guard x.2.guard
  let slips := guarded.filterMap fun x => (pre.readSlip x.2.src).map fun p => (x.1, p)
  let live := guarded.filter fun x => (pre.readSlip x.2.src).isNone
  let ms : List Move := live.map fun x => ⟨x.1, x.2, s.readSource slot site pre b.header index x.2.src⟩
  let emptied := live.foldl (fun t x => t.emptied x.2.src) pre
  let t := writeMoves emptied ms
  match s.bundleReason slot site index b (!pre.isSupervisor) t pre.locked guarded live with
  | some (r, mask) => s.illegal slot site o b r mask
  | none =>
    let s := s.setTile site (t.countCycle (index + 1))
    let s := s.healCells site (ms.filterMap fun m => Slot.cell m.slot)
    let s := slips.foldl (fun s x =>
      s.raise slot site { o with slot := x.1, slotValue := b.slots.getD x.1 0 } x.2.1 x.2.2 0 []) s
    { s with cur := ⟨site, slot, o, pre, b.header⟩,
             agenda := issueSteps site slot o b ms ++ s.markSteps slot site o ++ flowSteps site slot o ++ s.agenda }

/-- The first cycle of an idle run (R30). -/
def State.startIdle (s : State) (slot site index : Nat) (o : Origin) (b : Bundle) : State :=
  let run (t : Tile) : Tile :=
    let t := t.countCycle (index + 1)
    t.setThread { t.thread with idle := b.idleCount - 1, idleAt := index }
  let s := s.mapTile site run
  { s with agenda := s.markSteps slot site o ++ flowSteps site slot o ++ s.agenda }

/-- A further cycle of an idle run (R30). -/
def State.idleCycle (s : State) (slot site : Nat) : State :=
  let t := s.tile site
  let o := s.originOf slot site t.thread.idleAt
  let run (t : Tile) : Tile := t.countCycle t.thread.pc |> fun t => t.setThread { t.thread with idle := t.thread.idle - 1 }
  let s := s.mapTile site run
  { s with agenda := s.markSteps slot site o ++ [⟨site, slot, o, .takenBranchRedirect site⟩] ++ s.agenda }

/-- A bundle reaches issue: machine checks, the checks of R51, then its effect. A launched kernel with the supervisor flag runs with
supervisor privilege throughout, z registers and folio 15 among it (notes/assumptions/33.md). -/
def State.issueBundle (s : State) (slot site : Nat) : State :=
  let t := s.tile site
  let index := t.thread.pc
  let o := s.originOf slot site index
  let b := s.nextBundle site
  if s.bundleBad site index then s.raiseValue slot site o 0x5002 0 (BitVec.ofNat 64 index) 0 []
  else
    match s.parityErrors site (bundleSlots b) with
    | x :: l => s.raiseParity slot site o b (x :: l)
    | [] =>
      match headerReason b t.loose with
      | some r => s.illegal slot site o b r 0
      | none =>
        if b.kind ≠ 1 then s.commitBundle slot site index o b
        else if inFolio15 (!t.isSupervisor) index then s.illegal slot site o b 0x0C 0
        else s.startIdle slot site index o b

/-! ### Who issues (R15, R24, R25, spec/20 R361, spec/21 R374, R378, R382) -/

/-- Issue is paused for a realignment that began in an earlier cycle (R25). -/
def Domain.pausing (d : Domain) : Bool := decide (d.dcc < d.pausedUntil) && decide (d.dcc + 33 ≠ d.pausedUntil)

/-- The tile may still issue: it has detected nothing that stops it, or did so in this very cycle (R361). -/
def Tile.mayIssue (t : Tile) (dcc : Nat) : Bool := !t.stopped || decide (dcc ≤ t.stoppedAt)

/-- A tile of a domain issues in this cycle; in boot state no user context does (spec/23 R403). A supervisor context that a halt group has entered in a running domain stops like any
tile at an event of its own, and in a realignment (R25, R361, spec/21 R386). -/
def State.canIssue (s : State) (slot site : Nat) : Bool :=
  let d := s.domain slot
  let t := s.tile site
  if t.wedged then false
  else if t.inSup then
    decide (t.supFrom ≤ d.pulses) && !t.supHalted && !t.ready && d.draining.isNone && (d.boot || d.frozen || (t.groupHalted && t.mayIssue d.dcc && !d.pausing))
  else !d.boot && !d.frozen && d.draining.isNone && t.running && !t.halted && !t.arrived && t.mayIssue d.dcc && !d.pausing

/-- Results of a tile that have fired and not landed, in a socket: some whose firing mode, data-locked or not, satisfies a test. -/
def State.flying (s : State) (slot site : Nat) (q : Sock) (mode : Bool → Bool) : Bool :=
  let t := s.tile site
  let ls (a : Access) : Bool := a.landAt.isSome && mode a.locked
  ((t.pipe q).flight.any fun r => mode r.locked) ||
    (match q with
      | .la | .lb => (t.cap.ls q).local_.any ls || (s.domain slot).reach.any fun r =>
          r.access.site == site && r.access.port.sock == q && r.access.from_.sup == t.inSup && ls r.access
      | .ep => t.ep.drains.any fun d => mode d.locked && (match d.kind with | .row _ => true | _ => false)
      | _ => false)

/-- A result of a socket is in flight (R70). -/
def State.inFlight (s : State) (slot site : Nat) (q : Sock) : Bool := s.flying slot site q fun _ => true

def lockableSocks : List Sock := [.ia, .ib, .ag, .va, .vb, .vc, .sf, .la, .lb, .mx, .ep, .gn]

/-- What a held bundle waits for has landed: the results of data-locked triggers, whatever the mode since, and loose replies (R27, R301). -/
def State.holdDone (s : State) (slot site : Nat) : Bool :=
  (lockableSocks.all fun q => !s.flying slot site q id) && (s.tile site).dm.replies.isEmpty

/-- Sockets in which a trigger may fire: those of the domain clock only while it runs. -/
def State.firingSocks (s : State) (slot : Nat) : List Sock :=
  let d := s.domain slot
  if d.draining.isSome then [] else if d.frozen then lockableSocks.filter fun q => !Sock.clocked q else lockableSocks

/-- Issue of a standard bundle (R38). Where the tile does not issue, or its next bundle is no standard one, nothing happens. -/
def execBundleIssue (site : Nat) (s : State) : Result :=
  .next (match s.slotOf site with
    | none => s
    | some slot => if s.canIssue slot site && (s.tile site).thread.idle == 0 then s.issueBundle slot site else s)

/-- A cycle of an idle run (R30). -/
def execIdleRun (site : Nat) (s : State) : Result :=
  .next (match s.slotOf site with
    | none => s
    | some slot =>
      if !s.canIssue slot site then s
      else if (s.tile site).thread.idle = 0 then s.issueBundle slot site
      else s.idleCycle slot site)

/-- A bundle with H = 1 issues in a loose tile once nothing remains to wait for (R27, R31, R301); until then a cycle passes. -/
def execHoldWaitIssue (site : Nat) (s : State) : Result :=
  .next (match s.slotOf site with
    | none => s
    | some slot => if s.canIssue slot site && s.holdDone slot site then s.issueBundle slot site else s)

/-! ### Data-locked firing (R70, R85, R129, R159, R169, R184) -/

/-- The trigger that waits in a socket. -/
def Tile.waitingIn (t : Tile) (q : Sock) : Option Waiting := if q = .mx then t.mx.waiting else (t.pipe q).waiting

def Tile.clearWaiting (t : Tile) (q : Sock) : Tile :=
  if q = .mx then { t with mx := { t.mx with waiting := none } } else t.mapPipe q fun p => { p with waiting := none }

/-- Operand ports that an operation of a socket reads, o1 and o2 (R70, R132, R159, R169, R184). -/
def operandsOf (q : Sock) (sel : Nat) : Bool × Bool :=
  match q with
  | .ia | .ib => (IntOp.ofSel sel).reads
  | .ag => ((AgOp.ofSel sel).readsO1, false)
  | .va | .vb | .vc => (VecOp.ofSel sel).reads
  | .la | .lb => (true, false)
  | .mx => if sel < 0x30 ∨ sel = 0x40 then (true, true) else (sel == 0x45, false)
  | .ep => (sel == 0 || sel == 1 || sel == 3, false)
  | .gn => (true, sel == 4)
  | _ => (false, false)

/-- The operands of a waiting trigger have been written. -/
def Tile.operandsWritten (t : Tile) (q : Sock) (sel : Nat) : Bool :=
  let (r1, r2) := operandsOf q sel
  let (w1, w2) := if q = .mx then (t.mx.o1w, t.mx.o2w) else ((t.pipe q).o1w, (t.pipe q).o2w)
  (!r1 || w1) && (!r2 || w2)

/-- The condition of firing of a waiting trigger, in the mode of the context that issued it; a socket that has become free-running fires at
once (R85). -/
def State.fires (s : State) (slot site : Nat) (q : Sock) (w : Waiting) : Bool :=
  let t := s.tile site
  let now := s.sockCycle slot site q
  if !t.lockedFor w.from_.sup q then true
  else
    t.operandsWritten q w.sel && !t.withinInterval q w.sel now &&
      (match q with
        | .mx => true
        | .ep => !t.ep.pipe.full && !s.inFlight slot site .ep && t.mx.headReady (now + 1)
        | q => !(t.pipe q).full && !s.inFlight slot site q)

/-- The firing of a selector of a lockable socket. -/
def fireSel (g : Trig) (s : State) : State :=
  match g.sock with
  | .ia | .ib => (IntOp.ofSel g.sel).fire g s
  | .ag => (AgOp.ofSel g.sel).fire g s
  | .va | .vb | .vc => (VecOp.ofSel g.sel).fire g s
  | .sf => (SfOp.ofSel g.sel).fire g s
  | .la | .lb => fireLs g s
  | .ep => fireEp g s
  | .gn => (GnOp.ofSel g.sel).fire g s
  | .mx =>
    match g.sel with
    | 0x40 => fireCalx g s
    | 0x41 => fireRhead g s
    | 0x42 => fireRtail g s
    | 0x43 => fireClr g s
    | 0x44 => fireMread g s
    | 0x45 => fireMwrite g s
    | n => fireRoutine n g s
  | _ => s

/-- A waiting trigger fires (R70): it leaves the wait, and every timing counts from this cycle. It leaves the wait too when its firing
faults (notes/assumptions/76.md). -/
def execDataLockedFire (site : Nat) (sock : Sock) (s : State) : Result :=
  .next (match s.slotOf site with
    | none => s
    | some slot =>
      match (s.tile site).waitingIn sock with
      | none => s
      | some w =>
        if (s.firingSocks slot).contains sock && s.fires slot site sock w then
          fireSel ⟨slot, site, s.sockCycle slot site sock, sock, w.sel, w.data, w.from_⟩ (s.mapTile site fun t => t.clearWaiting sock)
        else s)

/-! ### Results landing (R69, R98, R129, spec/21 R372, R377) -/

/-- Land the results of a socket due at a clock, in their firing order: the later-fired stands (R69). -/
def Captured.landDue (c : Captured) (q : Sock) (now : Nat) (marks : Bool) : Captured × Flags :=
  let p := c.pipe q
  let due (x : InFlight × Nat) : Bool := decide (x.1.due ≤ now) && !p.invalid.contains x.2
  let hits := p.flight.zipIdx.filter due
  let c := hits.foldl (fun c x => c.land q x.1) c
  let p := c.pipe q
  let p := if marks then { p with invalid := p.invalid ++ hits.map (·.2) }
    else { p with flight := (p.flight.zipIdx.filter fun x => !due x).map (·.1) }
  (c.setPipe q p, hits.foldl (fun f x => f ||| x.1.flags) 0)

/-- The result that a load or atomic lands. -/
def Access.result (a : Access) : InFlight := ⟨0, some (.v a.landed), none, a.flags, a.locked, none⟩

/-- The accesses of a list that land by a clock: one that also performs by it lands once it has performed (spec/21 R378). -/
def landingNow (l : List Access) (now : Nat) : List Access :=
  l.filter fun a => (match a.landAt with | some x => decide (x ≤ now) | none => false) && !a.due now

/-- An access that has landed what it held while its read was still to come performs, and lands no more (spec/21 R377, R378). -/
def Access.landedEarly (a : Access) : Option Access := if a.pending then some { a with landAt := none } else none

/-- Land loads of a load-store socket, local ones from the captured state itself. -/
def Captured.landLoads (c : Captured) (q : Sock) (now : Nat) (remote : List Access) (marks : Bool) : Captured × Flags :=
  let p := c.pipe q
  let own := landingNow (keepValid (c.ls q).local_ p.invalid) now
  let all := sortBy (fun (a b : Access) => decide (a.id < b.id)) (own ++ remote)
  let c := all.foldl (fun c a => c.land q a.result) c
  let flags : Flags := all.foldl (fun f a => f ||| a.flags) 0
  let x := c.ls q
  let landed (a : Access) : Bool := own.any fun o => o.id == a.id
  if marks then
    let places := (x.local_.zipIdx.filter fun y => landed y.1 && !y.1.pending).map (·.2)
    let c := c.setLs q { x with local_ := x.local_.map fun a => if landed a then { a with landAt := none } else a }
    (c.setPipe q { c.pipe q with invalid := (c.pipe q).invalid ++ places }, flags)
  else (c.setLs q { x with local_ := x.local_.filterMap fun a => if landed a then a.landedEarly else some a }, flags)

/-- Results of a captured socket in one of the two copies. -/
def Captured.landAll (c : Captured) (q : Sock) (now : Nat) (remote : List Access) (marks : Bool) : Captured × Flags :=
  let (c, f) := c.landDue q now marks
  if q = .la ∨ q = .lb then
    let (c, g) := c.landLoads q now remote marks
    (c, f ||| g)
  else (c, f)

/-- Remote loads of a tile that land now, and whose socket copy is the present one. -/
def State.remoteLandings (s : State) (slot site : Nat) (q : Sock) (sup : Bool) : List Access :=
  let d := s.domain slot
  if d.frozen then []
  else landingNow ((d.reach.map (·.access)).filter fun a => a.site == site && a.port.sock == q && a.from_.sup == sup) d.dcc

/-- Result ports that a landing writes lose a parity error (spec/20 R367). -/
def State.healResults (s : State) (site : Nat) (q : Sock) : State := s.healCells site [cellCode 1 q 0, cellCode 2 q 0]

/-- Results of a captured socket land, in the copy in use and, where it runs on, in the other (R372). -/
def State.landCaptured (s : State) (slot site : Nat) (q : Sock) : State :=
  let t := s.tile site
  let here := s.remoteLandings slot site q t.inSup
  let there := s.remoteLandings slot site q (!t.inSup)
  let (cap, f) := t.cap.landAll q (s.capClock slot t) here false
  let (shadow, g) :=
    if s.shadowRuns slot t then t.shadow.landAll q (s.shadowClock slot t) there t.inSup else (t.shadow, 0)
  let s := (s.setTile site ({ t with cap := cap, shadow := shadow }.landFlags (f ||| g))).healResults site q
  let ids := (here ++ there).map (·.id)
  if ids.isEmpty then s
  else s.mapDomain slot fun d => { d with reach := d.reach.filter fun r => !ids.contains r.id }

/-- Results of a socket that is not captured: those of the domain clock stand still in a frozen domain (R372). -/
def State.landPlain (s : State) (slot site : Nat) (q : Sock) : State :=
  let d := s.domain slot
  if d.frozen && Sock.clocked q then s
  else
    let now := s.sockCycle slot site q
    (s.healResults site q).mapTile site fun t =>
      let hits := (t.flight q).filter fun r => decide (r.due ≤ now)
      (hits.foldl (fun t r => t.land q r) t).setFlight q ((t.flight q).filter fun r => !decide (r.due ≤ now))

def Sock.captured : Sock → Bool
  | .ia | .ib | .ag | .va | .vb | .vc | .sf | .la | .lb => true
  | _ => false

/-- The results of a socket that are due land, with their flags (R69, R129). -/
def execResultLanding (site : Nat) (sock : Sock) (s : State) : Result :=
  .next (match s.slotOf site with
    | none => s
    | some slot => if Sock.captured sock then s.landCaptured slot site sock else s.landPlain slot site sock)

end Sys2Proof.Machine
end

