-- ==== Sys2Proof/Machine/Portable.lean ====
section
/-!
DEFINITION. The portable form: what each Rosnil instruction does to a portable context (spec/18 R333 to R338). An instruction takes
whole effect in one step; its ring, its key and its flags are those of the tile it runs on (notes/assumptions/6.md).
-/
namespace Sys2Proof.Machine

/-! ### Registers (R333) -/

/-- The register file of the portable context after a write. -/
def State.mapPortable (s : State) (f : Portable → Portable) : State := { s with portable := f s.portable }

/-- A scalar register. -/
def Portable.gr (p : Portable) (i : BitVec 4) : Word := p.g.get i.toFin

/-- A vector register. -/
def Portable.wr (p : Portable) (i : BitVec 4) : Vec := p.w.get i.toFin

/-- A mask register; k0 reads all ones. -/
def Portable.kr (p : Portable) (i : BitVec 2) : Word := if i = 0 then .allOnes 64 else p.k.get i.toFin

def Portable.setG (p : Portable) (i : BitVec 4) (x : Word) : Portable := { p with g := p.g.set i.toNat x i.isLt }
def Portable.setW (p : Portable) (i : BitVec 4) (x : Vec) : Portable := { p with w := p.w.set i.toNat x i.isLt }

/-- A write of a mask; k0 keeps reading all ones. -/
def Portable.setK (p : Portable) (i : BitVec 2) (x : Word) : Portable :=
  if i = 0 then p else { p with k := p.k.set i.toNat x i.isLt }

/-- A scalar result. -/
def State.putG (s : State) (d : BitVec 4) (x : Word) : State := s.mapPortable fun p => p.setG d x

/-- A vector result with its sticky flags (R337, spec/05 R120). -/
def State.putW (s : State) (d : BitVec 4) (x : Vec) (f : Flags) : State :=
  (s.mapPortable fun p => p.setW d x).mapTile s.portable.site fun t => { t with id := { t.id with fflags := t.id.fflags ||| f } }

/-- Sign extension of an immediate to 64 bits. -/
def sext64 {n : Nat} (i : BitVec n) : Word := i.signExtend 64

/-! ### Scalars (R336) -/

/-- gd := the IA form of ga and gb. -/
def State.portInt (s : State) (op : IntOp) (d a b : BitVec 4) : State :=
  s.putG d (op.eval (s.portable.gr a) 0 (s.portable.gr b))

/-- The word `o` words from the one being executed comes next (R336). -/
def State.portGoto (s : State) (o : BitVec 18) : State :=
  s.mapPortable fun p => { p with ip := ((p.cur : Int) + 4 * o.toInt).toNat }

/-! ### Faults (R336 to R338) -/

/-- The domain slot of the portable context's tile; 0 where it lies in none. -/
def State.portSlot (s : State) : Nat := (s.slotOf s.portable.site).getD 0

/-- Where a portable instruction's fault is recorded: bundle, slot and value are those of the translation (R349), which the portable
context does not hold; they are free values. -/
def State.portOrigin (s : State) : Origin :=
  let d := s.domain s.portSlot
  let t := s.tile s.portable.site
  ⟨Config.freeNat s.draws % 960, Config.freeNat (s.draws + 1) % 24, d.dcc, t.bay, t.bayOffset d.dcc,
    (Config.freeWord (s.draws + 2)).setWidth 40, false⟩

/-- A portable operation as a trigger of its native socket. -/
def State.portTrig (s : State) (q : Sock) (sel : Nat) (b : Word) : Trig :=
  ⟨s.portSlot, s.portable.site, (s.domain s.portSlot).dcc, q, sel, .s b, s.portOrigin⟩

/-- The end of an operation that may have faulted: a tile that has stopped or wedged runs no more of the kernel. Outside every
domain a fault stays with the tile. -/
def State.portEnd (before after : State) : State :=
  let t := after.tile after.portable.site
  let after := if before.hasDomain before.portSlot then after else { after with domains := before.domains }
  if t.stopped ∨ t.wedged then { after with draws := before.draws + 3, portable := { after.portable with running := false } } else after

/-! ### Memory (R336, R337, spec/04 R97, R100) -/

/-- An access at a pointer formed from a base, under a mask: its owner and offset, or the reason of its address fault. -/
def State.portTarget (s : State) (op : AccessOp) (base ptr mask : Word) : Resolved :=
  s.accessTarget s.portSlot s.portable.site op base ptr mask false .zero

/-- The access as LA would hold it. -/
def State.portAccess (s : State) (op : AccessOp) (owner off : Nat) (mask : Word) (data : Vec) : Access :=
  { id := s.nextId, op := op, site := s.portable.site, port := .la, owner := owner, pointer := 0, off := off, mask := mask,
    offsets := .zero, data := data, performAt := 0, group := 0, groups := 1, pending := true, landAt := some 0, flags := 0, locked := false,
    from_ := s.portOrigin }

/-- A load or a store: the address fault of R100, the machine check of a word in error (spec/20 R367, R368), or its effect. -/
def State.portMemory (s : State) (op : AccessOp) (base ptr mask : Word) (data : Vec) (land : Access → State → State) : State :=
  match s.portTarget op base ptr mask with
  | .bad r => s.portEnd ((s.portTrig .la 0 ptr).fault s 0x2001 ptr (BitVec.ofNat 64 r))
  | .sram owner off =>
    let (s', a) := s.performGroup s.portSlot (s.portAccess op owner off mask data) false
    match a with
    | some a => land a (s.portEnd s')
    | none => s.portEnd s'

def State.portLoad (s : State) (d a : BitVec 4) (i : BitVec 18) : State :=
  let base := s.portable.gr a
  s.portMemory (.load 8) base (base + sext64 i) 0 .zero fun x s => s.putG d x.operand

def State.portStore (s : State) (a b : BitVec 4) : State :=
  let base := s.portable.gr a
  s.portMemory (.store 8) base base 0 (scalarVec (s.portable.gr b)) fun _ s => s

def State.portLoadV (s : State) (d a : BitVec 4) (k : BitVec 2) (i : BitVec 16) : State :=
  let base := s.portable.gr a
  s.portMemory .loadV base (base + sext64 i) (s.portable.kr k) .zero fun x s => s.putW d x.data 0

def State.portStoreV (s : State) (a b : BitVec 4) (k : BitVec 2) : State :=
  let base := s.portable.gr a
  s.portMemory .storeV base base (s.portable.kr k) (s.portable.wr b) fun _ s => s

/-! ### Vectors (R337) -/

/-- The operands of a portable vector operation: f32 throughout, to nearest even. -/
def Portable.vecArgs (x y z : Vec) (msk : Word) : VecArgs :=
  { x := x, y := y, z := z, zs := 0, msk := msk, tbl := 0, fmt := ⟨.f32, .f32, .f32, 0⟩, mode := .rne, sat := false,
    table := .replicate 256 0 }

/-- wd := the operation of wa and wb under a mask; `m` is the second factor of vfma. -/
def State.portVec (s : State) (op : VecOp) (d : BitVec 4) (x m z : Vec) (k : BitVec 2) : State :=
  let r := vecEval op (Portable.vecArgs x m z (s.portable.kr k)) fun _ => 0
  s.putW d r.q0 r.flags

def State.portVec2 (s : State) (op : VecOp) (d a b : BitVec 4) (k : BitVec 2) : State :=
  s.portVec op d (s.portable.wr a) .zero (s.portable.wr b) k

/-- vwid: half h of wb as packed f16 or bf16, widened exactly; another source code is the illegal format word of R42. -/
def State.portWiden (s : State) (d b : BitVec 4) (k h src : BitVec 2) : State :=
  let f : Option Fmt := if src = 0 then some .f16 else if src = 1 then some .bf16 else none
  match f with
  | some f =>
    let a := { Portable.vecArgs .zero .zero (s.portable.wr b) (s.portable.kr k) with
      fmt := ⟨.f32, f, .f32, 0⟩, tbl := BitVec.ofNat 64 (4 * h.toNat) }
    let r := vecEval .cvt a fun _ => 0
    s.putW d r.q0 r.flags
  | none => s.portEnd ((s.portTrig .va 0 0).badWord s)

/-- Bit i of vwhile. -/
def whileBit (a b : Word) (i : Nat) : Bool := decide ((a.setWidth 32 + BitVec.ofNat 32 i).toInt < (b.setWidth 32).toInt)

/-! ### Matrices (R338, spec/07 R147 to R161, R168) -/

/-- The format word of an M-format code. -/
def portFormat (f : BitVec 2) : Word :=
  match f.toNat with
  | 0 => 0x0042 | 1 => 0x0021 | 2 => 0x0084 | _ => 0x0063

/-- The parameters of mm: pointers, strides, depth with its beat count, format. -/
def Tile.portParameters (t : Tile) (a b c : Word) (k : Nat) (f : BitVec 2) : Tile :=
  let mp := (((t.mx.mp.setIfInBounds 0 a).setIfInBounds 1 b).setIfInBounds 2 c).setIfInBounds 3 (BitVec.ofNat 64 (k * 2 ^ 24 + k + 14))
  { t with mx := { t.mx with mp := mp, fmt := some (portFormat f) } }

/-- Every A and B line of the routine in place i performs, in order. -/
def State.portLines (s : State) (site i k : Nat) : State :=
  (List.range k).foldl (init := s) fun s n =>
    [0, 1].foldl (init := s) fun s kind =>
      match (s.tile site).mx.routines[i]? with
      | some r =>
        match r.standardLine kind n with
        | some p => s.fetchLine s.portSlot site i kind r p false
        | none => s
      | none => s

/-- The last routine completes: its slot is ready, the counters take their new values, its flags join fflags. -/
def Tile.portComplete (t : Tile) : Tile :=
  match t.mx.routines.getLast? with
  | none => t
  | some r =>
    let m := { t.mx with routines := t.mx.routines.dropLast, fetchEnd := 0 }.settle 0
    let t := { t with mx := m }
    if r.dead then t
    else
      let x : SlotReady := ⟨r.slot, 0, r.form, r.row, r.lines⟩
      ({ t with mx := { t.mx with ready := x :: t.mx.ready } }.completeSlot x).mergeFlags

/-- mtile or mtilea: routine mm or mma, run to the end of its beats. -/
def State.portTile (s : State) (sel : Nat) (a b c : BitVec 4) (k : Nat) (f : BitVec 2) : State :=
  let site := s.portable.site
  let p := s.portable
  let s1 := s.mapTile site fun t => t.portParameters (p.gr a) (p.gr b) (p.gr c) k f
  let s2 := fireStandard sel (s.portTrig .mx sel 0) s1
  let n := (s1.tile site).mx.routines.length
  let s3 := if n < (s2.tile site).mx.routines.length then (s2.portLines site n k).mapTile site Tile.portComplete else s2
  s.portEnd s3

/-- The rows of the last EP operation are written; the head counter moves on. -/
def State.portRows (s : State) (slot site : Nat) : State :=
  match (s.tile site).ep.drains.getLast? with
  | none => s
  | some d =>
    let t := s.tile site
    let d := { d with slot := some (t.mx.ring.getD d.number RingSlot.zero), codeTable := t.tables.getD d.table (.replicate 256 0) }
    let s := (List.range 32).foldl (fun s i => s.writeRow slot site d i) s
    s.mapTile site fun t =>
      { t with mx := t.mx.settle 0, ep := { t.ep with drains := t.ep.drains.dropLast, pipe := { t.ep.pipe with readyAt := 0 } } }
        |>.mergeFlags

/-- mdrain: EP drain of the head slot to ga, rows 256 bytes apart. -/
def State.portDrain (s : State) (a : BitVec 4) : State :=
  let site := s.portable.site
  let p := s.portable.gr a
  let s1 := s.mapTile site fun t => { t with ep := { t.ep with o1 := 256, dst := p } }
  let s2 := fireEp (s.portTrig .ep 0 0) s1
  let n := (s1.tile site).ep.drains.length
  let s3 := if n < (s2.tile site).ep.drains.length then s2.portRows s.portSlot site else s2
  s.portEnd s3

/-! ### Draws (R338, spec/08 R177 to R182) -/

/-- A change of key, stream or member, visible to the next instruction. -/
def State.portKeys (s : State) (fire : Trig → State → State) (b : Word) : State :=
  let s' := fire (s.portTrig .gn 0 b) s
  s.portEnd (s'.mapTile s.portable.site fun t => { t with gn := t.gn.settle })

/-- gsm: stream, then member; a stream fault of the first leaves the member. -/
def State.portStream (s : State) (a b : BitVec 4) : State :=
  let x := s.portable.gr a
  let y := s.portable.gr b
  if 2 ^ 24 ≤ x.toNat then s.portKeys fireGnStream x else (s.portKeys fireGnStream x).portKeys fireGnMember y

/-- gdraw: ε of purpose 3 for elements ga + i. -/
def State.portDraw (s : State) (d a : BitVec 4) : State :=
  let e := s.portable.gr a
  let x := { (s.tile s.portable.site).gn with o1 := 3 }
  if 2 ^ 40 - 63 ≤ e.toNat then s.portEnd ((s.portTrig .gn 3 e).streamFault s e 1)
  else s.putW d (Vec.gen (GnOp.lane .draw x e.toNat)) 0

/-! ### The meanings -/

/-- `add gd, ga, gb` (R336). -/
def execRosnilAdd (d a b : BitVec 4) (s : State) : Result := .next (s.portInt .add d a b)

/-- `sub gd, ga, gb` (R336). -/
def execRosnilSub (d a b : BitVec 4) (s : State) : Result := .next (s.portInt .sub d a b)

/-- `and gd, ga, gb` (R336). -/
def execRosnilAnd (d a b : BitVec 4) (s : State) : Result := .next (s.portInt .and d a b)

/-- `or gd, ga, gb` (R336). -/
def execRosnilOr (d a b : BitVec 4) (s : State) : Result := .next (s.portInt .or d a b)

/-- `xor gd, ga, gb` (R336). -/
def execRosnilXor (d a b : BitVec 4) (s : State) : Result := .next (s.portInt .xor d a b)

/-- `shl gd, ga, gb`: by gb[5:0] (R336). -/
def execRosnilShl (d a b : BitVec 4) (s : State) : Result := .next (s.portInt .shl d a b)

/-- `shr gd, ga, gb` (R336). -/
def execRosnilShr (d a b : BitVec 4) (s : State) : Result := .next (s.portInt .shr d a b)

/-- `sra gd, ga, gb` (R336). -/
def execRosnilSra (d a b : BitVec 4) (s : State) : Result := .next (s.portInt .sra d a b)

/-- `mul gd, ga, gb`: the low 64 bits (R336). -/
def execRosnilMul (d a b : BitVec 4) (s : State) : Result := .next (s.portInt .mul d a b)

/-- `slt gd, ga, gb` (R336). -/
def execRosnilSlt (d a b : BitVec 4) (s : State) : Result := .next (s.portInt .clt d a b)

/-- `sltu gd, ga, gb` (R336). -/
def execRosnilSltu (d a b : BitVec 4) (s : State) : Result := .next (s.portInt .cltu d a b)

/-- `addi gd, ga, imm` (R336). -/
def execRosnilAddi (d a : BitVec 4) (i : BitVec 18) (s : State) : Result := .next (s.putG d (s.portable.gr a + sext64 i))

/-- `li gd, imm` (R336). -/
def execRosnilLi (d : BitVec 4) (i : BitVec 18) (s : State) : Result := .next (s.putG d (sext64 i))

/-- `lio gd, ga, imm` (R336). -/
def execRosnilLio (d a : BitVec 4) (i : BitVec 18) (s : State) : Result :=
  .next (s.putG d (s.portable.gr a <<< 18 ||| i.setWidth 64))

/-- `ld gd, imm(ga)` (R336). -/
def execRosnilLd (d a : BitVec 4) (i : BitVec 18) (s : State) : Result := .next (s.portLoad d a i)

/-- `st gb, (ga)` (R336). -/
def execRosnilSt (a b : BitVec 4) (s : State) : Result := .next (s.portStore a b)

/-- `bne ga, gb, label` (R336). -/
def execRosnilBne (a b : BitVec 4) (o : BitVec 18) (s : State) : Result :=
  .next (if s.portable.gr a ≠ s.portable.gr b then s.portGoto o else s)

/-- `blt ga, gb, label`: signed (R336). -/
def execRosnilBlt (a b : BitVec 4) (o : BitVec 18) (s : State) : Result :=
  .next (if (s.portable.gr a).slt (s.portable.gr b) then s.portGoto o else s)

/-- `j label` (R336). -/
def execRosnilJ (o : BitVec 18) (s : State) : Result := .next (s.portGoto o)

/-- `halt`: the task ends (R336, spec/04 R90). -/
def execRosnilHalt (s : State) : Result :=
  let s := s.mapPortable fun p => { p with running := false }
  .next (if s.hasDomain s.portSlot then fireHalt (s.portTrig .ct 0 0) s else s.mapTile s.portable.site Tile.endTask)

/-- `gvl gd`: VL is 64 (R333, R337). -/
def execRosnilGvl (d : BitVec 4) (s : State) : Result := .next (s.putG d 64)

/-- `vld wd, imm(ga), kk` (R337). -/
def execRosnilVld (d a : BitVec 4) (k : BitVec 2) (i : BitVec 16) (s : State) : Result := .next (s.portLoadV d a k i)

/-- `vst wb, (ga), kk` (R337). -/
def execRosnilVst (a b : BitVec 4) (k : BitVec 2) (s : State) : Result := .next (s.portStoreV a b k)

/-- `vfadd wd, wa, wb, kk` (R337). -/
def execRosnilVfadd (d a b : BitVec 4) (k : BitVec 2) (s : State) : Result := .next (s.portVec2 .fadd d a b k)

/-- `vfsub wd, wa, wb, kk` (R337). -/
def execRosnilVfsub (d a b : BitVec 4) (k : BitVec 2) (s : State) : Result := .next (s.portVec2 .fsub d a b k)

/-- `vfmul wd, wa, wb, kk` (R337). -/
def execRosnilVfmul (d a b : BitVec 4) (k : BitVec 2) (s : State) : Result := .next (s.portVec2 .fmul d a b k)

/-- `vfma wd, wa, wb, kk`: wa × wb + wd with one rounding (R337). -/
def execRosnilVfma (d a b : BitVec 4) (k : BitVec 2) (s : State) : Result :=
  .next (s.portVec .ffma d (s.portable.wr a) (s.portable.wr b) (s.portable.wr d) k)

/-- `vfmax wd, wa, wb, kk` (R337). -/
def execRosnilVfmax (d a b : BitVec 4) (k : BitVec 2) (s : State) : Result := .next (s.portVec2 .fmax d a b k)

/-- `vfmin wd, wa, wb, kk` (R337). -/
def execRosnilVfmin (d a b : BitVec 4) (k : BitVec 2) (s : State) : Result := .next (s.portVec2 .fmin d a b k)

/-- `vwid wd, wb, h, f16 or bf16, kk` (R337). -/
def execRosnilVwid (d b : BitVec 4) (k h src : BitVec 2) (s : State) : Result := .next (s.portWiden d b k h src)

/-- `vrsum wd, wb, kk`: the pairwise-tree sum of the active lanes (R337, spec/06 R143). -/
def execRosnilVrsum (d b : BitVec 4) (k : BitVec 2) (s : State) : Result :=
  .next (s.portVec .rsum d .zero .zero (s.portable.wr b) k)

/-- `vbcast wd, ga` (R337). -/
def execRosnilVbcast (d a : BitVec 4) (s : State) : Result :=
  .next (s.mapPortable fun p => p.setW d (Vec.fill ((p.gr a).setWidth 32)))

/-- `vwhile kd, ga, gb` (R337). -/
def execRosnilVwhile (d : BitVec 2) (a b : BitVec 4) (s : State) : Result :=
  .next (s.mapPortable fun p => p.setK d (maskOf (whileBit (p.gr a) (p.gr b))))

/-- `vmovs gd, wb`: lane 0, zero-extended (R337). -/
def execRosnilVmovs (d b : BitVec 4) (s : State) : Result := .next (s.putG d (((s.portable.wr b).lane 0).setWidth 64))

/-- `mtile ga, gb, gc, K, format` (R338). -/
def execRosnilMtile (a b c : BitVec 4) (k : BitVec 8) (f : BitVec 2) (s : State) : Result := .next (s.portTile 0 a b c k.toNat f)

/-- `mtilea ga, gb, gc, K, format` (R338). -/
def execRosnilMtilea (a b c : BitVec 4) (k : BitVec 8) (f : BitVec 2) (s : State) : Result := .next (s.portTile 1 a b c k.toNat f)

/-- `mdrain ga` (R338). -/
def execRosnilMdrain (a : BitVec 4) (s : State) : Result := .next (s.portDrain a)

/-- `gkey ga` (R338). -/
def execRosnilGkey (a : BitVec 4) (s : State) : Result := .next (s.portKeys fireGnKey (s.portable.gr a))

/-- `gsm ga, gb` (R338). -/
def execRosnilGsm (a b : BitVec 4) (s : State) : Result := .next (s.portStream a b)

/-- `gdraw wd, ga` (R338). -/
def execRosnilGdraw (d a : BitVec 4) (s : State) : Result := .next (s.portDraw d a)

end Sys2Proof.Machine
end

