-- ==== Sys2Proof/Machine/Shadow.lean ====
section
/-!
DEFINITION. The shadow of a tile and the socket SH: the index of spec/21 R376, its reads and writes, and the operations of R377.
-/
namespace Sys2Proof

/-- Sockets whose operands, results and entries are vectors. -/
def Sock.wide : Sock → Bool
  | .va | .vb | .vc | .sf | .la | .lb => true
  | _ => false

/-- LA and LB, whose entries are accesses. -/
def Sock.isLs : Sock → Bool
  | .la | .lb => true
  | _ => false

end Sys2Proof

namespace Sys2Proof.Machine

/-! ### The index (R376) -/

def shSock (i : Nat) : Nat := i / 2048 % 32
def shAux (i : Nat) : Bool := i / 1024 % 2 = 1
def shItem (i : Nat) : Nat := i / 32 % 32
def shWord (i : Nat) : Nat := i % 32

/-- The captured sockets: 1 to 4 and 8 to 13. -/
def shCaptured (n : Nat) : Option Sock :=
  if (1 ≤ n ∧ n ≤ 4) ∨ (8 ≤ n ∧ n ≤ 13) then Sock.ofNum n else none

/-- Word w of a value: lanes 2w and 2w + 1 of a vector, word 0 of a scalar. -/
def Res.word (r : Res) (w : Nat) : Word :=
  match r with
  | .s x => if w = 0 then x else 0
  | .v x => x.lane (2 * w + 1) ++ x.lane (2 * w)

def Vec.setWord (v : Vec) (w : Nat) (x : Word) : Vec :=
  (v.setIfInBounds (2 * w) (x.extractLsb' 0 32)).setIfInBounds (2 * w + 1) (x.extractLsb' 32 32)

/-- Put word w of a value. -/
def Res.setWord (r : Res) (w : Nat) (x : Word) : Res :=
  match r with
  | .s y => if w = 0 then .s x else .s y
  | .v y => .v (Vec.setWord y w x)

/-! ### In-flight entries -/

/-- An entry with nothing in it, for a number past the last. -/
def blankFlight (wide : Bool) : InFlight := ⟨0, some (if wide then .v .zero else .s 0), none, 0, false, none⟩

def blankAccess (id site : Nat) (port : LsPort) : Access :=
  { id := id, op := .loadV, site := site, port := port, owner := site, pointer := BitVec.ofNat 64 (2 ^ 60), off := 0, mask := 0,
    offsets := .zero, data := .zero, performAt := 0, group := 0, groups := 1, pending := false, landAt := some 0, flags := 0, locked := false,
    from_ := Origin.none }

/-- Number of entries of a socket. -/
def Captured.entries (c : Captured) (q : Sock) : Nat := if q.isLs then (c.ls q).local_.length else (c.pipe q).flight.length

def Captured.valid (c : Captured) (q : Sock) (k : Nat) : Bool := decide (k < c.entries q) && !(c.pipe q).invalid.contains k

/-- Make the entries up to number k exist, invalid until marked valid; their identifiers count on from `id`. -/
def Captured.grow (c : Captured) (id site : Nat) (q : Sock) (k : Nat) : Captured :=
  let n := c.entries q
  let new := (List.range (k + 1)).filter fun j => n ≤ j
  if new.isEmpty then c
  else
    let c := if q.isLs then
        c.setLs q { c.ls q with local_ := (c.ls q).local_ ++ new.map fun j => blankAccess (id + j) site (if q = .lb then .lb else .la) }
      else c.setPipe q { c.pipe q with flight := (c.pipe q).flight ++ new.map fun _ => blankFlight q.wide }
    c.setPipe q { c.pipe q with invalid := (c.pipe q).invalid ++ new }

def Captured.access (c : Captured) (q : Sock) (k : Nat) : Option Access := (c.ls q).local_[k]?
def Captured.setAccess (c : Captured) (q : Sock) (k : Nat) (a : Access) : Captured :=
  c.setLs q { c.ls q with local_ := (c.ls q).local_.set k a }
def Captured.result (c : Captured) (q : Sock) (k : Nat) : Option InFlight := (c.pipe q).flight[k]?
def Captured.setResult (c : Captured) (q : Sock) (k : Nat) (r : InFlight) : Captured :=
  c.setPipe q { c.pipe q with flight := (c.pipe q).flight.set k r }

def Captured.mark (c : Captured) (q : Sock) (k : Nat) (valid : Bool) : Captured :=
  let rest := (c.pipe q).invalid.filter fun j => j ≠ k
  c.setPipe q { c.pipe q with invalid := if valid then rest else rest ++ [k] }

/-- The meta word of entry k (R376); `now` is the DCC its delays count from. -/
def Captured.metaWord (c : Captured) (q : Sock) (k now : Nat) : Word :=
  let word (q1 pending : Bool) (flags : Flags) (perform land : Nat) : Word :=
    BitVec.ofNat 64 ((if c.valid q k then 2 ^ 63 else 0) + (if q1 then 2 ^ 62 else 0) + (if pending then 2 ^ 61 else 0)
      + flags.toNat * 2 ^ 48 + perform % 65536 * 2 ^ 16 + land % 65536)
  if q.isLs then
    match c.access q k with
    | some a => word false a.pending a.flags (if a.pending then a.performAt - now else 0) ((a.landAt.getD now) - now)
    | none => 0
  else match c.result q k with
    | some r => word r.q1.isSome false r.flags 0 (r.due - now)
    | none => 0

/-- Write a meta word; bit 61 keeps its value. -/
def Captured.setMeta (c : Captured) (q : Sock) (k now : Nat) (w : Word) : Captured :=
  let flags : Flags := w.extractLsb' 48 6
  let land := now + wbits w 15 0
  let c := c.mark q k (w.getLsbD 63)
  if q.isLs then
    match c.access q k with
    | some a => c.setAccess q k { a with flags := flags, performAt := now + wbits w 31 16, landAt := a.landAt.map fun _ => land }
    | none => c
  else match c.result q k with
    | some r =>
      let data := (r.q0.getD (.s (r.q1.getD 0)))
      c.setResult q k { r with flags := flags, due := land, q1 := if w.getLsbD 62 then some (r.q1.getD (data.word 0)) else none, q0 := some data,
                               late := none }
    | none => c

def Captured.entryData (c : Captured) (q : Sock) (k : Nat) : Res :=
  if q.isLs then .v (((c.access q k).map (·.data)).getD .zero)
  else match c.result q k with
    | some r => r.q0.getD (.s (r.q1.getD 0))
    | none => .s 0

/-- Write word w of an entry's data. Word 0 of an entry that lands in q1 is what lands there (notes/assumptions/86.md). -/
def Captured.setEntryData (c : Captured) (q : Sock) (k w : Nat) (x : Word) : Captured :=
  if q.isLs then
    match c.access q k with
    | some a => c.setAccess q k { a with data := Vec.setWord a.data w x }
    | none => c
  else match c.result q k with
    | some r =>
      c.setResult q k { r with q0 := some ((c.entryData q k).setWord w x), q1 := if w = 0 then r.q1.map fun _ => x else r.q1, late := none }
    | none => c

/-- Both delays of an entry become 0: it lands, and performs, at the resume cycle. -/
def Captured.inject (c : Captured) (q : Sock) (k now : Nat) : Captured :=
  if q.isLs then
    match c.access q k with
    | some a => c.setAccess q k { a with performAt := now, landAt := a.landAt.map fun _ => now }
    | none => c
  else match c.result q k with
    | some r => c.setResult q k { r with due := now }
    | none => c

/-! ### Ports of a captured socket -/

/-- Items 0 to 4: o1, o2, the waiting trigger's data, q0, q1; a port the socket lacks reads zero. -/
def Captured.item (c : Captured) (q : Sock) (item : Nat) : Res :=
  match q with
  | .ct => .s (if item = 0 then c.ct.o1 else 0)
  | .ia | .ib =>
    let x := c.int q
    .s (match item with | 0 => x.o1 | 1 => x.o2 | 2 => ((x.pipe.waiting.map (·.data.scalar)).getD 0) | 3 => x.q0 | _ => 0)
  | .ag => .s (match item with | 0 => c.ag.o1 | 2 => ((c.ag.pipe.waiting.map (·.data.scalar)).getD 0) | 3 => c.ag.q0 | _ => 0)
  | .va | .vb | .vc =>
    let x := c.vec q
    match item with
    | 0 => .v x.o1 | 1 => .v x.o2 | 2 => (x.pipe.waiting.map (·.data)).getD (.v .zero) | 3 => .v x.q0 | _ => .s x.q1
  | .sf => match item with | 2 => (c.sf.pipe.waiting.map (·.data)).getD (.v .zero) | 3 => .v c.sf.q0 | _ => .s 0
  | .la | .lb =>
    let x := c.ls q
    match item with | 0 => .s x.o1 | 2 => (x.pipe.waiting.map (·.data)).getD (.s 0) | 3 => .v x.q0 | _ => .s 0
  | _ => .s 0

/-- Write word w of item 2, the waiting trigger's data. -/
def Pipe.setWaitingData (p : Pipe) (w : Nat) (x : Word) : Pipe :=
  { p with waiting := p.waiting.map fun a => { a with data := a.data.setWord w x } }

/-- Write a word of items 0 to 4. -/
def Captured.setItem (c : Captured) (q : Sock) (item w : Nat) (x : Word) : Captured :=
  if item = 2 then c.setPipe q ((c.pipe q).setWaitingData w x)
  else match q with
    | .ct => if item = 0 then { c with ct := { c.ct with o1 := x } } else c
    | .ia | .ib =>
      let u := c.int q
      c.setInt q (match item with | 0 => { u with o1 := x } | 1 => { u with o2 := x } | 3 => { u with q0 := x } | _ => u)
    | .ag => { c with ag := match item with | 0 => { c.ag with o1 := x } | 3 => { c.ag with q0 := x } | _ => c.ag }
    | .va | .vb | .vc =>
      let u := c.vec q
      c.setVec q (match item with
        | 0 => { u with o1 := Vec.setWord u.o1 w x } | 1 => { u with o2 := Vec.setWord u.o2 w x }
        | 3 => { u with q0 := Vec.setWord u.q0 w x } | _ => { u with q1 := x })
    | .sf => if item = 3 then { c with sf := { c.sf with q0 := Vec.setWord c.sf.q0 w x } } else c
    | .la | .lb =>
      let u := c.ls q
      c.setLs q (match item with | 0 => { u with o1 := x } | 3 => { u with q0 := Vec.setWord u.q0 w x } | _ => u)
    | _ => c

/-- Words of items 0 to 4 and of the data of entries. One of a port or an entry that the socket has not is assigned by the table all the
same: its word 0 reads zero, and a write of it does nothing (notes/assumptions/86.md). -/
def itemWords (q : Sock) (item : Nat) : Nat :=
  match q with
  | .va | .vb | .vc => if item = 4 then 1 else 32
  | .sf | .la | .lb => if item = 2 ∨ item = 3 ∨ 8 ≤ item then 32 else 1
  | _ => 1

/-- Word 0 of item 5. -/
def Captured.controlWord (c : Captured) (q : Sock) (now : Nat) : Word :=
  let p := c.pipe q
  let ready := max p.readyAt (if q = .ia ∨ q = .ib then (c.int q).divReadyAt else 0)
  let fmt := (q = .va ∨ q = .vb ∨ q = .vc) && (c.vec q).fmt.isSome
  BitVec.ofNat 64 ((if p.waiting.isSome then 2 ^ 63 else 0) + (p.waiting.map (·.sel)).getD 0 % 128 * 2 ^ 56 + (if fmt then 2 ^ 55 else 0)
    + min (ready - now) 65535 * 2 ^ 32 + (if p.full then 2 ^ 31 else 0))

/-- Drop or set a pending format. -/
def Captured.setPending (c : Captured) (q : Sock) (b : Bool) : Captured :=
  if q = .va ∨ q = .vb ∨ q = .vc then
    c.setVec q { c.vec q with fmt := if b then some (c.vec q).fmtWord else none }
  else c

/-- Write word 0 of item 5; the selector and the interval keep their values. -/
def Captured.setControl (c : Captured) (q : Sock) (w : Word) : Captured :=
  let p := c.pipe q
  let blank : Waiting := ⟨0, if q.wide && !q.isLs then .v .zero else .s 0, Origin.none⟩
  let c := c.setPipe q { p with waiting := if w.getLsbD 63 then some (p.waiting.getD blank) else none, full := w.getLsbD 31 }
  c.setPending q (w.getLsbD 55)

/-! ### Auxiliary ports -/

/-- Words of an auxiliary port; 0 for a selector that is not assigned. -/
def auxWords (q : Sock) (sel : Nat) : Nat :=
  if q = .ns ∧ sel = 0x11 then 16
  else if !(auxAccess q sel).1 then 0
  else match q with
    | .la | .lb => if sel = 0 then 32 else 1
    | .ep => if sel < 2 then 32 else 1
    | .ns => if sel < 16 then 32 else 1
    | _ => 1

/-- The tile as its user context sees its ports. -/
def Tile.userView (t : Tile) : Tile := if t.inSup then { t with cap := t.shadow, inSup := false } else t

/-- The auxiliary port of a socket as the shadow shows it; a write-only port shows the value it holds, its reserved bits zero (R42, R370). -/
def State.shadowAux (s : State) (slot site : Nat) (q : Sock) (sel w : Nat) : Word :=
  let t := (s.tile site).userView
  if auxWords q sel ≤ w then 0
  else if q = .ns ∧ sel = 0x11 then ((t.ns.ln.getD w ⟨.zero, 0⟩).tag).setWidth 64
  else if (q = .va ∨ q = .vb ∨ q = .vc) ∧ sel = 0 then (t.cap.vec q).fmtWord &&& 0x1FFFF#64
  else if q = .mx ∧ sel = 8 then t.mx.fmtWord &&& 0x1FFFF#64
  else (s.readPort slot site t q 2 sel).word w

/-- Write an auxiliary port of a captured socket. -/
def Captured.setAux (c : Captured) (q : Sock) (sel w : Nat) (x : Word) : Captured :=
  match q with
  | .ct =>
    { c with ct := match sel with
        | 0 => { c.ct with lnk := x }
        | 1 => { c.ct with lcnt := x.toNat }
        | 2 => { c.ct with lend := x.toNat }
        | 3 => { c.ct with mmask := (x &&& modeBits).setWidth 17 }
        | _ => { c.ct with uipc := x } }
  | .ag => { c with ag := c.ag.setAux sel x }
  | .va | .vb | .vc =>
    -- the format port's word, and the pending word with it; whether one is pending is bit 55 of item 5
    let u := c.vec q
    c.setVec q (if sel = 0 then { u with fmtWord := x, fmt := u.fmt.map fun _ => x } else u.setAux sel x)
  | .la | .lb =>
    let u := c.ls q
    c.setLs q (if sel = 0 then { u with strd := Vec.setWord u.strd w x } else { u with msk := x })
  | _ => c

/-! ### Socket 0 -/

/-- Words of item 1 of socket 0. -/
def State.tileWord (s : State) (slot : Nat) (t : Tile) (w : Nat) : Word :=
  let ct := t.userView.cap.ct
  match w with
  | 0 => BitVec.ofNat 64 t.user.next
  | 1 => BitVec.ofNat 64 t.user.idle
  | 2 => BitVec.ofNat 64 ct.start
  | 3 => BitVec.ofNat 64 ct.lend
  | 4 => BitVec.ofNat 64 ct.lcnt
  | 5 => ct.mmask.setWidth 64
  | 6 => BitVec.ofNat 64 ((if t.loose then 1 else 0) + (if t.debugHeld then 2 else 0) + (if t.broken then 4 else 0))
  | 7 => BitVec.ofNat 64 ((if ct.masked then 1 else 0) + (if t.irqs.isEmpty then 0 else 2))
  | 8 => BitVec.ofNat 64 t.bay
  | 9 => BitVec.ofNat 64 t.frozenOfs
  | 10 => BitVec.ofNat 64 (s.domain slot).sigma
  | _ => 0

/-- Change the user context's CT. -/
def Tile.mapUserCt (t : Tile) (f : CtState → CtState) : Tile :=
  if t.inSup then { t with shadow := { t.shadow with ct := f t.shadow.ct } } else { t with cap := { t.cap with ct := f t.cap.ct } }

/-- Write words 0 to 7 of item 1 of socket 0. -/
def Tile.setTileWord (t : Tile) (w : Nat) (x : Word) : Tile :=
  match w with
  | 0 => { t with user := t.user.resumeAt x.toNat }
  | 1 => { t with user := t.user.setIdle x.toNat }
  | 2 => t.mapUserCt fun c => { c with start := x.toNat }
  | 3 => t.mapUserCt fun c => { c with lend := x.toNat }
  | 4 => t.mapUserCt fun c => { c with lcnt := x.toNat }
  | 5 => t.mapUserCt fun c => { c with mmask := (x &&& modeBits).setWidth 17 }
  | 6 => { t with loose := x.getLsbD 0, debugHeld := x.getLsbD 1, broken := x.getLsbD 2 }
  | 7 =>
    let t := t.mapUserCt fun c => { c with masked := x.getLsbD 0 }
    { t with irqs := if x.getLsbD 1 then (if t.irqs.isEmpty then [⟨0, 0⟩] else t.irqs) else [] }
  | _ => t

/-! ### Read and write by index -/

/-- The user context's captured sockets: the shadow of a tile in its supervisor context. -/
def Tile.userCap (t : Tile) : Captured := t.shadow
def Tile.mapUserCap (t : Tile) (f : Captured → Captured) : Tile := { t with shadow := f t.shadow }

/-- The word at an index (R376). -/
def State.shadowRead (s : State) (slot site i : Nat) : Word :=
  let t := s.tile site
  let c := t.userCap
  let now := (s.domain slot).dcc
  let (n, item, w) := (shSock i, shItem i, shWord i)
  if n = 0 then
    if shAux i then 0
    else if item = 0 then (if w < 16 then t.record.getD w 0 else 0)
    else if item = 1 then s.tileWord slot t w
    else 0
  else if shAux i then
    match Sock.ofNum n with
    | some q => if n < 5 ∨ (8 ≤ n ∧ n ≤ 20) then s.shadowAux slot site q item w else 0
    | none => 0
  else match shCaptured n with
    | none => 0
    | some q =>
      if item < 5 then (if w < itemWords q item then (c.item q item).word w else 0)
      else if item = 5 then (if q = .ct then 0 else if w = 0 then c.controlWord q now else if w ≤ 16 then c.metaWord q (w - 1) now else 0)
      else if item < 8 then
        (if q.isLs then
          match c.access q w with
          | some a => if item = 6 then a.pointer else a.mask
          | none => 0
        else 0)
      else if item < 24 ∧ w < itemWords q item then (c.entryData q (item - 8)).word w
      else 0

/-- The bits that a word of item 1 of socket 0, or of item 5, has; the others are reserved (R376). -/
def tileWordBits (w : Nat) : Word := if w = 5 then modeBits else if w = 6 then 7 else if w = 7 then 3 else .allOnes 64
def controlBits (w : Nat) : Word := if w = 0 then 0xFF80FFFF80000000#64 else 0xE03F0000FFFFFFFF#64

/-- The location may be written, and the value has no reserved bit (R376, R377). -/
def shWritable (i : Nat) (x : Word) : Bool :=
  let (n, item, w) := (shSock i, shItem i, shWord i)
  if n = 0 then !shAux i && item == 1 && decide (w ≤ 7) && !(w == 0 && decide (959 < x.toNat)) && !outside x (tileWordBits w)
  else match shCaptured n with
    | none => false
    | some q =>
      if shAux i then decide (w < auxWords q item) && !(q == .ct && item == 3 && outside x modeBits)
      else if item < 5 then decide (w < itemWords q item)
      else if item = 5 then decide (w ≤ 16) && !outside x (controlBits w)
      else decide (8 ≤ item) && decide (item < 24) && decide (w < itemWords q item)

/-- The word at an index := x. -/
def Tile.shadowWrite (t : Tile) (id site now i : Nat) (x : Word) : Tile :=
  let (n, item, w) := (shSock i, shItem i, shWord i)
  if n = 0 then t.setTileWord w x
  else match shCaptured n with
    | none => t
    | some q =>
      t.mapUserCap fun c =>
        if shAux i then c.setAux q item w x
        else if item < 5 then c.setItem q item w x
        else if item = 5 then
          (if w = 0 then c.setControl q x else (c.grow id site q (w - 1)).setMeta q (w - 1) now x)
        else (c.grow id site q (item - 8)).setEntryData q (item - 8) w x

/-- The socket of an index whose word is assigned in its item. -/
def shAssigned (i : Nat) : Option Sock :=
  (shCaptured (shSock i)).filter fun q => shItem i == 5 || decide (shWord i < itemWords q (shItem i))

/-- inj: an item 8 to 23 of a captured socket. -/
def shEntry (i : Nat) : Option (Sock × Nat) :=
  if !shAux i ∧ 8 ≤ shItem i ∧ shItem i < 24 then (shAssigned i).map fun q => (q, shItem i - 8) else none

/-- What clr acts on: the waiting trigger, with the pending format for word 0 of item 5, or an entry. -/
inductive ShClear where
  | waiting (q : Sock) (format : Bool)
  | entry (q : Sock) (k : Nat)
  deriving DecidableEq, Repr

def shClear (i : Nat) : Option ShClear :=
  match shEntry i with
  | some (q, k) => some (.entry q k)
  | none =>
    if shAux i then none
    else if shItem i = 2 then (shAssigned i).map fun q => .waiting q false
    else if shItem i = 5 ∧ shWord i = 0 then (shAssigned i).map fun q => .waiting q true
    else none

def Captured.clear (c : Captured) : ShClear → Captured
  | .entry q k => if k < c.entries q then c.mark q k false else c
  | .waiting q format =>
    let c := c.setPipe q { c.pipe q with waiting := none }
    if format then c.setPending q false else c

/-! ### The operations (R377) -/

/-- The index of a trigger, and whether idx steps; none when another bit of b is set. -/
def shIndex (b idx : Word) : Option (Nat × Bool) :=
  if 2 ^ 17 ≤ b.toNat then none
  else if b.getLsbD 16 then some (idx.toNat % 65536, true) else some (b.toNat, false)

/-- A privilege parameter fault of SH, with b and o1. -/
def Trig.shFault (g : Trig) (s : State) : State := g.fault s 0x200D g.b (s.tile g.site).sh.o1

/-- Run an operation on its index; idx increments when it was used. -/
def Trig.onIndex (g : Trig) (s : State) (f : Nat → Option State) : State :=
  match shIndex g.b (s.tile g.site).sh.idx with
  | none => g.shFault s
  | some (i, step) =>
    match f i with
    | none => g.shFault s
    | some s => if step then s.mapTile g.site fun t => { t with sh := { t.sh with idx := t.sh.idx + 1 } } else s

def fireShRd (g : Trig) (s : State) : State :=
  g.onIndex s fun i =>
    let r : InFlight := ⟨g.cyc + 1, some (.s (s.shadowRead g.slot g.site i)), none, 0, false, none⟩
    some (s.mapTile g.site fun t => t.launchResult .sh r)

def fireShWr (g : Trig) (s : State) : State :=
  let x := (s.tile g.site).sh.o1
  g.onIndex s fun i =>
    if shWritable i x then
      some ({ s with nextId := s.nextId + 16 }.mapTile g.site fun t => t.shadowWrite s.nextId g.site (s.domain g.slot).dcc i x)
    else none

def fireShInj (g : Trig) (s : State) : State :=
  g.onIndex s fun i => (shEntry i).map fun (q, k) =>
    s.mapTile g.site fun t => t.mapUserCap fun c => c.inject q k (s.domain g.slot).dcc

def fireShClr (g : Trig) (s : State) : State :=
  g.onIndex s fun i => (shClear i).map fun x => s.mapTile g.site fun t => t.mapUserCap fun c => c.clear x

/-- `rd` (R377). -/
def execShRd (s : State) : Result := .next (s.trigger [.sh] fireShRd)

/-- `wr` (R377). -/
def execShWr (s : State) : Result := .next (s.trigger [.sh] fireShWr)

/-- `inj` (R377). -/
def execShInj (s : State) : Result := .next (s.trigger [.sh] fireShInj)

/-- `clr` (R377). -/
def execShClr (s : State) : Result := .next (s.trigger [.sh] fireShClr)

end Sys2Proof.Machine
end

