-- ==== Sys2Proof/Machine/Timetable.lean ====
section
/-!
DEFINITION. The timetable socket TM (spec/04 R92, R93).
-/
namespace Sys2Proof.Machine

/-- The comparisons of R92. -/
inductive TmTest where
  | exact | least | most
  deriving DecidableEq, Repr

/-- The assertion holds: offset against b, unsigned (R92). -/
def TmTest.passes (k : TmTest) (offset b : Word) : Bool :=
  match k with
  | .exact => offset == b
  | .least => b.ule offset
  | .most => offset.ule b

/-- The offset in the current bay at c. -/
def Trig.offset (g : Trig) (s : State) : Word := s.tmPort g.slot (s.tile g.site) 1

/-- An assertion: a failure is a slip fault in the trigger's slot (R92); in boot state every assertion wedges (spec/23 R403). -/
def TmTest.fire (k : TmTest) (g : Trig) (s : State) : State :=
  if (s.domain g.slot).boot || !k.passes (g.offset s) g.b then g.fault s 0x300D (g.offset s) g.b else s

/-- TM.snap: DCC in q0 and offset in q1, at c + 1 (R93). TM's results land by the domain's pulses. -/
def fireSnap (g : Trig) (s : State) : State :=
  let due := (s.domain g.slot).pulses + 1
  let r : InFlight := ⟨due, some (.s (s.domain g.slot).readDcc), some (g.offset s), 0, false, none⟩
  s.mapTile g.site fun t => t.launchResult .tm r

/-- `at`: offset = b (R92). -/
def execTmAt (s : State) : Result := .next (s.trigger [.tm] (TmTest.fire .exact))

/-- `atmin`: offset ≥ b (R92). -/
def execTmAtmin (s : State) : Result := .next (s.trigger [.tm] (TmTest.fire .least))

/-- `atmax`: offset ≤ b (R92). -/
def execTmAtmax (s : State) : Result := .next (s.trigger [.tm] (TmTest.fire .most))

/-- `snap` (R93). -/
def execTmSnap (s : State) : Result := .next (s.trigger [.tm] fireSnap)

end Sys2Proof.Machine
end

