-- ==== Sys2Proof/Machine/Dispatch.lean ====
section
/-!
DEFINITION. One arm per constructor of Instr: each is one direct call of that row's meaning.
-/
namespace Sys2Proof.Machine

def exec (i : Instr) (s : State) : Host.Outcome State Fault Refusal :=
  match i with
  | .bundleIssue site => Sys2Proof.Machine.execBundleIssue site s
  | .idleRun site => Sys2Proof.Machine.execIdleRun site s
  | .holdWaitIssue site => Sys2Proof.Machine.execHoldWaitIssue site s
  | .dataLockedFire site sock => Sys2Proof.Machine.execDataLockedFire site sock s
  | .resultLanding site sock => Sys2Proof.Machine.execResultLanding site sock s
  | .takenBranchRedirect site => Sys2Proof.Machine.execTakenBranchRedirect site s
  | .hardwareLoopEnd site => Sys2Proof.Machine.execHardwareLoopEnd site s
  | .forcedRealignment slot => Sys2Proof.Machine.execForcedRealignment slot s
  | .userInterruptTaken site => Sys2Proof.Machine.execUserInterruptTaken site s
  | .accessPerform site id => Sys2Proof.Machine.execAccessPerform site id s
  | .reachNetworkHop slot id => Sys2Proof.Machine.execReachNetworkHop slot id s
  | .tableWritePerform site id => Sys2Proof.Machine.execTableWritePerform site id s
  | .mxLineFetch site line => Sys2Proof.Machine.execMxLineFetch site line s
  | .mxSlotReady site => Sys2Proof.Machine.execMxSlotReady site s
  | .epRowWrite site row => Sys2Proof.Machine.execEpRowWrite site row s
  | .meshLinkHop slot id => Sys2Proof.Machine.execMeshLinkHop slot id s
  | .meshItemLanding slot id => Sys2Proof.Machine.execMeshItemLanding slot id s
  | .depositPerform slot id => Sys2Proof.Machine.execDepositPerform slot id s
  | .sendBufferRelease site => Sys2Proof.Machine.execSendBufferRelease site s
  | .catwalkMessageArrival id => Sys2Proof.Machine.execCatwalkMessageArrival id s
  | .installMessage id => Sys2Proof.Machine.execInstallMessage id s
  | .dmCommandAcceptance slot id => Sys2Proof.Machine.execDmCommandAcceptance slot id s
  | .timedCommandStart slot id => Sys2Proof.Machine.execTimedCommandStart slot id s
  | .windowAllocation slot stack => Sys2Proof.Machine.execWindowAllocation slot stack s
  | .hbmSectorPerform slot id sector => Sys2Proof.Machine.execHbmSectorPerform slot id sector s
  | .engineSramLinePerform slot id line => Sys2Proof.Machine.execEngineSramLinePerform slot id line s
  | .looseReplyLanding site => Sys2Proof.Machine.execLooseReplyLanding site s
  | .ucopyCompletion site xfer => Sys2Proof.Machine.execUcopyCompletion site xfer s
  | .pierRelease slot => Sys2Proof.Machine.execPierRelease slot s
  | .pierWatchdogExpiry slot => Sys2Proof.Machine.execPierWatchdogExpiry slot s
  | .quantumMark slot mark => Sys2Proof.Machine.execQuantumMark slot mark s
  | .deskStep slot => Sys2Proof.Machine.execDeskStep slot s
  | .freeze slot => Sys2Proof.Machine.execFreeze slot s
  | .resumption slot => Sys2Proof.Machine.execResumption slot s
  | .hostFirePortWrite slot word => Sys2Proof.Machine.execHostFirePortWrite slot word s
  | .hostCancelPortWrite slot word => Sys2Proof.Machine.execHostCancelPortWrite slot word s
  | .armingEntryWrite slot tag index cover word => Sys2Proof.Machine.execArmingEntryWrite slot tag index cover word s
  | .hostRegisterWrite offset cover word => Sys2Proof.Machine.execHostRegisterWrite offset cover word s
  | .mmcMailboxCommand cmd => Sys2Proof.Machine.execMmcMailboxCommand cmd s
  | .launchFire slot tag source => Sys2Proof.Machine.execLaunchFire slot tag source s
  | .entryArm slot tag image reply => Sys2Proof.Machine.execEntryArm slot tag image reply s
  | .counterReadRequest slot handle site => Sys2Proof.Machine.execCounterReadRequest slot handle site s
  | .counterWriteRequest slot handle word site => Sys2Proof.Machine.execCounterWriteRequest slot handle word site s
  | .cancel slot handle reply => Sys2Proof.Machine.execCancel slot handle reply s
  | .cancelDrainComplete slot => Sys2Proof.Machine.execCancelDrainComplete slot s
  | .launchSelection slot => Sys2Proof.Machine.execLaunchSelection slot s
  | .launchStart slot => Sys2Proof.Machine.execLaunchStart slot s
  | .launchCompletion slot => Sys2Proof.Machine.execLaunchCompletion slot s
  | .counterZeroPropagation slot handle => Sys2Proof.Machine.execCounterZeroPropagation slot handle s
  | .priorityPromotion slot tag => Sys2Proof.Machine.execPriorityPromotion slot tag s
  | .preemption slot => Sys2Proof.Machine.execPreemption slot s
  | .stopForInspection slot reply => Sys2Proof.Machine.execStopForInspection slot reply s
  | .preemptStop slot reply => Sys2Proof.Machine.execPreemptStop slot reply s
  | .preemptionDrainEnd slot => Sys2Proof.Machine.execPreemptionDrainEnd slot s
  | .saveComplete slot => Sys2Proof.Machine.execSaveComplete slot s
  | .preemptedResume slot => Sys2Proof.Machine.execPreemptedResume slot s
  | .debugHalt slot reply => Sys2Proof.Machine.execDebugHalt slot reply s
  | .debugStep slot n reply => Sys2Proof.Machine.execDebugStep slot n reply s
  | .debugStepExpiry slot => Sys2Proof.Machine.execDebugStepExpiry slot s
  | .debugRelease slot reply => Sys2Proof.Machine.execDebugRelease slot reply s
  | .haltGroupHalt site => Sys2Proof.Machine.execHaltGroupHalt site s
  | .throttleChange slot => Sys2Proof.Machine.execThrottleChange slot s
  | .fabricScheduleLoad slot port schedule => Sys2Proof.Machine.execFabricScheduleLoad slot port schedule s
  | .fabricFrameSend slot port => Sys2Proof.Machine.execFabricFrameSend slot port s
  | .fabricFrameReceive slot port mark payload => Sys2Proof.Machine.execFabricFrameReceive slot port mark payload s
  | .frameRetry slot port retry => Sys2Proof.Machine.execFrameRetry slot port retry s
  | .fabricHoldAnnounce hold => Sys2Proof.Machine.execFabricHoldAnnounce hold s
  | .fabricHold slot => Sys2Proof.Machine.execFabricHold slot s
  | .fabricHoldEnd slot => Sys2Proof.Machine.execFabricHoldEnd slot s
  | .timeBeacon slot beacon => Sys2Proof.Machine.execTimeBeacon slot beacon s
  | .launchMessageComplete slot tag => Sys2Proof.Machine.execLaunchMessageComplete slot tag s
  | .collectiveCombine slot id => Sys2Proof.Machine.execCollectiveCombine slot id s
  | .partitionConfigure index word => Sys2Proof.Machine.execPartitionConfigure index word s
  | .islandScrub island => Sys2Proof.Machine.execIslandScrub island s
  | .keySlotWrite index key => Sys2Proof.Machine.execKeySlotWrite index key s
  | .lifecycleAdvance state command signature => Sys2Proof.Machine.execLifecycleAdvance state command signature s
  | .debugUnlock token signature => Sys2Proof.Machine.execDebugUnlock token signature s
  | .getVersion path => Sys2Proof.Machine.execGetVersion path s
  | .getCapabilities path => Sys2Proof.Machine.execGetCapabilities path s
  | .negotiateAlgorithms path => Sys2Proof.Machine.execNegotiateAlgorithms path s
  | .getDigests path => Sys2Proof.Machine.execGetDigests path s
  | .getCertificate path certSlot offset length => Sys2Proof.Machine.execGetCertificate path certSlot offset length s
  | .challenge path nonce => Sys2Proof.Machine.execChallenge path nonce s
  | .getMeasurements path index nonce => Sys2Proof.Machine.execGetMeasurements path index nonce s
  | .powerOnVerification image bytes signature => Sys2Proof.Machine.execPowerOnVerification image bytes signature s
  | .firmwareUpdateWrite offset cover word => Sys2Proof.Machine.execFirmwareUpdateWrite offset cover word s
  | .coreReset die => Sys2Proof.Machine.execCoreReset die s
  | .uncoreReset die => Sys2Proof.Machine.execUncoreReset die s
  | .thermalCritical stack temperature => Sys2Proof.Machine.execThermalCritical stack temperature s
  | .thermalRecovery stack temperature => Sys2Proof.Machine.execThermalRecovery stack temperature s
  | .linkRetrain link trained => Sys2Proof.Machine.execLinkRetrain link trained s
  | .patrolScrub die kind address => Sys2Proof.Machine.execPatrolScrub die kind address s
  | .archiveEntryWrite die => Sys2Proof.Machine.execArchiveEntryWrite die s
  | .reducedServiceStart => Sys2Proof.Machine.execReducedServiceStart s
  | .reducedServiceEnd => Sys2Proof.Machine.execReducedServiceEnd s
  | .bootStateEntry die => Sys2Proof.Machine.execBootStateEntry die s
  | .bootStateEnd die => Sys2Proof.Machine.execBootStateEnd die s
  | .objectLoad slot place file => Sys2Proof.Machine.execObjectLoad slot place file s
  | .domainFormation slot spec => Sys2Proof.Machine.execDomainFormation slot spec s
  | .standbyPowerRemoval die => Sys2Proof.Machine.execStandbyPowerRemoval die s
  | .rosnilAdd d a b => Sys2Proof.Machine.execRosnilAdd d a b s
  | .rosnilSub d a b => Sys2Proof.Machine.execRosnilSub d a b s
  | .rosnilAnd d a b => Sys2Proof.Machine.execRosnilAnd d a b s
  | .rosnilOr d a b => Sys2Proof.Machine.execRosnilOr d a b s
  | .rosnilXor d a b => Sys2Proof.Machine.execRosnilXor d a b s
  | .rosnilShl d a b => Sys2Proof.Machine.execRosnilShl d a b s
  | .rosnilShr d a b => Sys2Proof.Machine.execRosnilShr d a b s
  | .rosnilSra d a b => Sys2Proof.Machine.execRosnilSra d a b s
  | .rosnilMul d a b => Sys2Proof.Machine.execRosnilMul d a b s
  | .rosnilSlt d a b => Sys2Proof.Machine.execRosnilSlt d a b s
  | .rosnilSltu d a b => Sys2Proof.Machine.execRosnilSltu d a b s
  | .rosnilAddi d a imm => Sys2Proof.Machine.execRosnilAddi d a imm s
  | .rosnilLi d imm => Sys2Proof.Machine.execRosnilLi d imm s
  | .rosnilLio d a imm => Sys2Proof.Machine.execRosnilLio d a imm s
  | .rosnilLd d a imm => Sys2Proof.Machine.execRosnilLd d a imm s
  | .rosnilSt a b => Sys2Proof.Machine.execRosnilSt a b s
  | .rosnilBne a b o => Sys2Proof.Machine.execRosnilBne a b o s
  | .rosnilBlt a b o => Sys2Proof.Machine.execRosnilBlt a b o s
  | .rosnilJ o => Sys2Proof.Machine.execRosnilJ o s
  | .rosnilHalt => Sys2Proof.Machine.execRosnilHalt s
  | .rosnilGvl d => Sys2Proof.Machine.execRosnilGvl d s
  | .rosnilVld d a k imm => Sys2Proof.Machine.execRosnilVld d a k imm s
  | .rosnilVst a b k => Sys2Proof.Machine.execRosnilVst a b k s
  | .rosnilVfadd d a b k => Sys2Proof.Machine.execRosnilVfadd d a b k s
  | .rosnilVfsub d a b k => Sys2Proof.Machine.execRosnilVfsub d a b k s
  | .rosnilVfmul d a b k => Sys2Proof.Machine.execRosnilVfmul d a b k s
  | .rosnilVfma d a b k => Sys2Proof.Machine.execRosnilVfma d a b k s
  | .rosnilVfmax d a b k => Sys2Proof.Machine.execRosnilVfmax d a b k s
  | .rosnilVfmin d a b k => Sys2Proof.Machine.execRosnilVfmin d a b k s
  | .rosnilVwid d b k h source => Sys2Proof.Machine.execRosnilVwid d b k h source s
  | .rosnilVrsum d b k => Sys2Proof.Machine.execRosnilVrsum d b k s
  | .rosnilVbcast d a => Sys2Proof.Machine.execRosnilVbcast d a s
  | .rosnilVwhile d a b => Sys2Proof.Machine.execRosnilVwhile d a b s
  | .rosnilVmovs d b => Sys2Proof.Machine.execRosnilVmovs d b s
  | .rosnilMtile a b c K f => Sys2Proof.Machine.execRosnilMtile a b c K f s
  | .rosnilMtilea a b c K f => Sys2Proof.Machine.execRosnilMtilea a b c K f s
  | .rosnilMdrain a => Sys2Proof.Machine.execRosnilMdrain a s
  | .rosnilGkey a => Sys2Proof.Machine.execRosnilGkey a s
  | .rosnilGsm a b => Sys2Proof.Machine.execRosnilGsm a b s
  | .rosnilGdraw d a => Sys2Proof.Machine.execRosnilGdraw d a s
  | .ctJmp => Sys2Proof.Machine.execCtJmp s
  | .ctJmpa => Sys2Proof.Machine.execCtJmpa s
  | .ctJmpx => Sys2Proof.Machine.execCtJmpx s
  | .ctCall => Sys2Proof.Machine.execCtCall s
  | .ctCalla => Sys2Proof.Machine.execCtCalla s
  | .ctRet => Sys2Proof.Machine.execCtRet s
  | .ctLoop => Sys2Proof.Machine.execCtLoop s
  | .ctLbrk => Sys2Proof.Machine.execCtLbrk s
  | .ctMode => Sys2Proof.Machine.execCtMode s
  | .ctLoose => Sys2Proof.Machine.execCtLoose s
  | .ctPier => Sys2Proof.Machine.execCtPier s
  | .ctRealign => Sys2Proof.Machine.execCtRealign s
  | .ctFence => Sys2Proof.Machine.execCtFence s
  | .ctHalt => Sys2Proof.Machine.execCtHalt s
  | .ctBkpt => Sys2Proof.Machine.execCtBkpt s
  | .ctEcall => Sys2Proof.Machine.execCtEcall s
  | .ctUiret => Sys2Proof.Machine.execCtUiret s
  | .ctUimask => Sys2Proof.Machine.execCtUimask s
  | .tmAt => Sys2Proof.Machine.execTmAt s
  | .tmAtmin => Sys2Proof.Machine.execTmAtmin s
  | .tmAtmax => Sys2Proof.Machine.execTmAtmax s
  | .tmSnap => Sys2Proof.Machine.execTmSnap s
  | .iaAdd => Sys2Proof.Machine.execIaAdd s
  | .iaSub => Sys2Proof.Machine.execIaSub s
  | .iaAnd => Sys2Proof.Machine.execIaAnd s
  | .iaOr => Sys2Proof.Machine.execIaOr s
  | .iaXor => Sys2Proof.Machine.execIaXor s
  | .iaShl => Sys2Proof.Machine.execIaShl s
  | .iaShr => Sys2Proof.Machine.execIaShr s
  | .iaSra => Sys2Proof.Machine.execIaSra s
  | .iaMin => Sys2Proof.Machine.execIaMin s
  | .iaMax => Sys2Proof.Machine.execIaMax s
  | .iaMinu => Sys2Proof.Machine.execIaMinu s
  | .iaMaxu => Sys2Proof.Machine.execIaMaxu s
  | .iaAdds => Sys2Proof.Machine.execIaAdds s
  | .iaSubs => Sys2Proof.Machine.execIaSubs s
  | .iaAddus => Sys2Proof.Machine.execIaAddus s
  | .iaSubus => Sys2Proof.Machine.execIaSubus s
  | .iaMul => Sys2Proof.Machine.execIaMul s
  | .iaMulh => Sys2Proof.Machine.execIaMulh s
  | .iaMulhu => Sys2Proof.Machine.execIaMulhu s
  | .iaDiv => Sys2Proof.Machine.execIaDiv s
  | .iaDivu => Sys2Proof.Machine.execIaDivu s
  | .iaRem => Sys2Proof.Machine.execIaRem s
  | .iaRemu => Sys2Proof.Machine.execIaRemu s
  | .iaCeq => Sys2Proof.Machine.execIaCeq s
  | .iaCne => Sys2Proof.Machine.execIaCne s
  | .iaClt => Sys2Proof.Machine.execIaClt s
  | .iaCltu => Sys2Proof.Machine.execIaCltu s
  | .iaClz => Sys2Proof.Machine.execIaClz s
  | .iaPop => Sys2Proof.Machine.execIaPop s
  | .iaExt => Sys2Proof.Machine.execIaExt s
  | .agInc => Sys2Proof.Machine.execAgInc s
  | .agMod => Sys2Proof.Machine.execAgMod s
  | .agBrev => Sys2Proof.Machine.execAgBrev s
  | .agCirc => Sys2Proof.Machine.execAgCirc s
  | .agMkptr => Sys2Proof.Machine.execAgMkptr s
  | .agMkcl => Sys2Proof.Machine.execAgMkcl s
  | .agMkdom => Sys2Proof.Machine.execAgMkdom s
  | .agCoord => Sys2Proof.Machine.execAgCoord s
  | .agSetb => Sys2Proof.Machine.execAgSetb s
  | .agSets => Sys2Proof.Machine.execAgSets s
  | .agSetl => Sys2Proof.Machine.execAgSetl s
  | .agLea => Sys2Proof.Machine.execAgLea s
  | .laLd8 => Sys2Proof.Machine.execLaLd8 s
  | .laLd16 => Sys2Proof.Machine.execLaLd16 s
  | .laLd32 => Sys2Proof.Machine.execLaLd32 s
  | .laLd64 => Sys2Proof.Machine.execLaLd64 s
  | .laLdv => Sys2Proof.Machine.execLaLdv s
  | .laLdvs => Sys2Proof.Machine.execLaLdvs s
  | .laLdvx => Sys2Proof.Machine.execLaLdvx s
  | .laSt8 => Sys2Proof.Machine.execLaSt8 s
  | .laSt16 => Sys2Proof.Machine.execLaSt16 s
  | .laSt32 => Sys2Proof.Machine.execLaSt32 s
  | .laSt64 => Sys2Proof.Machine.execLaSt64 s
  | .laStv => Sys2Proof.Machine.execLaStv s
  | .laStvs => Sys2Proof.Machine.execLaStvs s
  | .laStvx => Sys2Proof.Machine.execLaStvx s
  | .laAmoadd => Sys2Proof.Machine.execLaAmoadd s
  | .laAmomin => Sys2Proof.Machine.execLaAmomin s
  | .laAmomax => Sys2Proof.Machine.execLaAmomax s
  | .laAmoswap => Sys2Proof.Machine.execLaAmoswap s
  | .laAmocas => Sys2Proof.Machine.execLaAmocas s
  | .laTblw => Sys2Proof.Machine.execLaTblw s
  | .vaFadd => Sys2Proof.Machine.execVaFadd s
  | .vaFsub => Sys2Proof.Machine.execVaFsub s
  | .vaFmul => Sys2Proof.Machine.execVaFmul s
  | .vaFfma => Sys2Proof.Machine.execVaFfma s
  | .vaFfms => Sys2Proof.Machine.execVaFfms s
  | .vaFmin => Sys2Proof.Machine.execVaFmin s
  | .vaFmax => Sys2Proof.Machine.execVaFmax s
  | .vaFabs => Sys2Proof.Machine.execVaFabs s
  | .vaFneg => Sys2Proof.Machine.execVaFneg s
  | .vaFceq => Sys2Proof.Machine.execVaFceq s
  | .vaFclt => Sys2Proof.Machine.execVaFclt s
  | .vaFcle => Sys2Proof.Machine.execVaFcle s
  | .vaFcun => Sys2Proof.Machine.execVaFcun s
  | .vaIadd => Sys2Proof.Machine.execVaIadd s
  | .vaIsub => Sys2Proof.Machine.execVaIsub s
  | .vaImul => Sys2Proof.Machine.execVaImul s
  | .vaImulh => Sys2Proof.Machine.execVaImulh s
  | .vaImin => Sys2Proof.Machine.execVaImin s
  | .vaImax => Sys2Proof.Machine.execVaImax s
  | .vaIminu => Sys2Proof.Machine.execVaIminu s
  | .vaImaxu => Sys2Proof.Machine.execVaImaxu s
  | .vaIadds => Sys2Proof.Machine.execVaIadds s
  | .vaIsubs => Sys2Proof.Machine.execVaIsubs s
  | .vaIaddus => Sys2Proof.Machine.execVaIaddus s
  | .vaIsubus => Sys2Proof.Machine.execVaIsubus s
  | .vaIand => Sys2Proof.Machine.execVaIand s
  | .vaIor => Sys2Proof.Machine.execVaIor s
  | .vaIxor => Sys2Proof.Machine.execVaIxor s
  | .vaIshl => Sys2Proof.Machine.execVaIshl s
  | .vaIshr => Sys2Proof.Machine.execVaIshr s
  | .vaIsra => Sys2Proof.Machine.execVaIsra s
  | .vaIceq => Sys2Proof.Machine.execVaIceq s
  | .vaIclt => Sys2Proof.Machine.execVaIclt s
  | .vaIcltu => Sys2Proof.Machine.execVaIcltu s
  | .vaSel => Sys2Proof.Machine.execVaSel s
  | .vaMrg => Sys2Proof.Machine.execVaMrg s
  | .vaCvt => Sys2Proof.Machine.execVaCvt s
  | .vaDec => Sys2Proof.Machine.execVaDec s
  | .vaEnc => Sys2Proof.Machine.execVaEnc s
  | .vaAmax => Sys2Proof.Machine.execVaAmax s
  | .vaQscale => Sys2Proof.Machine.execVaQscale s
  | .vaRsum => Sys2Proof.Machine.execVaRsum s
  | .vaPerm => Sys2Proof.Machine.execVaPerm s
  | .vaBcast => Sys2Proof.Machine.execVaBcast s
  | .vaShuf => Sys2Proof.Machine.execVaShuf s
  | .vaIota => Sys2Proof.Machine.execVaIota s
  | .sfExp2 => Sys2Proof.Machine.execSfExp2 s
  | .sfLog2 => Sys2Proof.Machine.execSfLog2 s
  | .sfExp => Sys2Proof.Machine.execSfExp s
  | .sfRcp => Sys2Proof.Machine.execSfRcp s
  | .sfRsqrt => Sys2Proof.Machine.execSfRsqrt s
  | .sfSqrt => Sys2Proof.Machine.execSfSqrt s
  | .sfTanh => Sys2Proof.Machine.execSfTanh s
  | .sfSigm => Sys2Proof.Machine.execSfSigm s
  | .sfSin => Sys2Proof.Machine.execSfSin s
  | .sfCos => Sys2Proof.Machine.execSfCos s
  | .mxMm => Sys2Proof.Machine.execMxMm s
  | .mxMma => Sys2Proof.Machine.execMxMma s
  | .mxMmt => Sys2Proof.Machine.execMxMmt s
  | .mxMmta => Sys2Proof.Machine.execMxMmta s
  | .mxMmb => Sys2Proof.Machine.execMxMmb s
  | .mxMmba => Sys2Proof.Machine.execMxMmba s
  | .mxMmg => Sys2Proof.Machine.execMxMmg s
  | .mxMmga => Sys2Proof.Machine.execMxMmga s
  | .mxMmgb => Sys2Proof.Machine.execMxMmgb s
  | .mxMmgba => Sys2Proof.Machine.execMxMmgba s
  | .mxMmgt => Sys2Proof.Machine.execMxMmgt s
  | .mxMmgta => Sys2Proof.Machine.execMxMmgta s
  | .mxMv => Sys2Proof.Machine.execMxMv s
  | .mxMva => Sys2Proof.Machine.execMxMva s
  | .mxOuter => Sys2Proof.Machine.execMxOuter s
  | .mxOutera => Sys2Proof.Machine.execMxOutera s
  | .mxPgRoutine => Sys2Proof.Machine.execMxPgRoutine s
  | .mxCalx => Sys2Proof.Machine.execMxCalx s
  | .mxRhead => Sys2Proof.Machine.execMxRhead s
  | .mxRtail => Sys2Proof.Machine.execMxRtail s
  | .mxClr => Sys2Proof.Machine.execMxClr s
  | .mxMread => Sys2Proof.Machine.execMxMread s
  | .mxMwrite => Sys2Proof.Machine.execMxMwrite s
  | .epDrain => Sys2Proof.Machine.execEpDrain s
  | .epDrtr => Sys2Proof.Machine.execEpDrtr s
  | .epDrsum => Sys2Proof.Machine.execEpDrsum s
  | .epDrnet => Sys2Proof.Machine.execEpDrnet s
  | .epDrrow => Sys2Proof.Machine.execEpDrrow s
  | .epDrop => Sys2Proof.Machine.execEpDrop s
  | .gnKey => Sys2Proof.Machine.execGnKey s
  | .gnStream => Sys2Proof.Machine.execGnStream s
  | .gnMember => Sys2Proof.Machine.execGnMember s
  | .gnDraw => Sys2Proof.Machine.execGnDraw s
  | .gnRegen => Sys2Proof.Machine.execGnRegen s
  | .gnBits => Sys2Proof.Machine.execGnBits s
  | .gnNext => Sys2Proof.Machine.execGnNext s
  | .nsSends => Sys2Proof.Machine.execNsSends s
  | .nsSend => Sys2Proof.Machine.execNsSend s
  | .nsSendv => Sys2Proof.Machine.execNsSendv s
  | .nsDep => Sys2Proof.Machine.execNsDep s
  | .nsDepv => Sys2Proof.Machine.execNsDepv s
  | .nsFwd => Sys2Proof.Machine.execNsFwd s
  | .nsTag => Sys2Proof.Machine.execNsTag s
  | .nsLclr => Sys2Proof.Machine.execNsLclr s
  | .svMsg => Sys2Proof.Machine.execSvMsg s
  | .svMcast => Sys2Proof.Machine.execSvMcast s
  | .svQset => Sys2Proof.Machine.execSvQset s
  | .svQpop => Sys2Proof.Machine.execSvQpop s
  | .svQstat => Sys2Proof.Machine.execSvQstat s
  | .svWreq => Sys2Proof.Machine.execSvWreq s
  | .svCnt => Sys2Proof.Machine.execSvCnt s
  | .svCntw => Sys2Proof.Machine.execSvCntw s
  | .svCancel => Sys2Proof.Machine.execSvCancel s
  | .svFire => Sys2Proof.Machine.execSvFire s
  | .svArm => Sys2Proof.Machine.execSvArm s
  | .svStop => Sys2Proof.Machine.execSvStop s
  | .svDisc => Sys2Proof.Machine.execSvDisc s
  | .svDbg => Sys2Proof.Machine.execSvDbg s
  | .dmCopy => Sys2Proof.Machine.execDmCopy s
  | .dmCopy2 => Sys2Proof.Machine.execDmCopy2 s
  | .dmGath => Sys2Proof.Machine.execDmGath s
  | .dmGathl => Sys2Proof.Machine.execDmGathl s
  | .dmWalk => Sys2Proof.Machine.execDmWalk s
  | .dmRadd => Sys2Proof.Machine.execDmRadd s
  | .dmRmin => Sys2Proof.Machine.execDmRmin s
  | .dmRmax => Sys2Proof.Machine.execDmRmax s
  | .dmConv => Sys2Proof.Machine.execDmConv s
  | .dmOvl => Sys2Proof.Machine.execDmOvl s
  | .dmUcopy => Sys2Proof.Machine.execDmUcopy s
  | .dmBset => Sys2Proof.Machine.execDmBset s
  | .dmBarr => Sys2Proof.Machine.execDmBarr s
  | .dmBchk => Sys2Proof.Machine.execDmBchk s
  | .dmPoolget => Sys2Proof.Machine.execDmPoolget s
  | .dmPoolrel => Sys2Proof.Machine.execDmPoolrel s
  | .syEret => Sys2Proof.Machine.execSyEret s
  | .syRngw => Sys2Proof.Machine.execSyRngw s
  | .syRngr => Sys2Proof.Machine.execSyRngr s
  | .syRngi => Sys2Proof.Machine.execSyRngi s
  | .syAccx => Sys2Proof.Machine.execSyAccx s
  | .syAccr => Sys2Proof.Machine.execSyAccr s
  | .syArcw => Sys2Proof.Machine.execSyArcw s
  | .syThr => Sys2Proof.Machine.execSyThr s
  | .syCfgr => Sys2Proof.Machine.execSyCfgr s
  | .syCfgw => Sys2Proof.Machine.execSyCfgw s
  | .syHgrp => Sys2Proof.Machine.execSyHgrp s
  | .syXtrig => Sys2Proof.Machine.execSyXtrig s
  | .syWdog => Sys2Proof.Machine.execSyWdog s
  | .syFusr => Sys2Proof.Machine.execSyFusr s
  | .shRd => Sys2Proof.Machine.execShRd s
  | .shWr => Sys2Proof.Machine.execShWr s
  | .shInj => Sys2Proof.Machine.execShInj s
  | .shClr => Sys2Proof.Machine.execShClr s

end Sys2Proof.Machine
end

