-- ==== Sys2Proof/Machine/Fetch.lean ====
section
/-!
DEFINITION. Where the next step comes from: the portable machine's next word (spec/18 R334), or the next step due in the
present cycle.
-/
namespace Sys2Proof.Machine

/-- The four bytes of the portable machine's next word. -/
def State.portableFetch (s : State) : List Byte := s.readBytes s.portable.ip 4

/-- The word of four bytes, least significant first (spec/18 R334). -/
def wordOfBytes (bs : List Byte) : BitVec 32 := BitVec.ofNat 32 (leNat bs)

/-- The portable machine moves past the word it is about to execute. -/
def State.portableBegin (s : State) : State :=
  { s with portable := { s.portable with cur := s.portable.ip, ip := s.portable.ip + 4 } }

/-- Take the next step due: it leaves the agenda, and the focus turns to its tile and slot. -/
def State.focusOn (s : State) (t : Todo) (rest : List Todo) : State :=
  { s with agenda := rest, cur := { s.cur with site := t.site, slot := t.slot, from_ := t.from_ } }

/-- Place a portable word where the portable machine fetches next, and let it run (notes/assumptions/4.md). -/
def State.placePortable (s : State) (bs : List Byte) : State :=
  let s := s.writeBytes s.portable.ip bs
  { s with portable := { s.portable with running := true } }

/-- Place a move slot as the step due next: the slot is the source of the trigger that runs (notes/assumptions/4.md). -/
def State.placeSlot (s : State) (x : BitVec 40) : State :=
  match decode (.move x) with
  | some i =>
    let t : Todo := ⟨s.cur.site, s.cur.slot, { Origin.none with slot := 0, slotValue := x }, i⟩
    { s with agenda := t :: s.agenda, portable := { s.portable with running := false } }
  | none => s

end Sys2Proof.Machine
end

