-- ==== Sys2Proof/Machine/Tick.lean ====
section
/-!
DEFINITION. Time: one tick of the 600 MHz reference in its phases, and in each phase the steps that fall due, in the order the manual
gives them (spec/01 R2, R13, R19, R25, spec/02 R38, spec/10 R208, R213, spec/11 R218, R227, R234, spec/15 R281, R286 to R288, R294,
R304, R307, spec/20 R361, spec/21 R372, R374, R378, R381, R382, spec/22 R387, R389).
-/
namespace Sys2Proof

/-- The slot whose launch unit takes an input in its own order. -/
def Instr.unitSlot : Instr → Option Nat
  | .hostFirePortWrite slot _ | .hostCancelPortWrite slot _ | .armingEntryWrite slot _ _ _ _ => some slot
  | _ => none

/-- Requests of SPDM. -/
def Instr.isSpdm : Instr → Bool
  | .getVersion _ | .getCapabilities _ | .negotiateAlgorithms _ | .getDigests _ | .getCertificate _ _ _ _ | .challenge _ _
  | .getMeasurements _ _ _ => true
  | _ => false

/-- Order of the sources of fires at one entry (spec/15 R286). -/
def FireSource.rank : FireSource → Nat
  | .counter => 0
  | .message _ => 1
  | .port => 2
  | .svFire _ _ _ => 3

end Sys2Proof

namespace Sys2Proof.Machine

/-- A step of a domain slot, or of a tile. -/
def todo (slot : Nat) (i : Instr) : Todo := ⟨0, slot, Origin.none, i⟩
def todoAt (slot site : Nat) (i : Instr) : Todo := ⟨site, slot, Origin.none, i⟩

/-! ### Which clocks run (spec/01 R2, R13, spec/15 R307) -/

/-- The pulse of a tick reaches a domain: k of every 32 are swallowed, and a fabric hold takes all (notes/assumptions/11.md). -/
def Domain.pulse (d : Domain) (tick : Nat) : Bool := decide (tick % 32 < 32 - d.throttle) && !(d.frozen && d.use == .hold)

/-- Slots whose domain clock runs in this tick. -/
def State.running (s : State) : List Nat := s.pulsing.filter fun k => !(s.domain k).frozen

/-- A freeze comes into force in the present cycle of a domain. -/
def Domain.freezing (d : Domain) : Bool :=
  !d.frozen && d.draining.isNone && (match d.plan with | some p => decide (p.due ≤ d.dcc) | none => false)

/-- Slots in whose present cycle the domain-clocked parts act: a freeze at F leaves them as the cycle before F left them (spec/21 R372). -/
def State.flowing (s : State) : List Nat := s.running.filter fun k => !(s.domain k).freezing

/-- The launch unit handles its events: it stands still in a frozen domain (spec/15 R286). -/
def State.unitRuns (s : State) (slot : Nat) : Bool := s.unitAwake slot && !(s.domain slot).frozen

def unitSlotNumbers : List Nat := List.range 24

/-! ### Inputs from outside -/

def State.dueInputs (s : State) : List Input := s.inputs.filter fun x => x.due ≤ s.tick

/-- Take the inputs that fall due and satisfy a test: their steps, and the state without them. -/
def State.takeInputs (s : State) (f : Instr → Bool) : List Instr × State :=
  ((s.dueInputs.filter fun x => f x.instr).map (·.instr),
   { s with inputs := s.inputs.filter fun x => !(decide (x.due ≤ s.tick) && f x.instr) })

/-! ### Phase start: what comes from outside, holds and resumptions -/

/-- A cycle of the reference clock of 100 MHz begins (spec/22 R387). -/
def referenceEdge (tick : Nat) : Bool := tick % 6 == 0

def State.ownsCritical (s : State) (slot : Nat) : Bool :=
  (List.range 32).any fun k => (s.domain slot).spec.owns k && (s.stack k).critical

/-- A multi-module domain announces a hold at once when a stack it owns turns critical, and again every 448 reference cycles until it has
cooled (spec/22 R395). -/
def State.announces (s : State) (slot : Nat) : Bool :=
  let d := s.domain slot
  d.spec.cls == .multi && s.ownsCritical slot &&
    (match d.announceIn with | none => true | some n => n == 1 && referenceEdge s.tick)

/-- Reference cycles to the next announcement of a domain that stays critical. -/
def State.countAnnouncement (s : State) (slot : Nat) : Option Nat :=
  if s.announces slot then some holdCycles
  else if s.ownsCritical slot then (s.domain slot).announceIn.map fun n => if referenceEdge s.tick then n - 1 else n
  else none

/-- A hold in force counts its reference cycles (spec/13 R265), and a critical stack those to the next announcement. -/
def State.countHold (s : State) (slot : Nat) : State :=
  let d := s.domain slot
  let d' := { d with announceIn := s.countAnnouncement slot }
  match d.hold with
  | some (a, h, n) =>
    s.setDomain slot (if d.frozen && d.use == .hold && referenceEdge s.tick then { d' with hold := some (a, h, n - 1) } else d')
  | none => s.setDomain slot d'

/-- The hold's steps of a slot: in force at h, retries while it lasts, then over. -/
def State.holdSteps (s : State) (slot : Nat) : List Todo :=
  let d := s.domain slot
  match d.hold with
  | some (_, h, n) =>
    if d.frozen && d.use == .hold then
      (if n = 0 then [todo slot (.fabricHoldEnd slot)]
        else if s.tick % 7 = 0 then
          ((s.ports.filter fun (p : Nat × Port) => !p.2.retries.isEmpty && !p.2.serving).map fun (p : Nat × Port) =>
            todo slot (.frameRetry slot p.1 .receive)) ++
          (s.ports.filter fun (p : Nat × Port) => !p.2.resends.isEmpty).map fun (p : Nat × Port) => todo slot (.fabricFrameSend slot p.1)
        else [])
    else if h ≤ d.dcc then [todo slot (.fabricHold slot)] else []
  | none => []

/-- A freeze ends, or a restored context comes back, before anything else of its cycle (spec/21 R378, R382). -/
def State.resumeSteps (s : State) (slot : Nat) : List Todo :=
  let d := s.domain slot
  if !d.pulse s.tick then []
  else if s.mayResume slot then [todo slot (.resumption slot)]
  else match d.launch with
    | some l => if l.restoring && l.startAt == d.dcc && !d.frozen && d.draining.isNone then [todo slot (.preemptedResume slot)] else []
    | none => []

def State.slots (s : State) : List Nat := s.domains.map (·.1)

def State.phaseStart (s : State) : State :=
  let announcing := (s.slots.filter s.announces).map fun k => todo k (.fabricHoldAnnounce ⟨k, (s.domain k).dcc⟩)
  let s := s.slots.foldl State.countHold s
  let (outside, s) := s.takeInputs fun i => i.unitSlot.isNone && !i.isSpdm
  let boots := (List.range 8).filter s.bootDone
  { s with
    phase := .accept
    agenda := outside.map (todo 0) ++ boots.map (fun d => todo (16 + d) (.bootStateEnd d)) ++ announcing ++ s.slots.flatMap s.holdSteps ++
      s.slots.flatMap s.resumeSteps }

/-! ### Phase accept: the cycle begins -/

/-- A mode mask that was written in the last cycle applies; a socket newly locked counts as empty (spec/04 R85). -/
def Captured.freshLocks (c : Captured) : List Sock :=
  match c.ct.maskNext with
  | some m => lockableSocks.filter fun q => m.getLsbD q.num && !c.ct.mmask.getLsbD q.num
  | none => []

def Pipe.empty_ (p : Pipe) : Pipe := { p with full := false }

def Captured.applyMask (c : Captured) : Captured :=
  match c.ct.maskNext with
  | some m =>
    let c' := (c.freshLocks.filter Sock.captured).foldl (fun c q => c.setPipe q (c.pipe q).empty_) c
    { c' with ct := { c'.ct with mmask := m, maskNext := none } }
  | none => c

/-- A CT.uiret four cycles ago clears the interrupt mask (spec/04 R91). -/
def Captured.unmask (c : Captured) (now : Nat) : Captured :=
  match c.ct.unmaskAt with
  | some x => if x ≤ now then { c with ct := { c.ct with masked := false, unmaskAt := none } } else c
  | none => c

/-- The flags that landed at F join fflags in the cycle after F, as without the freeze (spec/05 R96, spec/21 R372). -/
def Tile.flagsAtF (t : Tile) : Tile :=
  if t.inSup then t else { t with id := { t.id with landed := t.id.landed ||| t.id.landedAtF, landedAtF := 0 } }

/-- A cycle of a tile begins: flags that landed are in fflags, and what was to apply from this cycle applies. -/
def Tile.beginCycle (t : Tile) (d : Domain) : Tile :=
  let (now, other) := if t.inSup then (d.pulses, d.dcc) else (d.dcc, d.pulses)
  let fresh := if t.inSup then [] else t.cap.freshLocks
  let t := { t.mergeFlags.flagsAtF with loose := t.loose || t.looseNext, looseNext := false, known := t.known ++ t.knownNext, knownNext := [] }
  let t := { t with cap := t.cap.applyMask.unmask now }
  let t := if t.inSup && d.frozen then t else { t with shadow := t.shadow.applyMask.unmask other }
  let t := if fresh.contains .ep then t.mapPipe .ep Pipe.empty_ else t
  let t := if fresh.contains .gn then t.mapPipe .gn Pipe.empty_ else t
  if d.frozen then t else { t with gn := t.gn.settle, mx := t.mx.settle d.dcc }

/-- A pure pre-emption has captured its context: its drain begins before a supervisor bundle could issue (spec/21 R382). A cancel has ended
a freeze: the domain clock runs again, from F (spec/15 R416). -/
def State.startDrain (s : State) (slot : Nat) : State :=
  let d := s.domain slot
  if d.frozen && d.use == .preempt && decide (d.frozenPulse + 4 ≤ d.pulses) then s.beginDrain slot false
  else if d.frozen && d.use == .cancel then s.beginDrain slot true else s

/-- The cycle of a domain begins. -/
def State.beginCycle (s : State) (slot : Nat) : State :=
  let s := (((s.applyWrites slot).applyExtensions slot).startDrain slot).noteOpen slot
  let d := s.domain slot
  s.mapDomainTiles slot fun t => t.beginCycle d

/-- Commands that reach their base die now, in the order of their tiles (spec/10 R214, spec/11 R233); one whose route crosses a die that is
away is held on its channel (spec/22 R394). -/
def State.acceptSteps (s : State) (slot : Nat) : List Todo :=
  let d := s.domain slot
  let due := d.commands.filter fun c => c.phase == .delivery && decide (c.acceptAt ≤ d.dcc) && !s.routeAway (siteDie c.site) (c.stack / 4)
  let key (c : Command) : Nat := s.flat slot c.site * 2 ^ 40 + c.id
  (sortBy (fun (a b : Command) => decide (key a < key b)) due).map fun c => todoAt slot c.site (.dmCommandAcceptance slot c.id)

def State.countersBegin (s : State) (slot : Nat) : State :=
  if s.unitRuns slot && (Table.find s.units slot).isSome then s.setUnit slot (s.unit slot).countersDue else s

def State.phaseAccept (s : State) : State :=
  let s := { s with pulsing := (s.domains.filter fun (p : Nat × Domain) => p.2.pulse s.tick).map Prod.fst, losers := [], taken := [] }
  let s := s.pulsing.foldl State.beginCycle s
  let s := unitSlotNumbers.foldl State.countersBegin s
  { s with phase := .land, agenda := s.flowing.flatMap s.acceptSteps }

/-! ### Phase land: results (spec/04 R69, spec/06 R129, spec/07 R158, spec/11 R218, R237) -/

/-- Timed commands that start now (spec/11 R235). -/
def State.startSteps (s : State) (slot : Nat) : List Todo :=
  let d := s.domain slot
  (d.commands.filter fun c => c.phase == .accepted && decide (c.startAt ≤ d.dcc)).map fun c =>
    todoAt slot c.site (.timedCommandStart slot c.id)

/-- Something of a captured copy of a socket lands by a clock. -/
def Captured.landsBy (c : Captured) (q : Sock) (now : Nat) : Bool :=
  ((c.pipe q).flight.any fun r => decide (r.due ≤ now)) || ((q == .la || q == .lb) && !(landingNow (c.ls q).local_ now).isEmpty)

/-- Results of a socket are due. -/
def State.landsIn (s : State) (slot site : Nat) (q : Sock) : Bool :=
  let t := s.tile site
  if Sock.captured q then
    t.cap.landsBy q (s.capClock slot t) || (s.shadowRuns slot t && t.shadow.landsBy q (s.shadowClock slot t)) ||
      ((q == .la || q == .lb) && !(s.remoteLandings slot site q true ++ s.remoteLandings slot site q false).isEmpty)
  else (t.flight q).any fun r => decide (r.due ≤ s.sockCycle slot site q)

/-- The sockets whose results may land: in the drain of a pre-emption, whose in-flight results stay (spec/21 R382), and at F only those that
the domain clock does not drive; in that of a cancel all (spec/15 R416). -/
def Domain.landing (d : Domain) : List Sock :=
  let always : List Sock := [.sy, .tm, .sh]
  let captured : List Sock := [.ia, .ib, .ag, .va, .vb, .vc, .sf, .la, .lb]
  if d.draining.any fun x => !x.cancel then always
  else if d.freezing then captured ++ always
  else captured ++ [.ep, .gn, .sv, .dm] ++ always

def State.landSteps (s : State) (slot : Nat) : List Todo :=
  let socks := (s.domain slot).landing
  (s.domainSites slot).flatMap fun k => (socks.filter (s.landsIn slot k)).map fun q => todoAt slot k (.resultLanding k q)

/-- Ring slots that become ready, and loose replies; in the drain of a pre-emption both stay with the context (spec/21 R382). -/
def State.flowLandSteps (s : State) (slot : Nat) : List Todo :=
  let d := s.domain slot
  (s.domainSites slot).flatMap fun k =>
    let t := s.tile k
    (if d.draining.any fun x => !x.cancel then [] else (t.mx.ready.takeWhile fun r => decide (r.due ≤ d.dcc)).map fun _ => todoAt slot k (.mxSlotReady k)) ++
      (if d.draining.isNone && t.dm.landable d.dcc then [todoAt slot k (.looseReplyLanding k)] else [])

/-- Items in the order of the flat numbers of their senders (spec/11 R220). -/
def State.meshOrder (s : State) (slot : Nat) (l : List MeshItem) : List MeshItem :=
  let key (i : MeshItem) : Nat := s.flat slot i.src * 2 ^ 40 + i.id
  sortBy (fun (a b : MeshItem) => decide (key a < key b)) l

def State.meshLandSteps (s : State) (slot : Nat) : List Todo :=
  let d := s.domain slot
  (s.meshOrder slot (d.mesh.filter fun i => i.payload.reg.isSome && i.hop == s.itemHops slot i + 1 && s.landCycle slot i == d.dcc)).map fun i =>
    todoAt slot i.dst (.meshItemLanding slot i.id)

def State.phaseLand (s : State) : State :=
  { s with
    phase := .perform
    agenda := s.flowing.flatMap s.startSteps ++ s.pulsing.flatMap s.landSteps ++ s.flowing.flatMap s.flowLandSteps ++
      s.flowing.flatMap s.meshLandSteps }

/-! ### Phase perform: accesses in their banks (spec/10 R199, R205, R213) -/

/-- Upkeep of a tile before its accesses: the micro-words of MX. -/
def Tile.beginPerform (t : Tile) (now : Nat) : Tile := { t with mx := t.mx.readWords now }

def State.beginPerform (s : State) (slot : Nat) : State :=
  let now := (s.domain slot).dcc
  (s.mapDomainTiles slot fun t => t.beginPerform now).settleBanks slot

/-- Local accesses and table writes of a tile; at F only stores, and those that meet nothing, and no word in error
(notes/assumptions/12.md): a load or
an atomic of that cycle is captured, so that it sees what the supervisor contexts write (spec/21 R379, R385). -/
def State.localSteps (s : State) (slot : Nat) : List Todo :=
  let strict := (s.domain slot).freezing
  let rs := if strict then s.requesters slot else []
  let alone (a : Access) : Bool :=
    let me := s.accessRequester slot a
    !a.op.isLoad && !a.op.isAmo && !(a.spans.any fun x => s.sramBad a.owner x.1 x.2) && !(rs.any fun r => r.owner == a.owner && r.key != me.key && r.meets me)
  (s.domainSites slot).flatMap fun k =>
    ((s.tableWritesDue slot k).map fun w => todoAt slot k (.tableWritePerform k w.id)) ++
      (((s.localDue slot k).filter fun a => !strict || alone a).map fun a => todoAt slot k (.accessPerform k a.id)) ++
      (if strict then [] else (s.blocksDue slot k).map fun b => todoAt slot k (.accessPerform k b.id))

def State.remoteSteps (s : State) (slot : Nat) : List Todo :=
  (s.remoteDue slot).map fun a => todoAt slot a.site (.accessPerform a.site a.id)

def State.depositSteps (s : State) (slot : Nat) : List Todo :=
  let d := s.domain slot
  (d.mesh.filter fun i => i.payload.reg.isNone && i.hop == s.itemHops slot i + 1 && s.landCycle slot i == d.dcc).map fun i =>
    todoAt slot i.src (.depositPerform slot i.id)

/-- Hops of the timed mesh and of the reach network. Of two items of the reach network that R220 does not separate, the order is that of
the accessing tile, then LA before LB, then the earlier access, for requests and replies (notes/assumptions/77.md). -/
def State.hopSteps (s : State) (slot : Nat) : List Todo :=
  let d := s.domain slot
  let mesh := s.meshOrder slot (d.mesh.filter fun i => decide (i.hop ≤ s.itemHops slot i) && s.hopCycle slot i (i.hop + 1) == d.dcc)
  let key (r : ReachItem) : Nat := (2 * s.flat slot r.access.site + if r.access.port = .la then 0 else 1) * 2 ^ 40 + r.id
  let reach := d.reach.filter fun r => !r.access.nothing && decide (r.hop < s.reachHops slot r) && s.reachCycle slot r (r.hop + 1) == d.dcc
  mesh.map (fun i => todoAt slot i.src (.meshLinkHop slot i.id)) ++
    (sortBy (fun (a b : ReachItem) => decide (key a < key b)) reach).map fun r => todoAt slot r.access.site (.reachNetworkHop slot r.id)

/-- The cycles in which sectors of a stack perform in this tick: the DCC of its time keeper, when that clock runs, and the tick itself
for windows given during a freeze (spec/12 R258). -/
def State.stackCycles (s : State) (stack : Nat) : List Nat :=
  match s.stackClock stack with
  | some k => freezeCycle s.tick :: (if s.flowing.contains k then [(s.domain k).dcc] else [])
  | none => []

/-- An untimed SRAM access takes a bank that nothing else uses in this cycle (spec/10 R197, R200). -/
def State.untimedReady (s : State) (c : Command) : Bool :=
  match c.need with
  | .line _ site off len => !s.bankTaken site off len
  | _ => false

/-- Lines and sectors of a command, but for sectors in windows given to untimed work. -/
def State.engineSteps (s : State) (slot : Nat) (c : Command) : List Todo :=
  let now := (s.domain slot).dcc
  let line (l : Nat) : Todo := todoAt slot c.site (.engineSramLinePerform slot c.id l)
  let sector (k : Nat) : Todo := todoAt slot c.site (.hbmSectorPerform slot c.id k)
  match c.phase with
  | .started => (c.linesAt now).map line ++ (c.sectorsAt now).map sector
  | .untimed => if s.untimedReady c then [line 0] else []
  | _ => []

/-- Sectors in windows given to untimed work: the clock of the stack counts them, whatever that of the domain that asked does. -/
def State.grantedSteps (s : State) : List Todo :=
  s.domains.flatMap fun p => p.2.commands.flatMap fun c =>
    match c.phase, c.need with
    | .untimed, .block b true =>
      ((s.stackCycles b.stack).flatMap c.grantedAt).map fun k => todoAt p.1 c.site (.hbmSectorPerform p.1 c.id k)
    | _, _ => []

/-- The commands of a domain in the order in which they have been accepted. -/
def Domain.byRank (d : Domain) : List Command := sortBy (fun (a b : Command) => decide (a.rank < b.rank)) d.commands

/-- Operand lines of MX and rows of EP. -/
def State.matrixSteps (s : State) (slot : Nat) : List Todo :=
  let now := (s.domain slot).dcc
  (s.domainSites slot).flatMap fun k =>
    let t := s.tile k
    ((lineKinds.filter fun i => (t.mx.line now i).isSome).map fun i => todoAt slot k (.mxLineFetch k i)) ++
      (match t.ep.writing now with | some (_, i) => [todoAt slot k (.epRowWrite k i)] | none => [])

/-- The tile and the identifier of the timed access that an action performs (spec/12 R248, R250). -/
def State.timedAccess (s : State) (x : Todo) : Option (Nat × Nat) :=
  let command (slot id : Nat) : Option (Nat × Nat) :=
    match (s.domain slot).command id with
    | some c => if c.phase = .started then some (c.site, id) else none
    | none => none
  match x.instr with
  | .accessPerform k id => some (k, id)
  | .mxLineFetch k i =>
    (((s.tile k).mx.line (s.domain x.slot).dcc i).bind fun p => (s.tile k).mx.routines[p.1]?).map fun r => (k, r.id)
  | .epRowWrite k _ => ((s.tile k).ep.writing (s.domain x.slot).dcc).map fun p => (k, p.1.id)
  | .depositPerform slot id => ((s.domain slot).mesh.find? fun i => i.id == id).map fun i => (i.src, i.cause)
  | .engineSramLinePerform slot id _ | .hbmSectorPerform slot id _ => command slot id
  | _ => none

/-- The latest issued timed access of each tile that performs in a cycle (spec/12 R250, R256). -/
def State.noteTimed (s : State) (l : List Todo) : State :=
  l.foldl (fun s x =>
    match s.timedAccess x with
    | some (k, id) => if (s.tile k).timedId < id then s.mapTile k fun t => { t with timedId := id } else s
    | none => s) s

def State.phasePerform (s : State) : State :=
  let s := s.flowing.foldl State.beginPerform s
  let s := (s.pulsing.filter fun k => (s.domain k).frozen).foldl State.settleBanks s
  let flow (k : Nat) : List Todo :=
    s.remoteSteps k ++ s.depositSteps k ++ s.hopSteps k ++ s.matrixSteps k ++ (s.domain k).byRank.flatMap (s.engineSteps k)
  let agenda := s.pulsing.flatMap s.localSteps ++ s.flowing.flatMap flow ++ s.grantedSteps
  { s.noteTimed agenda with phase := .freeze, agenda := agenda }

/-! ### Phase freeze: freezes, piers, starts -/

/-- After the accesses of a cycle: the copies of EP, with the code tables as the cycle's writes leave them (spec/05 R112), and the
beats of MX. -/
def State.endPerform (s : State) (slot : Nat) : State :=
  let now := (s.domain slot).dcc
  let s := s.mapDomainTiles slot fun t => t.copySlots now
  (s.domainSites slot).foldl (fun s k => s.endBeats slot k now) s

/-- The code-table reads of vector operations fired in the cycle before; those of F wait for the resumption (spec/05 R112, spec/21 R379). -/
def State.settleReads (s : State) (slot : Nat) : State :=
  s.mapDomainTiles slot fun t =>
    let cap := t.cap.settleReads t.tables (s.capClock slot t)
    { t with cap := cap, shadow := if s.shadowRuns slot t then t.shadow.settleReads t.tables (s.shadowClock slot t) else t.shadow }

/-- A freeze in force from this cycle: by a step's expiry, or by another plan. -/
def State.freezeSteps (s : State) (slot : Nat) : List Todo :=
  let d := s.domain slot
  if !d.freezing then []
  else if d.stepUntil = some d.dcc then [todo slot (.debugStepExpiry slot)] else [todo slot (.freeze slot)]

/-- 2^22 cycles of a timed domain of several dies without a realignment; a pier's latency realigns the dies itself and restarts the
interval (spec/01 R24, R25). -/
def Domain.mustRealign (d : Domain) : Bool :=
  decide (1 < d.spec.dies.length) && d.realignFrom + 2 ^ 22 == (d.dcc : Int) && d.pier.releaseAt.isNone && (match d.launch with | some l => l.started | none => false)

/-- Events of a domain at the beginning of issue. -/
def State.domainSteps (s : State) (slot : Nat) : List Todo :=
  let d := s.domain slot
  let when (b : Bool) (i : Instr) : List Todo := if b then [todo slot i] else []
  let beacon := when (d.spec.cls == .multi && d.spec.beaconMaster && d.dcc % 1024 == 0) (.timeBeacon slot d.beacon)
  if d.draining.isSome then when (match d.throttleNext with | some (x, _) => decide (x ≤ d.dcc) | none => false) (.throttleChange slot) ++ beacon
  else
    when (d.pier.releaseAt == some d.dcc) (.pierRelease slot) ++
    when (d.pier.watchdog != 0 && d.pier.releaseAt.isNone && d.pier.firstArrival.map (· + (d.pier.watchdog : Int)) == some (d.dcc : Int))
      (.pierWatchdogExpiry slot) ++
    when (match d.throttleNext with | some (x, _) => decide (x ≤ d.dcc) | none => false) (.throttleChange slot) ++
    when (match d.launch with | some l => !l.started && l.startAt == d.dcc && l.desc.isSome && !l.restoring | none => false) (.launchStart slot) ++
    when d.mustRealign (.forcedRealignment slot) ++
    beacon

/-- Halt-group halts that reach their tiles (spec/21 R386). -/
def State.groupSteps (s : State) (slot : Nat) : List Todo :=
  let d := s.domain slot
  let due (t : Tile) : Bool :=
    match t.haltAt with
    | some _ => false
    | none => match t.groupHaltAt with | x :: _ => decide (x ≤ d.pulses) | [] => false
  if d.frozen || d.freezing || d.draining.isSome then []
  else ((s.domainSites slot).filter fun k => due (s.tile k)).map fun k => todoAt slot k (.haltGroupHalt k)

/-- Tiles that a halt has reached in this cycle: they have issued their last bundle and enter (spec/20 R361, spec/21 R386). -/
def State.haltEntrySteps (s : State) (slot : Nat) : List Todo :=
  ((s.domainSites slot).filter fun k => (s.tile k).haltAt.isSome).map fun k => todoAt slot k (.haltGroupHalt k)

/-- Loads that land in the very cycle in which they perform (spec/21 R377, R378). -/
def State.lateLandSteps (s : State) (slot : Nat) : List Todo :=
  if (s.domain slot).freezing then []
  else (s.domainSites slot).flatMap fun k => (([Sock.la, .lb].filter fun q => (s.domain slot).landing.contains q && s.landsIn slot k q).map fun q =>
    todoAt slot k (.resultLanding k q))

def State.phaseFreeze (s : State) : State :=
  let s := s.flowing.foldl State.endPerform s
  let s := (s.pulsing.filter fun k => !(s.domain k).freezing).foldl State.settleReads s
  { s with
    phase := .issue
    agenda := s.pulsing.flatMap s.lateLandSteps ++ s.pulsing.flatMap s.freezeSteps ++ s.flowing.flatMap s.domainSteps ++ s.pulsing.flatMap s.groupSteps }

/-! ### Phases issue and fire (spec/02 R30, R38, spec/04 R70, R85, R91) -/

/-- Triggers that waited in a socket that is free-running again: they fire before the cycle's bundles (spec/04 R85). -/
def State.releasedSteps (s : State) (slot : Nat) : List Todo :=
  let socks := s.firingSocks slot
  (s.domainSites slot).flatMap fun k =>
    let t := s.tile k
    (socks.filter fun q => match t.waitingIn q with | some w => !t.lockedFor w.from_.sup q | none => false).map fun q => todoAt slot k (.dataLockedFire k q)

/-- What a tile issues in this cycle. -/
def State.issueStep (s : State) (slot site : Nat) : Option Todo :=
  let t := s.tile site
  if !s.canIssue slot site then none
  else if s.takesInterrupt site then some (todoAt slot site (.userInterruptTaken site))
  else if 0 < t.thread.idle then some (todoAt slot site (.idleRun site))
  else
    let b := s.nextBundle site
    some (todoAt slot site (if b.hold && t.loose then .holdWaitIssue site else if b.kind = 1 then .idleRun site else .bundleIssue site))

def State.phaseIssue (s : State) : State :=
  { s with
    phase := .fire
    agenda := s.pulsing.flatMap s.releasedSteps ++ s.pulsing.flatMap fun k => (s.domainSites k).filterMap (s.issueStep k) }

/-- Waiting triggers whose condition holds once the cycle's bundles have issued (spec/04 R70). -/
def State.fireSteps (s : State) (slot : Nat) : List Todo :=
  let socks := s.firingSocks slot
  (s.domainSites slot).flatMap fun k =>
    let t := s.tile k
    (socks.filter fun q => match t.waitingIn q with | some w => s.fires slot k q w | none => false).map fun q =>
      todoAt slot k (.dataLockedFire k q)

/-- Firing follows issue: a trigger that issues in the very cycle in which the condition of the waiting one comes true replaces it
(notes/assumptions/76.md). -/
def State.phaseFire (s : State) : State := { s with phase := .engines, agenda := s.pulsing.flatMap s.fireSteps }

/-! ### Phase engines: commands on their way, the catwalk (spec/01 R19, spec/10 R208, spec/11 R222, R227) -/

def State.engineUpkeep (s : State) (slot : Nat) : State :=
  let now := (s.domain slot).dcc
  let s := ((s.takeTables slot).departCommands slot).openBay slot
  (s.domainSites slot).foldl (fun s k => s.handRows slot k now) s

def State.messageAway (s : State) (m : Message) : Bool := !m.placed && s.routeAway (senderDie m.src) (siteDie m.dst)
def State.requestAway (s : State) (m : UnitMessage) : Bool := s.routeAway (siteDie m.site) (senderDie (1000000 + m.slot))

/-- One tick nearer: to being taken, to the arrival of the header, to the last line. -/
def Message.nearer (m : Message) : Message :=
  if !m.taken then { m with takeAt := m.takeAt - 1 }
  else if !m.placed then { m with arriveAt := m.arriveAt - 1 }
  else { m with writeAt := m.writeAt - 1 }

/-- A request comes nearer; one that takes no place in a send buffer is taken when its time has come. -/
def UnitMessage.nearer (m : UnitMessage) : UnitMessage :=
  if m.taken then { m with arriveAt := m.arriveAt - 1 }
  else { m with takeAt := m.takeAt - 1, taken := !m.buffered && decide (m.takeAt ≤ 1) }

/-- First messages of send buffers that the catwalk may take. -/
def State.releaseSteps (s : State) (slot : Nat) : List Todo :=
  ((s.domainSites slot).filter fun k => match (s.tile k).sv.sendBuffer with | i :: _ => s.takable i | [] => false).map fun k =>
    todoAt slot k (.sendBufferRelease k)

/-- The sender whose order a message keeps; the launch units count as one, since the replies to a tile keep one order (spec/15 R297). -/
def Message.sender (m : Message) : Nat := min m.src 1000000

/-- A message may reach its interface: messages of one source, destination and channel arrive in order, and a held one blocks its
queue (spec/11 R222, R227). -/
def State.mayArrive (s : State) (m : Message) : Bool :=
  let rivals := s.messages.filter fun o => o.dst == m.dst && o.channel == m.channel && !o.placed
  ((rivals.find? fun o => o.sender == m.sender).map (·.id)) == some m.id && (rivals.all fun o => !o.held || o.id == m.id)

def State.arrivalSteps (s : State) : List Todo :=
  s.messages.filterMap fun m =>
    if m.placed then (if m.writeAt = 0 then some (todo 0 (.catwalkMessageArrival m.id)) else none)
    else if m.taken && m.arriveAt == 0 && !s.messageAway m && s.mayArrive m then
      some (todo 0 (if m.isInstall && (s.die (siteDie m.dst)).booting then .installMessage m.id else .catwalkMessageArrival m.id))
    else none

/-- Stacks in which a command of a domain that is not frozen waits for a window. -/
def State.wantedStacks (s : State) : List Nat :=
  ((s.domains.filter fun p => !p.2.frozen).flatMap fun p => p.2.commands.filterMap fun c =>
    match c.need with | .block b false => if c.phase = .untimed then some b.stack else none | _ => none).eraseDups

def State.windowSteps (s : State) : List Todo :=
  s.wantedStacks.filterMap fun k =>
    match s.stackClock k with
    | some slot =>
      if (s.running.contains slot || (s.domain slot).frozen) && s.windowCycle slot % 4 == 0 then some (todo slot (.windowAllocation slot k))
      else none
    | none => none

def State.copySteps (s : State) (slot : Nat) : List Todo :=
  let d := s.domain slot
  d.commands.filterMap fun c =>
    match c.need with
    | .ending x => if c.form = .ucopy ∧ x ≤ d.dcc then some (todoAt slot c.site (.ucopyCompletion c.site (c.work.headD 0))) else none
    | _ => none

/-- Frames and copies to other endpoints whose slot begins, retries in a slack slot, frames of collectives that are complete
(spec/13 R262, R264, R269, R270). -/
def State.fabricSteps (s : State) (slot : Nat) : List Todo :=
  let d := s.domain slot
  let sends := (List.range 16).filter fun p => !(d.framesDue p).isEmpty || (s.copyFrameDue slot p).isSome || (s.resendTime slot && !(s.port p).resends.isEmpty)
  let sends := sends.map fun p => todo slot (.fabricFrameSend slot p)
  if d.spec.cls != .multi then sends
  else
    let slack : Bool := match s.slotNow slot with | some k => slackSlot k | none => false
    let retries := if slack then s.ports.filter fun (p : Nat × Port) => !p.2.retries.isEmpty && !p.2.serving else []
    let ready := s.collectives.filter fun x => !(x.2.ready d.spec.rank d.spec.modules).isEmpty
    sends ++ retries.map (fun (p : Nat × Port) => todo slot (.frameRetry slot p.1 .receive)) ++
      ready.map fun x => todo slot (.collectiveCombine slot x.1)

def State.phaseEngines (s : State) : State :=
  let s := s.settleStores
  let s := s.running.foldl State.engineUpkeep s
  let s := { s with messages := s.messages.map fun m => if s.messageAway m then m else m.nearer,
                    requests := s.requests.map fun m => if s.requestAway m then m else m.nearer }
  { s with
    phase := .cancels
    agenda := s.running.flatMap s.haltEntrySteps ++ s.running.flatMap s.releaseSteps ++ s.arrivalSteps ++ s.windowSteps ++ s.running.flatMap s.copySteps ++
      s.running.flatMap s.fabricSteps }

/-! ### The launch units, in the order of R286 -/

/-- Requests on VC0 that have arrived. -/
def State.urgentHeads (s : State) (slot : Nat) : List UnitMessage := s.requests.filter fun m => m.slot == slot && m.urgent && m.arrived

/-- Cancels of a slot with their handles. -/
def State.cancelRequests (s : State) (slot : Nat) : List (Word × Instr) :=
  if !s.unitAwake slot then []
  else (s.unitHeads slot ++ s.urgentHeads slot).filterMap fun m =>
    match m.request with
    | .cancel h => some (h, .cancel slot h (some m.site))
    | _ => none

/-- Stops and debug requests of a slot (spec/21 R380). -/
def State.stopRequests (s : State) (slot : Nat) : List Instr :=
  if !s.unitAwake slot then []
  else (s.unitHeads slot ++ s.urgentHeads slot).filterMap fun m =>
    match m.request with
    | .stop k => some (if k = 0 then .stopForInspection slot (some m.site) else .preemptStop slot (some m.site))
    | .dbg op n =>
      some (match op with
        | 0 => .debugHalt slot (some m.site)
        | 1 => .debugStep slot n (some m.site)
        | _ => .debugRelease slot (some m.site))
    | _ => none

/-- Counters that propagate in this cycle. -/
def LaunchUnit.propagations (u : LaunchUnit) (slot : Nat) : List Todo :=
  (u.zeroedNow.map (·.1) ++ u.decrementsNow.map (·.1)).map fun h => todo slot (.counterZeroPropagation slot h)

/-- An input that a launch unit takes now. -/
def State.unitTakes (s : State) (i : Instr) : Bool :=
  match i with
  | .hostCancelPortWrite slot _ => s.unitAwake slot
  | .hostFirePortWrite slot _ | .armingEntryWrite slot _ _ _ _ => s.unitRuns slot
  | _ => false

def State.phaseCancels (s : State) : State :=
  let (host, s) := s.takeInputs fun i => match i with | .hostCancelPortWrite _ _ => s.unitTakes i | _ => false
  let word (i : Instr) : Word := match i with | .hostCancelPortWrite _ w => w | _ => 0
  let cancels := unitSlotNumbers.flatMap s.cancelRequests ++ host.map fun i => (word i, i)
  let sorted := sortBy (fun (a b : Word × Instr) => decide (a.1.toNat < b.1.toNat)) cancels
  { s with
    phase := .counters
    agenda := sorted.map (fun x => todo (handleSlot x.1) x.2) ++
      unitSlotNumbers.flatMap (fun k => (s.stopRequests k).map (todo k)) ++
      s.units.flatMap fun p => p.2.propagations p.1 }

/-- Ends of launches and drains (spec/15 R294, R295, spec/21 R382). -/
def State.endSteps (s : State) (slot : Nat) : List Todo :=
  match (s.domain slot).draining with
  | some x =>
    if x.cancel then (if x.overBy (s.domain slot).dcc then [todo slot (.cancelDrainComplete slot)] else [])
    else match x.saveEnd with
      | some e => if e ≤ (s.domain slot).dcc && !s.openKnown slot then [todo slot (.saveComplete slot)] else []
      | none => if s.openContext slot then [] else [todo slot (.preemptionDrainEnd slot)]
  | none => if s.launchOver slot then [todo slot (.launchCompletion slot)] else []

def State.phaseCounters (s : State) : State :=
  let s := s.running.foldl State.countTasks s
  { s with
    phase := .fires
    agenda := s.running.flatMap s.endSteps ++
      s.running.flatMap fun k => (s.messagesDone k).map fun t => todo k (.launchMessageComplete k t) }

/-- Fires of a slot with their keys: tag, then source. -/
def State.fireRequests (s : State) (slot : Nat) : List (Nat × Todo) :=
  if !s.unitRuns slot then []
  else
    let key (tag : Nat) (x : FireSource) : Nat := 4 * tag + x.rank
    ((s.unit slot).fires.map fun f => (key f.1 f.2, todo slot (.launchFire slot f.1 f.2))) ++
      (s.unitHeads slot).filterMap fun m =>
        match m.request with
        | .fire tag user a =>
          let x : FireSource := .svFire m.site user a
          some (key tag x, todoAt slot m.site (.launchFire slot tag x))
        | _ => none

def State.phaseFires (s : State) : State :=
  let (host, s) := s.takeInputs fun i => match i with | .hostFirePortWrite _ _ => s.unitTakes i | _ => false
  let ports : List (Nat × Todo) := host.map fun i =>
    match i with
    | .hostFirePortWrite slot w => (4 * wbits w 7 0 + 2, todo slot i)
    | _ => (0, todo 0 i)
  let all := unitSlotNumbers.flatMap s.fireRequests ++ ports
  { s with phase := .writes, agenda := (sortBy (fun (a b : Nat × Todo) => decide (a.1 < b.1)) all).map (·.2) }

/-- Arming, counter requests and the desk. -/
def State.writeRequests (s : State) (slot : Nat) : List Todo :=
  if !s.unitRuns slot then []
  else
    ((s.unitHeads slot).filterMap fun m =>
      match m.request with
      | .arm tag image => some (todoAt slot m.site (.entryArm slot tag image (some m.site)))
      | .cnt h => some (todoAt slot m.site (.counterReadRequest slot h m.site))
      | .cntw h w => some (todoAt slot m.site (.counterWriteRequest slot h w m.site))
      | _ => none) ++
    ((s.unitHeads slot).filterMap fun m => match m.request with | .desk _ => some (todo slot (.deskStep slot)) | _ => none)

def State.phaseWrites (s : State) : State :=
  let (host, s) := s.takeInputs fun i => match i with | .armingEntryWrite _ _ _ _ _ => s.unitTakes i | _ => false
  { s with phase := .select, agenda := host.map (todo 0) ++ unitSlotNumbers.flatMap s.writeRequests }

/-- Pre-emption by priority, selection, and the second cycle of a start (spec/15 R287, R288, R292). -/
def State.selectSteps (s : State) (slot : Nat) : List Todo :=
  let d := s.domain slot
  let reads : Bool := match d.launch with | some l => l.desc.isNone && l.selectedAt + 1 == d.dcc | none => false
  (if s.preempts slot then [todo slot (.preemption slot)] else []) ++
    (if reads || (d.launch.isNone && s.maySelect slot && (s.unit slot).best.isSome) then [todo slot (.launchSelection slot)] else [])

/-- SPDM requests are answered last: a report includes the extensions that take effect in its cycle (spec/17 R331). -/
def State.phaseSelect (s : State) : State :=
  let (asked, s) := s.takeInputs Instr.isSpdm
  { s with phase := .finish, agenda := s.running.flatMap s.selectSteps ++ asked.map (todo 0) }

/-! ### Phase finish: the cycle ends -/

/-- A drain ends in the cycle in which its last access performs (spec/15 R295, spec/21 R384). -/
def State.noteDrain (s : State) (slot : Nat) : State :=
  let d := s.domain slot
  match d.draining with
  | some x => if x.doneAt.isSome || s.openContext slot then s else s.setDomain slot { d with draining := some { x with doneAt := some d.dcc } }
  | none => s

/-- A cycle that a DCC counts ends. -/
def State.endCycle (s : State) (slot : Nat) : State :=
  let now := (s.domain slot).dcc
  let s := (s.sweepMesh slot).noteDrain slot
  let s := s.mapDomainTiles slot fun t => { t with ep := t.ep.sweep now }
  let s := (s.domainSites slot).foldl (fun s k => s.pruneHolds k) s
  s.mapDomain slot fun d => { d.sweepCommands with dcc := d.dcc + 1 }

def State.endPulse (s : State) (slot : Nat) : State := s.mapDomain slot fun d => { d with pulses := d.pulses + 1 }

/-- A cycle of the reference clock ends on every die: one archive entry at most is written (spec/22 R387, R389). -/
def State.endReference (s : State) : State :=
  (List.range 8).foldl (fun s k => s.setDie k { s.die k with refCycles := (s.die k).refCycles + 1, away := (s.die k).away - 1 }) s

def State.phaseFinish (s : State) : State :=
  let s := s.running.foldl State.endCycle s
  let s := s.pulsing.foldl State.endPulse s
  let edge := referenceEdge (s.tick + 1)
  let back := if edge then (List.range 8).filter fun k => (s.die k).away == 1 else []
  let s := if edge then s.endReference else s
  let writers := if edge then (List.range 8).filter fun k => !(s.die k).queue.isEmpty else []
  { s with phase := .start, tick := s.tick + 1, pulsing := [], agenda := writers.map (fun k => todo 0 (.archiveEntryWrite k)) ++ back.flatMap dieReturns }

/-- The next phase of the tick, with the steps that fall in it. -/
def State.advance (s : State) : State :=
  match s.phase with
  | .start => s.phaseStart
  | .accept => s.phaseAccept
  | .land => s.phaseLand
  | .perform => s.phasePerform
  | .freeze => s.phaseFreeze
  | .issue => s.phaseIssue
  | .fire => s.phaseFire
  | .engines => s.phaseEngines
  | .cancels => s.phaseCancels
  | .counters => s.phaseCounters
  | .fires => s.phaseFires
  | .writes => s.phaseWrites
  | .select => s.phaseSelect
  | .finish => s.phaseFinish

end Sys2Proof.Machine
end

