-- ==== Sys2Proof/Machine/Step.lean ====
section
/-!
DEFINITION. One step of the module: the portable machine's next word, or the next step due in the present cycle, or, when none
is left, the next phase of the cycle.
-/
namespace Sys2Proof.Machine

/-- One step. -/
def step (s : State) : Host.Outcome State Fault Refusal :=
  if s.portable.running then
    match decodeBytes s.portableFetch with
    | some (i, _) => exec i s.portableBegin
    | none => .refused (.unassignedPortableWord (wordOfBytes s.portableFetch))
  else
    match s.agenda with
    | [] => .next s.advance
    | t :: rest => exec t.instr (s.focusOn t rest)

/-- The state with an instruction's word where `step` fetches next: a 32-bit portable word in the portable code, or a 40-bit
move slot as the next step due (notes/assumptions/4.md). -/
def State.withFetchWord (s : State) (nbits w : Nat) : State :=
  if nbits = 40 then s.placeSlot (BitVec.ofNat 40 w) else s.placePortable (portableBytes (BitVec.ofNat 32 w))

end Sys2Proof.Machine
end

