-- ==== Sys2Proof/Safety.lean ====
section
/-!
DEFINITION. What claims are stated in: a step that goes on, runs of steps, the invariants of the machine's state, what two states
have in common, and when the trigger of the move being issued fires.
-/
namespace Sys2Proof

/-- The scalar register that a portable instruction writes, of those that write nothing else (spec/18 R336, R337). -/
def scalarDest : Instr → Option (BitVec 4)
  | .rosnilAdd d _ _ | .rosnilSub d _ _ | .rosnilAnd d _ _ | .rosnilOr d _ _ | .rosnilXor d _ _ | .rosnilShl d _ _ | .rosnilShr d _ _
  | .rosnilSra d _ _ | .rosnilMul d _ _ | .rosnilSlt d _ _ | .rosnilSltu d _ _ | .rosnilAddi d _ _ | .rosnilLi d _ | .rosnilLio d _ _
  | .rosnilGvl d | .rosnilVmovs d _ => some d
  | _ => none

/-- The vector register that a portable arithmetic instruction writes (spec/18 R337). -/
def vectorDest : Instr → Option (BitVec 4)
  | .rosnilVfadd d _ _ _ | .rosnilVfsub d _ _ _ | .rosnilVfmul d _ _ _ | .rosnilVfma d _ _ _ | .rosnilVfmax d _ _ _
  | .rosnilVfmin d _ _ _ | .rosnilVrsum d _ _ | .rosnilVbcast d _ => some d
  | .rosnilVwid d _ _ _ src => if src.toNat < 2 then some d else none
  | _ => none

/-- The instruction is started by a trigger of some socket (spec/02 R43 to R47). -/
def Instr.isTrigger (i : Instr) : Prop := ∃ q sel, triggerInstr q sel = some i

end Sys2Proof

namespace Sys2Proof.Machine

/-- The state a step answers, if it goes on. -/
def Result.state? : Result → Option State
  | .next s => some s
  | .fault _ => none
  | .refused _ => none

/-- States reached from `s` by steps that go on. -/
inductive Reaches : State → State → Prop where
  | refl (s : State) : Reaches s s
  | step {s t u : State} : Reaches s t → Sys2Proof.Machine.step t = .next u → Reaches s u

/-- Memory is in its canonical form. -/
def State.memoryCanonical (s : State) : Prop := Memory.wf s.mem = true

/-! ### What two states have in common -/

/-- No byte of memory differs. -/
def State.sameBytes (s t : State) : Prop := ∀ a, t.byte a = s.byte a

/-- No byte of memory outside n bytes from an address on differs. -/
def State.sameBytesOutside (s t : State) (lo n : Nat) : Prop := ∀ a, a < lo ∨ lo + n ≤ a → t.byte a = s.byte a

/-- The register files, the flags, the landing registers, the code tables, the launch values and the record of two tiles agree. -/
def Tile.sameRegisters (x y : Tile) : Prop :=
  y.s = x.s ∧ y.v = x.v ∧ y.p = x.p ∧ y.m = x.m ∧ y.z = x.z ∧ y.id = x.id ∧ y.ns.ln = x.ns.ln ∧ y.tables = x.tables ∧ y.record = x.record

/-- No register of any tile differs. -/
def State.sameRegisters (s t : State) : Prop := ∀ site, (s.tile site).sameRegisters (t.tile site)

/-- Only the tile of one site may differ: memory, every other tile, every domain and everything else agree. -/
def State.onlyTile (s t : State) (site : Nat) : Prop := ∃ x, t = s.setTile site x

/-! ### Triggers -/

/-- The trigger of the move being issued fires in this step: its guard is true (spec/02 R33), its context may issue it (spec/21 R374,
spec/23 R403), and its socket is free-running (spec/04 R70). -/
def State.firing (s : State) (own : List Sock) : Prop :=
  s.cur.pre.guard s.curSlot.guard = true ∧
  s.forbidden (s.trigOf own).slot (s.trigOf own).site (s.trigOf own).sock (s.trigOf own).sel = false ∧
  s.cur.pre.locked (s.trigOf own).sock = false

/-- An instruction completes by landing results: it goes on to a state whose only change is that the tile's socket has begun the
interval up to a cycle and carries one more result in flight. -/
def State.lands (s : State) (i : Instr) (site : Nat) (q : Sock) (readyAt : Nat) (r : InFlight) : Prop :=
  exec i s = .next (s.mapTile site fun t => t.firePipe q readyAt r)

/-! ### Vector operations -/

/-- The flags of a result are those that some enabled lane sets, and no other (spec/06 R130, R133). -/
def VecResult.flagsOf (r : VecResult) (msk : Word) (f : Nat → Flags) : Prop :=
  ∀ k, r.flags.getLsbD k = true ↔ ∃ n < 64, msk.getLsbD n = true ∧ (f n).getLsbD k = true

/-- A vector trigger completes with a result that has a property (spec/06 R128, R129; what a code table gives in it is read anew at c + 1,
spec/05 R112): with a format word that is bad, or holds a code
its operation does not accept, the bundle is illegal with reason 0x0E; else the result lands at c + L, the format word is consumed, the socket is ready
at c + 1, and nothing else changes. -/
def State.vecDone (s : State) (i : Instr) (op : VecOp) (L : Nat) (p : VecFmt → VecResult → Prop) : Prop :=
  let g := s.trigOf [.va, .vb, .vc]
  let x := (s.tile g.site).cap.vec g.sock
  (vecFormats op x.fmt x.tbl = none →
    exec i s = .next (g.fault s 0x100E (BitVec.ofNat 64 (0x0E * 2 ^ 24 + 2 ^ g.from_.slot % 2 ^ 24)) 0)) ∧
  ∀ f, vecFormats op x.fmt x.tbl = some f → ∃ r, p f r ∧ exec i s = .next (s.mapTile g.site fun t =>
    { t with cap := t.cap.setVec g.sock { t.cap.vec g.sock with fmt := none } }.firePipe g.sock (g.cyc + 1)
      ⟨g.cyc + L, some (.v r.q0), r.q1, r.flags, false, if f.usesTable then some (g.tableRead op x (s.tile g.site).gn) else none⟩)

/-! ### Loose commands -/

/-- A loose command of a tile has ended (spec/11 R237): it is no more, its awaited reply is done with these contents, and no register, no other
tile and no other reply differs. -/
def State.repliesLoose (s t : State) (slot : Nat) (c : Command) (q0 : Option Word) (pred : Option (Nat × Bool)) : Prop :=
  let replies (u : State) : List LooseReply := (u.tile c.site).dm.replies
  s.sameRegisters t ∧ (∀ k, k ≠ c.site → t.tile k = s.tile k) ∧ (t.domain slot).command c.id = none ∧
  (replies t).map (·.id) = (replies s).map (·.id) ∧
  ∀ r ∈ replies t, (r.id = c.id → r.done = true ∧ r.q0 = q0 ∧ r.pred = pred) ∧ (r.id ≠ c.id → r ∈ replies s)

/-! ### Products -/

/-- An element of the operand line at a pointer, as a product reads it (spec/07 R149, R150). -/
def State.lineValue (s : State) (slot site : Nat) (p : Word) (f : Fmt) (tab : CodeTable) (e : Nat) : Val :=
  match s.resolve slot site [1, 2] p with
  | .sram owner off => readF19 (lineElem f tab (s.readNat (sramAddr owner (off + e * f.bytes)) f.bytes))
  | .bad _ => readF19 0

/-- Element (i, j) of a product of depth K of the lines from pA and pB on, from an accumulator on: group by group, in the order of K, elements
beyond K counting as +0 (spec/07 R153). -/
def State.productElem (s : State) (slot site : Nat) (pA pB : Word) (strideA strideB : Int) (f1 f2 : Fmt) (tab : CodeTable) (K : Nat) (acc : Lane)
    (i j : Nat) : Lane :=
  let value (p : Word) (stride : Int) (f : Fmt) (e q : Nat) : Val :=
    if q < K then s.lineValue slot site (ptrAdd p (q * stride)) f tab e else readF19 0
  (List.range ((K + 31) / 32)).foldl (init := acc) fun acc g =>
    (accumulate acc (groupSum ((List.range 32).map fun t => value pA strideA f1 i (32 * g + t))
      ((List.range 32).map fun t => value pB strideB f2 j (32 * g + t))).1 none).1

/-! ### Replies of launch units -/

/-- From s, in which a request has left the list of those under way, a launch unit or its desk replies to a tile (spec/15 R297): the
reply departs at once where the tile is owed nothing that this one answers, or where its earliest owed reply is this one; it waits for
an earlier one that is still to be made. -/
def State.repliesTo (s t : State) (slot site : Nat) (desk : Bool) (label : BitVec 32) (flit : Word) : Prop :=
  let answers (o : OwedReply) : Prop :=
    o.site = site ∧ o.slot = slot ∧ o.desk = desk ∧ o.reply = none ∧ (desk = true ∨ ∀ m ∈ s.requests, m.id ≠ o.id)
  let mine := s.owed.filter fun o => o.site = site
  let reply (r : Message) : Prop := r.dst = site ∧ r.channel = 3 ∧ r.flits = [flit] ∧ r.header = unitHeader label
  ((∀ o ∈ mine, ¬answers o) → ∃ r, t.messages = s.messages ++ [r] ∧ reply r) ∧
  (∀ o rest, mine = o :: rest → answers o → ∃ r more, t.messages = s.messages ++ r :: more ∧ reply r) ∧
  ∀ o rest, mine = o :: rest → o.reply = none → ¬answers o → (∃ x ∈ rest, answers x) → t.messages = s.messages

end Sys2Proof.Machine
end

