-- ==== Sys2Proof/Certificates/Slice0/Obligations.lean ====
section
/-!
DEFINITION. The statements for the provers.
-/
open Sys2Proof Sys2Proof.Machine

/-! ### Encodings -/

/-- Words written out in the manual's encodings decode to what they stand for: moves and triggers (spec/02 R32, R39, R43 to R47) and portable
instructions (spec/18 R334, R336, R337); unassigned ones decode to nothing. -/
def Obligations.SpecWordsDecode : Prop :=
  decodeTableWord 40 0x80001C5000 = some .iaAdd ∧ decodeTableWord 40 0x800001D000 = some .mxMm ∧
  decodeTableWord 40 0x4602091000 = some .vaFadd ∧ decodeTableWord 40 0x1412027000 = some .dmCopy ∧
  decodeTableWord 40 0x80900E5080 = some .svCancel ∧ decodeTableWord 40 0x8007D2B0C0 = some .syWdog ∧
  decodeTableWord 40 0x80001EF000 = some .shRd ∧ decodeTableWord 40 0x8002021030 = some .gnDraw ∧
  decodeTableWord 40 0x80004C30C0 = some .ctFence ∧ decodeTableWord 40 0x3C00011292 = some .vaCvt ∧
  decodeTableWord 40 0x2000023022 = some .nsSendv ∧ decodeTableWord 40 0x3000025010 = some .svMcast ∧
  decodeSlot 0x1408004000#40 = ⟨.port 5 0 4 0, 2, 0, 0, ⟨false, 0⟩⟩ ∧
  decodeSlot 0x080000A060#40 = ⟨.port 2 0 0 0, 5, 0, 6, ⟨false, 0⟩⟩ ∧
  decodeTableWord 32 0x78C49000 = some (.rosnilVfma 3 1 2 1) ∧
  decodeTableWord 32 0x00000000 = none ∧ decodeTableWord 40 0x0000000000 = none

/-- Decoding the word of any portable instruction, laid out as stored, gives the instruction back with every operand at every value, and leaves the
bytes that follow. A portable word that decodes is the only word of its instruction: every bit the format does not name is zero (spec/18 R334). -/
def Obligations.PortableDecodeEncode : Prop :=
  (∀ (i : Instr) (w : BitVec 32) (rest : List Byte), encodePortable i = some w →
    decodeBytes (portableBytes w ++ rest) = some (i, rest) ∧ decodeTableWord 32 w.toNat = some i) ∧
  ∀ (w : BitVec 32) (i : Instr), decodePortable w = some i → encodePortable i = some w

/-- Slots and their fields correspond one to one: source, destination, guard (spec/02 R32). A slot that names a socket's trigger port and an assigned
selector decodes to that operation, whatever its legal source and its guard; and the encoder's slot of a trigger instruction decodes to it. -/
def Obligations.SlotsDecodeEncode : Prop :=
  ((∀ x : Slot, decodeSlot (encodeSlot x) = x) ∧ ∀ y : BitVec 40, encodeSlot (decodeSlot y) = y) ∧
  (∀ (q : Sock) (sel : BitVec 7) (src : Source) (g : Guard) (i : Instr), sourceLegal src = true →
    triggerInstr q sel.toNat = some i → decode (.move (encodeSlot ⟨src, BitVec.ofNat 5 q.num, 2, sel, g⟩)) = some i) ∧
  ∀ (i : Instr) (x : Slot), encodeTrigger i = some x → decode (.move (encodeSlot x)) = some i

/-! ### The step -/

/-- A portable step runs the instruction that the four bytes at the instruction pointer decode to, with the pointer moved past them; a word that no
rule assigns is refused. A step of the module runs the first step due, focused on its tile and slot; with none due the cycle's next phase begins. -/
def Obligations.StepRunsDecoded : Prop :=
  (∀ s : State, s.portable.running = true →
    (∀ (i : Instr) (rest : List Byte), decodeBytes (s.readBytes s.portable.ip 4) = some (i, rest) →
      step s = exec i { s with portable := { s.portable with cur := s.portable.ip, ip := s.portable.ip + 4 } }) ∧
    (decodeBytes (s.readBytes s.portable.ip 4) = none →
      step s = .refused (.unassignedPortableWord (BitVec.ofNat 32 (leNat (s.readBytes s.portable.ip 4)))))) ∧
  ∀ s : State, s.portable.running = false →
    (∀ (t : Todo) (rest : List Todo), s.agenda = t :: rest →
      step s = exec t.instr { s with agenda := rest, cur := { s.cur with site := t.site, slot := t.slot, from_ := t.from_ } }) ∧
    (s.agenda = [] → ∃ t, step s = .next t ∧ t = s.advance)

/-- An instruction's word placed for fetching is what the next step runs: a portable word at the instruction pointer, a move as the step due. -/
def Obligations.PlacedWordRuns : Prop :=
  ∀ s : State, s.memoryCanonical →
    (∀ (w : BitVec 32) (i : Instr), decodePortable w = some i →
      step (s.withFetchWord 32 w.toNat) = exec i (s.withFetchWord 32 w.toNat).portableBegin) ∧
    ∀ (x : BitVec 40) (i : Instr), decode (.move x) = some i →
      ∃ s' : State, step (s.withFetchWord 40 x.toNat) = exec i s' ∧ s'.curSlot = decodeSlot x ∧ s'.cur.site = s.cur.site ∧
        s'.cur.slot = s.cur.slot ∧ s'.mem = s.mem ∧ s'.tiles = s.tiles ∧ s'.domains = s.domains

/-- No instruction stops: whatever the state, every instruction answers a next state; what that state is the other statements say. -/
def Obligations.EveryInstructionAnswers : Prop :=
  ∀ (i : Instr) (s : State), ∃ t, exec i s = .next t

/-! ### Memory and reset -/

/-- A written byte reads back, every other byte reads as before, the canonical form is kept, and canonical memories that read alike are equal. -/
def Obligations.MemoryReadAfterWrite : Prop :=
  (∀ (m : List Host.Cell) (a : Nat) (b : Byte), Memory.wf m = true →
    Memory.wf (Memory.write m a b) = true ∧ ∀ c, Memory.read (Memory.write m a b) c = if c = a then b else Memory.read m c) ∧
  ∀ m n : List Host.Cell, Memory.wf m = true → Memory.wf n = true → (∀ a, Memory.read m a = Memory.read n a) → m = n

/-- Memory is little-endian (spec/01 R5): byte k of a written word holds its bits [8k+7:8k], the word reads back, and nothing outside its eight bytes
changes. -/
def Obligations.LittleEndianWords : Prop :=
  ∀ (s : State) (a : Nat) (w : Word), s.memoryCanonical →
    (s.write64 a w).read64 a = w ∧ (∀ k < 8, (s.write64 a w).byte (a + k) = w.extractLsb' (8 * k) 8) ∧
    s.sameBytesOutside (s.write64 a w) a 8

/-- No step of the machine leaves memory outside its canonical form. -/
def Obligations.MemoryCanonicalKept : Prop :=
  ∀ s t : State, s.memoryCanonical → step s = .next t → t.memoryCanonical

/-- What reset leaves (spec/04 R85, R96, spec/05 R110, spec/07 R160, R166, spec/17 R324, spec/22 R394): memory in its canonical form with no domain
formed; on every tile the register files zero with p0 read as 1 and m0 as all ones, the masks of VA, LA and LB all ones, EP's scale 1.0, the mode mask
and the flags clear, both ring counters 0, NS's counter 1, the code tables at their reset contents; the message limits, beat bound and profile of
R324. The zeros of the register files are the values of notes/assumptions/3.md where the manual names none. -/
def Obligations.ResetState : Prop :=
  State.reset.memoryCanonical ∧ State.reset.domains = [] ∧ State.reset.tick = 0 ∧
  (∀ site, let t := State.reset.tile site
    (∀ k < 64, t.s.getD k 1 = 0) ∧ (∀ k < 32, t.v.getD k (Vec.fill 1) = Vec.zero) ∧ t.pred 0 = true ∧ t.mask 0 = BitVec.allOnes 64 ∧
    (∀ k < 8, k ≠ 0 → t.pred k = false) ∧ t.cap.va.msk = BitVec.allOnes 64 ∧ t.cap.la.msk = BitVec.allOnes 64 ∧
    t.cap.lb.msk = BitVec.allOnes 64 ∧ t.ep.scl = Vec.fill 0x3F800000#32 ∧ t.cap.ct.mmask = 0 ∧ t.id.fflags = 0 ∧
    t.mx.head = 0 ∧ t.mx.tail = 0 ∧ t.ns.counter = 1 ∧ t.tables = Vector.ofFn fun k => resetCodeTable k.val) ∧
  ∀ slot, (State.reset.unit slot).limits = 0x101010 ∧ (State.reset.unit slot).maxBeats = 16384 ∧ (State.reset.unit slot).profile = 1

/-! ### The portable machine -/

/-- The scalar instructions of the portable machine (spec/18 R336, R337): each completes with gd at the stated value and nothing else changed (`putG`
and its frame are PortableRegisterFrame's). -/
def Obligations.PortableScalarResults : Prop :=
  ∀ (s : State) (d a b : BitVec 4) (i : BitVec 18),
    let x := s.portable.gr a
    let y := s.portable.gr b
    let n := y.toNat % 64
    exec (.rosnilAdd d a b) s = .next (s.putG d (x + y)) ∧ exec (.rosnilSub d a b) s = .next (s.putG d (x - y)) ∧
    exec (.rosnilAnd d a b) s = .next (s.putG d (x &&& y)) ∧ exec (.rosnilOr d a b) s = .next (s.putG d (x ||| y)) ∧
    exec (.rosnilXor d a b) s = .next (s.putG d (x ^^^ y)) ∧ exec (.rosnilShl d a b) s = .next (s.putG d (x <<< n)) ∧
    exec (.rosnilShr d a b) s = .next (s.putG d (x >>> n)) ∧ exec (.rosnilSra d a b) s = .next (s.putG d (x.sshiftRight n)) ∧
    exec (.rosnilMul d a b) s = .next (s.putG d (x * y)) ∧
    exec (.rosnilSlt d a b) s = .next (s.putG d (if x.toInt < y.toInt then 1 else 0)) ∧
    exec (.rosnilSltu d a b) s = .next (s.putG d (if x.toNat < y.toNat then 1 else 0)) ∧
    exec (.rosnilAddi d a i) s = .next (s.putG d (x + i.signExtend 64)) ∧ exec (.rosnilLi d i) s = .next (s.putG d (i.signExtend 64)) ∧
    exec (.rosnilLio d a i) s = .next (s.putG d (x <<< 18 ||| i.setWidth 64)) ∧ exec (.rosnilGvl d) s = .next (s.putG d 64) ∧
    exec (.rosnilVmovs d b) s = .next (s.putG d (((s.portable.wr b).lane 0).setWidth 64))

/-- The frame of the portable register instructions: one that writes gd changes no other register, no byte of memory, no tile and no domain; one that
writes wd, vwid of a format it accepts among them, changes no other register and no byte of memory, and of the tiles only the flags of its own, which
no flag leaves; vwhile changes its mask and nothing else, and k0 reads all ones whatever is written (spec/18 R333, R336, R337). -/
def Obligations.PortableRegisterFrame : Prop :=
  (∀ (i : Instr) (d : BitVec 4) (s t : State), scalarDest i = some d → exec i s = .next t →
    (∀ e, e ≠ d → t.portable.gr e = s.portable.gr e) ∧ t.portable.w = s.portable.w ∧ t.portable.k = s.portable.k ∧
    t.portable.ip = s.portable.ip ∧ t.portable.running = s.portable.running ∧ t.tiles = s.tiles ∧ t.domains = s.domains ∧ s.sameBytes t) ∧
  (∀ (i : Instr) (d : BitVec 4) (s t : State), vectorDest i = some d → exec i s = .next t →
    t.portable.g = s.portable.g ∧ (∀ e, e ≠ d → t.portable.wr e = s.portable.wr e) ∧ t.portable.k = s.portable.k ∧
    t.portable.ip = s.portable.ip ∧ t.portable.running = s.portable.running ∧ t.domains = s.domains ∧ s.sameBytes t ∧
    (∀ site, site ≠ s.portable.site → t.tile site = s.tile site) ∧
    let x := s.tile s.portable.site
    let y := t.tile s.portable.site
    y = { x with id := { x.id with fflags := y.id.fflags } } ∧ x.id.fflags &&& y.id.fflags = x.id.fflags) ∧
  (∀ (s t : State) (e : BitVec 2) (a b : BitVec 4), exec (.rosnilVwhile e a b) s = .next t → (∀ f, f ≠ e → t.portable.kr f = s.portable.kr f) ∧
    t.portable.kr 0 = BitVec.allOnes 64 ∧ t = { s with portable := { s.portable with k := t.portable.k } }) ∧
  ∀ (s : State) (d : BitVec 4) (w : Word) (v : Vec) (f : Flags),
    (s.putG d w).portable.gr d = w ∧ (s.putW d v f).portable.wr d = v

/-- Portable branches (spec/18 R336): bne and blt continue `off18` words from their own word when the registers differ, or compare below as signed
numbers, and otherwise go on; j always continues there. No register and no byte of memory changes. The portable halt ends the task of its tile
(spec/18 R336, spec/04 R90): the portable machine no longer runs and the tile has halted; no byte of memory and no register changes. Outside boot
state. -/
def Obligations.PortableFlow : Prop :=
  (∀ (s : State) (a b : BitVec 4) (o : BitVec 18) (n : Nat), (s.portable.cur : Int) + 4 * o.toInt = n →
    let there : State := { s with portable := { s.portable with ip := n } }
    exec (.rosnilJ o) s = .next there ∧
    (s.portable.gr a ≠ s.portable.gr b → exec (.rosnilBne a b o) s = .next there) ∧
    (s.portable.gr a = s.portable.gr b → exec (.rosnilBne a b o) s = .next s) ∧
    ((s.portable.gr a).toInt < (s.portable.gr b).toInt → exec (.rosnilBlt a b o) s = .next there) ∧
    (¬(s.portable.gr a).toInt < (s.portable.gr b).toInt → exec (.rosnilBlt a b o) s = .next s)) ∧
  ∀ s : State, (s.domain s.portSlot).boot = false →
    ∃ t, exec .rosnilHalt s = .next t ∧ t.portable.running = false ∧ (t.tile s.portable.site).halted = true ∧
      (t.tile s.portable.site).running = false ∧ t.portable.g = s.portable.g ∧ t.portable.w = s.portable.w ∧ s.sameBytes t ∧
      s.sameRegisters t

/-- ld and vld (spec/18 R336, R337, spec/04 R97, R101): at a pointer that resolves, 8-aligned or 64-aligned, to bytes in no error, gd takes the
little-endian doubleword, and wd the word of each enabled lane with zeros elsewhere; no byte of memory and no tile changes. st and vst (spec/18 R336,
R337, spec/04 R97, R101): at a pointer that resolves, with no byte of the span in error, the doubleword gb, or each enabled lane's word, stands in
memory little-endian; every byte outside the stored ones and every register is as before. At a pointer that breaks a check of R100 each is an address
fault, cause 0x2001 with the pointer and the reason in the record, of the tile in its domain, and no register and no byte changes. -/
def Obligations.PortableLoadsAndStores : Prop :=
  (∀ (s : State) (d a : BitVec 4) (k : BitVec 2) (i : BitVec 18) (j : BitVec 16) (owner off : Nat),
    (s.tile s.portable.site).stopped = false → (s.tile s.portable.site).wedged = false →
    (s.portTarget (.load 8) (s.portable.gr a) (s.portable.gr a + i.signExtend 64) 0 = .sram owner off → s.sramBad owner off 8 = false →
      exec (.rosnilLd d a i) s = .next (s.putG d (s.read64 (sramAddr owner off)))) ∧
    (s.portTarget .loadV (s.portable.gr a) (s.portable.gr a + j.signExtend 64) (s.portable.kr k) = .sram owner off →
      s.sramBad owner off 256 = false →
      ∃ v, exec (.rosnilVld d a k j) s = .next (s.putW d v 0) ∧
        ∀ n < 64, v.lane n = if (s.portable.kr k).getLsbD n then BitVec.ofNat 32 (s.readNat (sramAddr owner (off + 4 * n)) 4) else 0)) ∧
  (∀ (s : State) (d a b : BitVec 4) (k : BitVec 2) (i : BitVec 18) (j : BitVec 16) (r : Nat), s.hasDomain s.portSlot = true →
    let ga := s.portable.gr a
    let faults (n : Instr) (p : Word) : Prop := ∃ t, exec n s = .next t ∧
      t = s.portEnd (s.raise s.portSlot s.portable.site s.portOrigin 0x2001 p (BitVec.ofNat 64 r) []) ∧ s.sameBytes t ∧ s.sameRegisters t ∧
      t.portable.g = s.portable.g ∧ t.portable.w = s.portable.w ∧ t.portable.k = s.portable.k
    (s.portTarget (.load 8) ga (ga + i.signExtend 64) 0 = .bad r → faults (.rosnilLd d a i) (ga + i.signExtend 64)) ∧
    (s.portTarget .loadV ga (ga + j.signExtend 64) (s.portable.kr k) = .bad r → faults (.rosnilVld d a k j) (ga + j.signExtend 64)) ∧
    (s.portTarget (.store 8) ga ga 0 = .bad r → faults (.rosnilSt a b) ga) ∧
    (s.portTarget .storeV ga ga (s.portable.kr k) = .bad r → faults (.rosnilVst a b k) ga)) ∧
  ∀ (s : State) (a b : BitVec 4) (k : BitVec 2) (owner off : Nat), s.memoryCanonical →
    (s.tile s.portable.site).stopped = false → (s.tile s.portable.site).wedged = false →
    (s.portTarget (.store 8) (s.portable.gr a) (s.portable.gr a) 0 = .sram owner off → s.sramBad owner off 8 = false →
      ∃ t, exec (.rosnilSt a b) s = .next t ∧ t.read64 (sramAddr owner off) = s.portable.gr b ∧
        s.sameBytesOutside t (sramAddr owner off) 8 ∧ t.portable = s.portable ∧ t.tiles = s.tiles ∧ t.domains = s.domains) ∧
    (s.portTarget .storeV (s.portable.gr a) (s.portable.gr a) (s.portable.kr k) = .sram owner off → s.sramBad owner off 256 = false →
      ∃ t, exec (.rosnilVst a b k) s = .next t ∧
        (∀ n < 64, (s.portable.kr k).getLsbD n = true →
          BitVec.ofNat 32 (t.readNat (sramAddr owner (off + 4 * n)) 4) = (s.portable.wr b).lane n) ∧
        (∀ c, (∀ n < 64, (s.portable.kr k).getLsbD n = true →
            c < sramAddr owner (off + 4 * n) ∨ sramAddr owner (off + 4 * n) + 4 ≤ c) → t.byte c = s.byte c) ∧
        t.portable = s.portable ∧ t.tiles = s.tiles ∧ t.domains = s.domains)

/-- The portable vector instructions (spec/18 R333, R337, spec/06 R133, R134, R143): each completes with every lane enabled by the mask at the stated
value, rounded once to nearest even, and every other lane zero; vbcast and vwhile write all of theirs; vrsum lands one sum in every lane. That vwid takes
its half h modulo 2 is the model's choice for h of 2 and 3 (notes/assumptions/68.md). -/
def Obligations.PortableVectorResults : Prop :=
  ∀ (s : State) (d a b : BitVec 4) (k : BitVec 2),
    let x := s.portable.wr a
    let y := s.portable.wr b
    let z := s.portable.wr d
    let on (n : Nat) : Bool := (s.portable.kr k).getLsbD n
    let lanes (i : Instr) (f : Nat → Val) : Prop :=
      ∃ t, exec i s = .next t ∧ ∀ n < 64, (t.portable.wr d).lane n = if on n then (rne32 (f n)).lane else 0
    lanes (.rosnilVfadd d a b k) (fun n => (addVal (readF32 (x.lane n)) (readF32 (y.lane n))).1) ∧
    lanes (.rosnilVfsub d a b k) (fun n => (addVal (readF32 (x.lane n)) (readF32 (y.lane n)).negate).1) ∧
    lanes (.rosnilVfmul d a b k) (fun n => (mulVal (readF32 (x.lane n)) (readF32 (y.lane n))).1) ∧
    lanes (.rosnilVfma d a b k) (fun n => (fmaVal (readF32 (x.lane n)) (readF32 (y.lane n)) (readF32 (z.lane n))).1) ∧
    lanes (.rosnilVfmax d a b k) (fun n => maxVal (readF32 (x.lane n)) (readF32 (y.lane n))) ∧
    lanes (.rosnilVfmin d a b k) (fun n => minVal (readF32 (x.lane n)) (readF32 (y.lane n))) ∧
    (∃ t, exec (.rosnilVrsum d b k) s = .next t ∧ ∀ n < 64, (t.portable.wr d).lane n =
      (treeSum 6 ((List.range 64).map fun m => if on m then y.lane m else 0x80000000#32)).1) ∧
    (∃ t, exec (.rosnilVbcast d a) s = .next t ∧ ∀ n < 64, (t.portable.wr d).lane n = (s.portable.gr a).setWidth 32) ∧
    (∀ h src : BitVec 2, src.toNat < 2 → ∃ t, exec (.rosnilVwid d b k h src) s = .next t ∧ ∀ n < 64, (t.portable.wr d).lane n =
      if on n then BitVec.ofNat 32 (convertElem (if src = 0 then .f16 else .bf16) .f32 (.replicate 256 0) .rne false 0
        (elemBits 16 y (64 * (h.toNat % 2) + n))).1 else 0) ∧
    ∀ e : BitVec 2, e ≠ 0 → ∃ t, exec (.rosnilVwhile e a b) s = .next t ∧ ∀ n < 64,
      (t.portable.kr e).getLsbD n =
        decide (((s.portable.gr a).setWidth 32 + BitVec.ofNat 32 n).toInt < ((s.portable.gr b).setWidth 32 : BitVec 32).toInt)

/-! ### Triggers: guards, waits, refusals -/

/-- Guards and false guards (spec/02 R33): a guard is true when its predicate differs from its invert bit, p0 always reads 1, and a trigger whose
guard is false does nothing at all, whatever its operation. -/
def Obligations.FalseGuardDoesNothing : Prop :=
  (∀ (t : Tile) (g : Guard), t.guard g = true ↔ t.pred g.index.toNat ≠ g.invert) ∧
  (∀ t : Tile, t.guard ⟨false, 0⟩ = true ∧ t.guard ⟨true, 0⟩ = false) ∧
  ∀ (i : Instr) (s : State), i.isTrigger → s.cur.pre.guard s.curSlot.guard = false → exec i s = .next s

/-- A trigger of a socket that is data-locked does not fire at its issue: it waits in the socket with its selector and its data, in place of any that
waited (spec/04 R70), and nothing else changes. For each lockable socket and each of its operations, the slot naming them. A trigger that the
supervisor context must not issue in a frozen domain, or in boot state, raises a privilege fault, cause 0x200D, and has no other effect (spec/21 R374,
spec/23 R403). For every socket's every operation. -/
def Obligations.WaitingAndForbiddenTriggers : Prop :=
  (∀ (i : Instr) (q : Sock) (s : State), triggerInstr q s.curSlot.sel.toNat = some i → Sock.ofNum s.curSlot.sock.toNat = some q →
    s.cur.pre.guard s.curSlot.guard = true → s.forbidden s.cur.slot s.cur.site q s.curSlot.sel.toNat = false →
    s.cur.pre.locked q = true → (q = .gn → i = .gnDraw ∨ i = .gnRegen ∨ i = .gnBits) →
    exec i s = .next (s.mapTile s.cur.site fun t =>
      t.wait q ⟨s.curSlot.sel.toNat, s.curData q s.curSlot.sel.toNat, s.cur.from_⟩)) ∧
  ∀ (i : Instr) (q : Sock) (s : State), triggerInstr q s.curSlot.sel.toNat = some i → Sock.ofNum s.curSlot.sock.toNat = some q →
    s.cur.pre.guard s.curSlot.guard = true → s.forbidden s.cur.slot s.cur.site q s.curSlot.sel.toNat = true →
    exec i s = .next (s.raise s.cur.slot s.cur.site s.cur.from_ 0x200D (s.curData q s.curSlot.sel.toNat).scalar 0 [])

/-! ### The integer sockets, the address generator, control and the timetable -/

/-- Every operation of IA and IB (spec/04 R72, R74) completes at its firing cycle c: the result of the written operands lands in q0 at c + L, the
socket is ready again at c + 1, and nothing else changes; a division holds the socket's divider for 34 cycles. -/
def Obligations.IntegerResults : Prop :=
  ∀ s : State, s.firing [.ia, .ib] →
    let g := s.trigOf [.ia, .ib]
    let a := ((s.tile g.site).cap.int g.sock).o1
    let lo := ((s.tile g.site).cap.int g.sock).o2
    let b := g.b
    let n := b.toNat % 64
    let res (i : Instr) (L : Nat) (p : Word → Prop) : Prop :=
      ∃ w, p w ∧ s.lands i g.site g.sock (g.cyc + 1) ⟨g.cyc + L, some (.s w), none, 0, false, none⟩
    let quot (i : Instr) (p : Word → Prop) : Prop :=
      ∃ w, p w ∧ exec i s = .next (s.mapTile g.site fun t =>
        { t with cap := t.cap.setInt g.sock { t.cap.int g.sock with divReadyAt := g.cyc + 34 } }.firePipe g.sock (g.cyc + 1)
          ⟨g.cyc + 34, some (.s w), none, 0, false, none⟩)
    res .iaAdd 1 (· = a + b) ∧ res .iaSub 1 (· = a - b) ∧ res .iaAnd 1 (· = a &&& b) ∧ res .iaOr 1 (· = a ||| b) ∧
    res .iaXor 1 (· = a ^^^ b) ∧ res .iaShl 1 (· = a <<< n) ∧ res .iaShr 1 (· = a >>> n) ∧ res .iaSra 1 (· = a.sshiftRight n) ∧
    res .iaMin 1 (fun w => w.toInt = min a.toInt b.toInt) ∧ res .iaMax 1 (fun w => w.toInt = max a.toInt b.toInt) ∧
    res .iaMinu 1 (fun w => w.toNat = min a.toNat b.toNat) ∧ res .iaMaxu 1 (fun w => w.toNat = max a.toNat b.toNat) ∧
    res .iaAdds 1 (fun w => w.toInt = max (-2 ^ 63) (min (2 ^ 63 - 1) (a.toInt + b.toInt))) ∧
    res .iaSubs 1 (fun w => w.toInt = max (-2 ^ 63) (min (2 ^ 63 - 1) (a.toInt - b.toInt))) ∧
    res .iaAddus 1 (fun w => w.toNat = min (2 ^ 64 - 1) (a.toNat + b.toNat)) ∧ res .iaSubus 1 (fun w => w.toNat = a.toNat - b.toNat) ∧
    res .iaMul 3 (fun w => w.toNat = a.toNat * b.toNat % 2 ^ 64) ∧ res .iaMulh 3 (fun w => w.toInt = a.toInt * b.toInt / 2 ^ 64) ∧
    res .iaMulhu 3 (fun w => w.toNat = a.toNat * b.toNat / 2 ^ 64) ∧
    quot .iaDiv (fun w => (b = 0 → w.toInt = -1) ∧ (b ≠ 0 → w = BitVec.ofInt 64 (a.toInt.tdiv b.toInt))) ∧
    quot .iaDivu (fun w => w.toNat = if b = 0 then 2 ^ 64 - 1 else a.toNat / b.toNat) ∧
    quot .iaRem (fun w => w.toInt = if b = 0 then a.toInt else a.toInt.tmod b.toInt) ∧
    quot .iaRemu (fun w => w.toNat = if b = 0 then a.toNat else a.toNat % b.toNat) ∧
    res .iaCeq 1 (· = if a = b then 1 else 0) ∧ res .iaCne 1 (· = if a = b then 0 else 1) ∧
    res .iaClt 1 (· = if a.toInt < b.toInt then 1 else 0) ∧ res .iaCltu 1 (· = if a.toNat < b.toNat then 1 else 0) ∧
    res .iaClz 1 (fun w => w.toNat ≤ 64 ∧ (∀ j < 64, 64 - w.toNat ≤ j → b.getLsbD j = false) ∧
      (w.toNat < 64 → b.getLsbD (63 - w.toNat) = true)) ∧
    res .iaPop 1 (fun w => w.toNat = ((List.range 64).filter fun j => b.getLsbD j).length) ∧
    res .iaExt 1 (fun w =>
      let p := lo.toNat % 64
      let k := min 64 (b.toNat % 128)
      ∀ j < 64, w.getLsbD j = (decide (0 < k) && if j < k then a.getLsbD (p + j) else b.getLsbD 7 && a.getLsbD (p + k - 1)))

/-- The stream operations and the pointer constructors of AG (spec/04 R75, R76, R77, R78) complete: q0 lands at c + 1, and the stream's base, step or
bound takes its new value; nothing else changes. `lea` (R80) gives a + b where its space and its must-be-zero bits allow, and is an address fault
where they do not. -/
def Obligations.AddressResults : Prop :=
  ∀ s : State, s.firing [.ag] →
    let g := s.trigOf [.ag]
    let x := (s.tile g.site).cap.ag
    let a := x.o1
    let b := g.b
    let n := b.toNat % 4
    let m := a.toNat % 4
    let base := x.base.getD n 0
    let step := x.step.getD n 0
    let bnd := x.bnd.getD n 0
    let t := base + step
    let w := bnd.toNat % 64
    let res (i : Instr) (q0 : Word) (y : AgState) : Prop :=
      exec i s = .next (s.mapTile g.site fun u =>
        { u with cap := { u.cap with ag := y } }.firePipe .ag (g.cyc + 1) ⟨g.cyc + 1, some (.s q0), none, 0, false, none⟩)
    let setBase (v : Word) : AgState := { x with base := x.base.setIfInBounds n v }
    res .agInc base (setBase t) ∧
    (∃ v, res .agMod (a + base) (setBase v) ∧ (bnd = 0 → v = t) ∧ (bnd ≠ 0 → (v.toNat : Int) = t.toInt % bnd.toNat)) ∧
    (w = 0 → res .agBrev a x) ∧
    (w ≠ 0 → ∃ r : Word, (∀ j < 64, r.getLsbD j = (decide (j < w) && base.getLsbD (w - 1 - j))) ∧
      res .agBrev (a + (r <<< (step.toNat % 64))) (setBase (BitVec.ofNat 64 ((base.toNat + 1) % 2 ^ w)))) ∧
    (let top := a.toNat + if bnd = 0 then 2 ^ 64 else bnd.toNat
     res .agCirc base (setBase (if top ≤ t.toNat then t - bnd else if t.toNat < a.toNat then t + bnd else t))) ∧
    res .agMkptr (0x1000000000000000#64 ||| (b &&& 0xFFFFF#64)) x ∧
    res .agMkcl (0x2000000000000000#64 ||| ((a &&& 0xF#64) <<< 20) ||| (b &&& 0xFFFFF#64)) x ∧
    (let (W, H) := s.grid g.slot
     let X := a.toNat % W
     let Y := a.toNat / W
     res .agMkdom (if W * H ≤ a.toNat then 0
       else BitVec.ofNat 64 (3 * 2 ^ 60 + clusterOf W X Y * 2 ^ 24 + (Y % 4 * 4 + X % 4) * 2 ^ 20 + b.toNat % 2 ^ 20)) x) ∧
    (let (W, H) := s.grid g.slot
     let fx := b.extractLsb' 32 8
     let fy := b.extractLsb' 24 8
     let X : Int := if b.getLsbD 40 then (s.xy g.slot g.site).1 + fx.toInt else fx.toNat
     let Y : Int := if b.getLsbD 40 then (s.xy g.slot g.site).2 + fy.toInt else fy.toNat
     res .agCoord (if b.extractLsb' 60 4 = 7 ∧ b.extractLsb' 41 19 = 0 ∧ b.extractLsb' 20 4 = 0 ∧ 0 ≤ X ∧ X < W ∧ 0 ≤ Y ∧ Y < H then
       domainPointer W X.toNat Y.toNat (b.toNat % 2 ^ 20) else 0) x) ∧
    res .agSetb (x.base.getD m 0) { x with base := x.base.setIfInBounds m b } ∧
    res .agSets (x.step.getD m 0) { x with step := x.step.setIfInBounds m b } ∧
    res .agSetl (x.bnd.getD m 0) { x with bnd := x.bnd.setIfInBounds m b } ∧
    (let p := a + b
     let faults (r : Nat) : Prop := exec .agLea s = .next (g.fault s 0x2001 p (BitVec.ofNat 64 r))
     (ptrSpace p = ptrSpace a → ptrMbz p = true → res .agLea p x) ∧
     (ptrSpace p ≠ ptrSpace a ∨ ptrSpaceValid p = false → faults 1) ∧
     (ptrSpace p = ptrSpace a → ptrSpaceValid p = true → ptrMbz p = false → faults 2))

/-- Taken branches (spec/04 R81, R82, R83): the bundle after the three delay bundles is the target, which a call or `lbrk` accompanies with its own
effect; a target above 1 023, or above 959 for a user context that is not privileged, is a control fault with no other effect. -/
def Obligations.ControlBranches : Prop :=
  ∀ s : State, s.firing [.ct] →
    let g := s.trigOf [.ct]
    let u := s.tile g.site
    let x := u.cap.ct
    let here := BitVec.ofNat 64 s.cur.from_.bundle
    let jumps (i : Instr) (to_ : Word) (y : CtState) : Prop :=
      (to_.toNat ≤ (if u.inSup || u.privileged then 1023 else 959) →
        exec i s = .next (s.mapTile g.site fun t =>
          let t := { t with cap := { t.cap with ct := y } }
          t.setThread { t.thread with redirects := t.thread.redirects ++ [⟨3, to_.toNat⟩] })) ∧
      ((if u.inSup || u.privileged then 1023 else 959) < to_.toNat → exec i s = .next (g.fault s 0x2002 g.b x.o1))
    jumps .ctJmp (here + g.b) x ∧ jumps .ctJmpa g.b x ∧ jumps .ctJmpx (x.o1 + g.b) x ∧
    jumps .ctCall (here + g.b) { x with lnk := BitVec.ofNat 64 (s.cur.from_.bundle + 4) } ∧
    jumps .ctCalla g.b { x with lnk := BitVec.ofNat 64 (s.cur.from_.bundle + 4) } ∧ jumps .ctRet x.lnk x ∧
    jumps .ctLbrk (BitVec.ofNat 64 (x.lend + 1)) { x with lcnt := 0 } ∧
    jumps .ctUiret x.uipc { x with unmaskAt := some (g.cyc + 4) }

/-- The control triggers that set a mode or a loop (spec/04 R84, R85, R86, R88, R89, R91): each completes with the tile's, or the domain's, control
state as the rule says and nothing else changed; the words that the rules exclude are control faults with no other effect. -/
def Obligations.ControlModes : Prop :=
  ∀ s : State, s.firing [.ct] →
    let g := s.trigOf [.ct]
    let u := s.tile g.site
    let x := u.cap.ct
    let b := g.b
    let i := s.cur.from_.bundle
    let last := i + x.o1.toNat
    let done (j : Instr) (f : Tile → Tile) : Prop := exec j s = .next (s.mapTile g.site f)
    let ct (y : CtState) (t : Tile) : Tile := { t with cap := { t.cap with ct := y } }
    let faults (j : Instr) : Prop := exec j s = .next (g.fault s 0x2002 b x.o1)
    let badLoop : Prop := x.o1 = 0 ∨ (if u.inSup || u.privileged then 1023 else 959) < last ∨ 2 ^ 32 ≤ b.toNat ∨ u.thread.redirects ≠ []
    let badFence : Prop := b.toNat / 64 ≠ 0 ∨ b.getLsbD 3 = true ∨ b.toNat / 16 % 4 = 0 ∨ 5 ≤ b.toNat % 8
    let loop : CtState := { x with start := (i + 1) % 1024, lend := last, lcnt := b.toNat }
    (badLoop → faults .ctLoop) ∧ (¬badLoop → b ≠ 0 → done .ctLoop (ct loop)) ∧
    (¬badLoop → b = 0 → done .ctLoop fun t => (ct loop t).setThread { t.thread with pc := (last + 1) % 1024 }) ∧
    (b &&& ~~~0x1FF1C#64 = 0 → done .ctMode (ct { x with maskNext := some (b.setWidth 17) })) ∧
    (b &&& ~~~0x1FF1C#64 ≠ 0 → faults .ctMode) ∧
    done .ctLoose (fun t => { t with looseNext := true }) ∧
    (b.toNat ≤ 1 → done .ctUimask (ct { x with masked := b.getLsbD 0 })) ∧ (1 < b.toNat → faults .ctUimask) ∧
    (badFence → faults .ctFence) ∧
    (¬badFence → done .ctFence fun t => { t with holds := t.holds ++
      ((if b.getLsbD 4 then (s.releaseSet g.slot g.site).filter (s.inScope g.slot g.site (b.toNat % 8)) else []) ++
        (u.dm.replies.filter fun r => r.acquires).map fun r => ⟨r.id, g.site, false, []⟩) }) ∧
    (u.loose = false → (s.domain g.slot).boot = false → exec .ctRealign s = .next (s.mapDomain g.slot fun d =>
      { d with pausedUntil := d.dcc + 33, realignFrom := d.dcc + 33 })) ∧
    (u.loose = true → faults .ctRealign)

/-- Arrival and the end of a task (spec/04 R87, R90, spec/01 R24): CT.pier leaves the tile arrived and CT.halt leaves it halted, not running any more;
the last arrival of a domain of one module fixes the release at a + the pier latency (of several, FabricEvents says when); the desk gets the tile's mark. No register and no byte of memory changes. A
pier in a delay bundle is a control fault. That a supervisor's pier and halt do so as well is the model's reading (notes/assumptions/24). Traps (spec/04 R90, spec/20 R361): CT.ecall takes the ecall trap with b and o1 in the record's words;
CT.bkpt takes the breakpoint trap where configuration register 0x002 enables debug for the context that issued it, and otherwise has no effect. -/
def Obligations.PierHaltAndTraps : Prop :=
  (∀ s : State, s.firing [.ct] →
    let g := s.trigOf [.ct]
    let u := s.tile g.site
    let others : Prop := ∀ k ∈ s.domainSites g.slot, k ≠ g.site → (s.tile k).arrived = true ∨ (s.tile k).halted = true
    (u.thread.redirects ≠ [] → exec .ctPier s = .next (g.fault s 0x2002 g.b u.cap.ct.o1)) ∧
    ((s.domain g.slot).boot = false →
      (u.thread.redirects = [] → ∃ t, exec .ctPier s = .next t ∧ (t.tile g.site).arrived = true ∧ s.sameBytes t ∧ s.sameRegisters t ∧
        (t.domain g.slot).pier.firstArrival.isSome = true ∧
        (g.site ∈ s.domainSites g.slot → others → (s.domain g.slot).pier.releaseAt = none → (s.domain g.slot).pier.allArrived = none →
          (t.domain g.slot).pier.allArrived = some (s.domain g.slot).dcc ∧
          ((s.domain g.slot).spec.cls ≠ .multi →
            (t.domain g.slot).pier.releaseAt = some ((s.domain g.slot).dcc + (s.domain g.slot).spec.pierLatency))) ∧
        ∃ m, t.requests = s.requests ++ [m] ∧ m.request = .desk (.parked (s.flat g.slot g.site) u.bay)) ∧
      ∃ t, exec .ctHalt s = .next t ∧ (t.tile g.site).halted = true ∧ (t.tile g.site).running = false ∧ s.sameBytes t ∧
        s.sameRegisters t ∧ ∃ m, t.requests = s.requests ++ [m] ∧ m.request = .desk (.ended (s.flat g.slot g.site) u.bay))) ∧
  ∀ s : State, s.firing [.ct] →
    let g := s.trigOf [.ct]
    let on := (s.unit g.slot).debugEnable.getLsbD (if s.cur.from_.sup then 1 else 0)
    exec .ctEcall s = .next (g.fault s 0x2003 g.b (s.tile g.site).cap.ct.o1) ∧
    (on = true → exec .ctBkpt s = .next (g.fault s 0x2004 0 0)) ∧ (on = false → exec .ctBkpt s = .next s)

/-- The timetable assertions (spec/04 R92) outside boot state: a trigger whose comparison of the offset at c with b, unsigned, holds has no effect,
and one whose comparison fails is a slip fault, cause 0x300D, with the offset and b in the record. -/
def Obligations.TimetableAssertions : Prop :=
  ∀ s : State, s.firing [.tm] → (s.domain (s.trigOf [.tm]).slot).boot = false →
    let g := s.trigOf [.tm]
    let off := BitVec.ofNat 64 ((s.tile g.site).bayOffset (s.domain g.slot).dcc)
    let test (i : Instr) (p : Prop) : Prop :=
      (p → exec i s = .next s) ∧ (¬p → exec i s = .next (g.fault s 0x300D off g.b))
    test .tmAt (off = g.b) ∧ test .tmAtmin (g.b.toNat ≤ off.toNat) ∧ test .tmAtmax (off.toNat ≤ g.b.toNat)

/-- TM.snap lands the DCC at c in q0 and the offset at c in q1, both at c + 1 (spec/04 R93), outside boot state and with no launch bias; and it
completes everywhere, leaving all but the results in flight of TM as it was. -/
def Obligations.TimetableSnap : Prop :=
  ∀ s : State, s.firing [.tm] →
    let g := s.trigOf [.tm]
    ∃ q0 q1 : Word,
      exec .tmSnap s = .next (s.mapTile g.site fun t =>
        t.launchResult .tm ⟨(s.domain g.slot).pulses + 1, some (.s q0), some q1, 0, false, none⟩) ∧
      ((s.domain g.slot).boot = false → (s.domain g.slot).sigma = 0 → q0 = BitVec.ofNat 64 (s.domain g.slot).dcc ∧
        q1 = BitVec.ofNat 64 ((s.tile g.site).bayOffset (s.domain g.slot).dcc))

/-- Loads, stores and atomics (spec/04 R97, R98, R101, R102): where the pointer's checks allow, each completes with its access on its way to the
owner, due to perform and to land in the cycles of R98, in the socket itself for a local pointer and on the reach network, by the DCC, else; the socket is ready
after its interval and no register and no byte of memory changes yet. A masked access whose mask is empty has nothing to perform: a load lands zeros,
and a store goes nowhere (R101). Where a check of R100 fails, it is an address fault, cause 0x2001, with the
pointer and the reason in the record. The checks of an access of n bytes at a local pointer (spec/04 R80, R97, R100): a pointer whose must-be-zero
bits are zero, that is a multiple of n and ends within offset 0xF_FFFF gives the tile's own SRAM at its offset; the others fault with reason 2, 3 or
4: that the lowest numbered of several reasons is recorded (notes/assumptions/27), and that a bad entry of a code table has reason 2
(notes/assumptions/37), are the model's readings. An entry of a code table (R103) takes its word rounded to f19 at c + 3. -/
def Obligations.AccessesSent : Prop :=
  (∀ s : State, s.firing [.la, .lb] →
    let g := s.trigOf [.la, .lb]
    let x := (s.tile g.site).cap.ls g.sock
    let c := g.cyc
    let k := (s.domain g.slot).dcc
    let sends (i : Instr) (op : AccessOp) (ptr : Word) (data : Vec) (indexed : Bool) (interval : Nat) (read : Bool) (first last : Nat) : Prop :=
      (∀ r, s.accessTarget g.slot g.site op x.o1 ptr x.msk indexed x.strd = .bad r →
        exec i s = .next (g.fault s 0x2001 ptr (BitVec.ofNat 64 r))) ∧
      (∀ owner off, s.accessTarget g.slot g.site op x.o1 ptr x.msk indexed x.strd = .sram owner off →
        (op.masked = true → x.msk ≠ 0) →
        ∃ (a : Access) (t : State), exec i s = .next t ∧ s.sameBytes t ∧ s.sameRegisters t ∧
          ((t.tile g.site).pipe g.sock).readyAt = c + interval ∧
          a.op = op ∧ a.site = g.site ∧ a.owner = owner ∧ a.off = off ∧ a.pointer = ptr ∧ a.mask = x.msk ∧ a.data = data ∧
          a.pending = true ∧ a.landAt.isSome = read ∧ a.from_ = s.cur.from_ ∧
          (ptrSpace ptr = 1 → a.performAt = c + first ∧ (read = true → a.landAt = some (c + last)) ∧
            ((t.tile g.site).cap.ls g.sock).local_ = x.local_ ++ [a]) ∧
          (ptrSpace ptr = 2 → a.performAt = (if read then k + 6 else k + 7) ∧ (read = true → a.landAt = some (k + 10))) ∧
          (ptrSpace ptr ≠ 1 → (t.domain g.slot).reach.map (·.access) = (s.domain g.slot).reach.map (·.access) ++ [a]) ∧
          (ptrSpace ptr ≠ 1 → ptrSpace ptr ≠ 2 →
            let (h, j) := s.reachRoute g.slot g.site owner
            let P := (s.domain g.slot).spec.crossing
            a.performAt = k + (if read then 3 else 4) + h + P / 2 * j ∧ (read = true → a.landAt = some (k + 6 + 2 * h + P * j)))) ∧
      ∀ owner off, s.accessTarget g.slot g.site op x.o1 ptr x.msk indexed x.strd = .sram owner off → op.masked = true → x.msk = 0 →
        ∃ t, exec i s = .next t ∧ s.sameBytes t ∧ s.sameRegisters t ∧ ((t.tile g.site).pipe g.sock).readyAt = c + interval ∧
          (read = true → ∃ a : Access, a.pending = false ∧ a.data = Vec.zero ∧ a.landAt.isSome = true ∧
            (ptrSpace ptr = 1 → a.landAt = some (c + 4) ∧ ((t.tile g.site).cap.ls g.sock).local_ = x.local_ ++ [a]) ∧
            (ptrSpace ptr ≠ 1 → (t.domain g.slot).reach.map (·.access) = (s.domain g.slot).reach.map (·.access) ++ [a])) ∧
          (read = false → ((t.tile g.site).cap.ls g.sock).local_ = x.local_ ∧ (t.domain g.slot).reach = (s.domain g.slot).reach)
    let load (i : Instr) (op : AccessOp) (indexed : Bool) (interval last : Nat) : Prop :=
      sends i op (x.o1 + g.b) Vec.zero indexed interval true 2 last
    let store (i : Instr) (op : AccessOp) (data : Vec) (indexed : Bool) (interval : Nat) : Prop :=
      sends i op x.o1 data indexed interval false 3 0
    let amo (i : Instr) (k : Nat) : Prop := sends i (.amo k) x.o1 (scalarVec g.b) false 2 true 2 4
    load .laLd8 (.load 1) false 1 4 ∧ load .laLd16 (.load 2) false 1 4 ∧ load .laLd32 (.load 4) false 1 4 ∧
    load .laLd64 (.load 8) false 1 4 ∧ load .laLdv .loadV false 1 4 ∧ load .laLdvs .gatherV false 4 7 ∧
    load .laLdvx .gatherV true 4 7 ∧
    store .laSt8 (.store 1) (scalarVec g.b) false 1 ∧ store .laSt16 (.store 2) (scalarVec g.b) false 1 ∧
    store .laSt32 (.store 4) (scalarVec g.b) false 1 ∧ store .laSt64 (.store 8) (scalarVec g.b) false 1 ∧
    store .laStv .storeV g.v false 1 ∧ store .laStvs .scatterV g.v false 4 ∧ store .laStvx .scatterV g.v true 4 ∧
    amo .laAmoadd 0 ∧ amo .laAmomin 1 ∧ amo .laAmomax 2 ∧ amo .laAmoswap 3 ∧ amo .laAmocas 4) ∧
  (∀ (s : State) (slot site n : Nat) (p mask : Word) (strd : Vec) (store : Bool), n = 1 ∨ n = 2 ∨ n = 4 ∨ n = 8 → ptrSpace p = 1 →
    let off := p.toNat % 2 ^ 20
    let mbz := p.toNat / 2 ^ 20 % 2 ^ 40
    s.accessTarget slot site (if store then .store n else .load n) p p mask false strd =
      if mbz ≠ 0 then .bad 2 else if off % n ≠ 0 then .bad 3 else if 2 ^ 20 < off + n then .bad 4 else .sram site off) ∧
  ∀ s : State, s.firing [.la, .lb] →
    let g := s.trigOf [.la, .lb]
    let a := ((s.tile g.site).cap.ls g.sock).o1
    (a.toNat / 1024 ≠ 0 → exec .laTblw s = .next (g.fault s 0x2001 a 2)) ∧
    (a.toNat / 1024 = 0 → ∃ t, exec .laTblw s = .next t ∧ s.sameBytes t ∧ s.sameRegisters t ∧ ∃ w : TableWrite,
      ((t.tile g.site).cap.ls g.sock).tableWrites = ((s.tile g.site).cap.ls g.sock).tableWrites ++ [w] ∧ w.due = g.cyc + 3 ∧
      w.table = a.toNat / 256 % 4 ∧ w.entry = a.toNat % 256 ∧ w.value = (rne19 (readF32 (g.b.setWidth 32))).lane)

/-! ### The vector sockets and SF -/

/-- Floating-point lanes (spec/06 R130, R132, R133, R134): each enabled lane of q0 is the exact value, rounded once to nearest even in the result
format, every other lane is zero, and the flags are those of the enabled lanes. Compares (spec/06 R130, R135, R136): an enabled lane whose compare is
true gives all ones in q0 and a one in q1, every other lane zeros; a NaN operand of fclt and fcle sets nv. -/
def Obligations.VectorFloatResults : Prop :=
  (∀ s : State, s.firing [.va, .vb, .vc] →
    let g := s.trigOf [.va, .vb, .vc]
    let x := (s.tile g.site).cap.vec g.sock
    let done (i : Instr) (op : VecOp) (L : Nat) (e : Val → Val → Val → Val × Flags) : Prop :=
      s.vecDone i op L fun f r =>
        let v (n : Nat) := e (readLane f.f1 (x.o1.lane n)) (readLane f.f1 (x.o2.lane n)) (readLane f.f2 (g.v.lane n))
        (∀ n < 64, r.q0.lane n = if x.msk.getLsbD n then (roundLane f.g (v n).1).lane else 0) ∧ r.q1 = none ∧
        r.flagsOf x.msk fun n => (v n).2 ||| (roundLane f.g (v n).1).flags
    done .vaFadd .fadd 4 (fun a _ d => addVal a d) ∧ done .vaFsub .fsub 4 (fun a _ d => addVal a d.negate) ∧
    done .vaFmul .fmul 4 (fun a _ d => mulVal a d) ∧ done .vaFfma .ffma 5 fmaVal ∧
    done .vaFfms .ffms 5 (fun a m d => fmaVal a m d.negate) ∧ done .vaFmin .fmin 4 (fun a _ d => (minVal a d, 0)) ∧
    done .vaFmax .fmax 4 (fun a _ d => (maxVal a d, 0)) ∧ done .vaFabs .fabs 2 (fun _ _ d => (d.abs, 0)) ∧
    done .vaFneg .fneg 2 (fun _ _ d => (d.negate, 0))) ∧
  ∀ s : State, s.firing [.va, .vb, .vc] →
    let g := s.trigOf [.va, .vb, .vc]
    let x := (s.tile g.site).cap.vec g.sock
    let cmp (i : Instr) (op : VecOp) (L : Nat) (b : VecFmt → Nat → Bool) (fl : VecFmt → Nat → Flags) : Prop :=
      s.vecDone i op L fun f r => r.flagsOf x.msk (fl f) ∧ ∃ q1, r.q1 = some q1 ∧ ∀ n < 64,
        r.q0.lane n = (if x.msk.getLsbD n && b f n then 0xFFFFFFFF#32 else 0) ∧ q1.getLsbD n = (x.msk.getLsbD n && b f n)
    let a (f : VecFmt) (n : Nat) := readLane f.f1 (x.o1.lane n)
    let d (f : VecFmt) (n : Nat) := readLane f.f2 (g.v.lane n)
    let nv (f : VecFmt) (n : Nat) : Flags := if (a f n).isNan || (d f n).isNan then flagNv else 0
    cmp .vaFceq .fceq 4 (fun f n => (a f n).eq (d f n)) (fun _ _ => 0) ∧ cmp .vaFclt .fclt 4 (fun f n => (a f n).lt (d f n)) nv ∧
    cmp .vaFcle .fcle 4 (fun f n => (a f n).le (d f n)) nv ∧
    cmp .vaFcun .fcun 4 (fun f n => (a f n).isNan || (d f n).isNan) (fun _ _ => 0) ∧
    cmp .vaIceq .iceq 2 (fun _ n => decide (x.o1.lane n = g.v.lane n)) (fun _ _ => 0) ∧
    cmp .vaIclt .iclt 2 (fun _ n => decide ((x.o1.lane n).toInt < (g.v.lane n).toInt)) (fun _ _ => 0) ∧
    cmp .vaIcltu .icltu 2 (fun _ n => decide ((x.o1.lane n).toNat < (g.v.lane n).toNat)) (fun _ _ => 0)

/-- Integer lanes (spec/06 R130, R136): each enabled lane of q0 is the operation on 32-bit lanes, every other lane is zero, and no flag is set.
Selection and movement of lanes (spec/06 R130, R137, R144): sel by the lanes of y, mrg by the mask's bits alone, perm, bcast and shuf from the source
lane the rule gives, iota counting from its start; no flag is set. -/
def Obligations.VectorIntegerResults : Prop :=
  (∀ s : State, s.firing [.va, .vb, .vc] →
    let g := s.trigOf [.va, .vb, .vc]
    let x := (s.tile g.site).cap.vec g.sock
    let done (i : Instr) (op : VecOp) (p : Lane → Lane → Lane → Prop) : Prop :=
      s.vecDone i op 2 fun _ r => r.q1 = none ∧ r.flags = 0 ∧
        ∀ n < 64, if x.msk.getLsbD n then p (x.o1.lane n) (g.v.lane n) (r.q0.lane n) else r.q0.lane n = 0
    done .vaIadd .iadd (fun a b w => w = a + b) ∧ done .vaIsub .isub (fun a b w => w = a - b) ∧
    done .vaImul .imul (fun a b w => w.toNat = a.toNat * b.toNat % 2 ^ 32) ∧
    done .vaImulh .imulh (fun a b w => w.toInt = a.toInt * b.toInt / 2 ^ 32) ∧
    done .vaImin .imin (fun a b w => w.toInt = min a.toInt b.toInt) ∧ done .vaImax .imax (fun a b w => w.toInt = max a.toInt b.toInt) ∧
    done .vaIminu .iminu (fun a b w => w.toNat = min a.toNat b.toNat) ∧ done .vaImaxu .imaxu (fun a b w => w.toNat = max a.toNat b.toNat) ∧
    done .vaIadds .iadds (fun a b w => w.toInt = max (-2 ^ 31) (min (2 ^ 31 - 1) (a.toInt + b.toInt))) ∧
    done .vaIsubs .isubs (fun a b w => w.toInt = max (-2 ^ 31) (min (2 ^ 31 - 1) (a.toInt - b.toInt))) ∧
    done .vaIaddus .iaddus (fun a b w => w.toNat = min (2 ^ 32 - 1) (a.toNat + b.toNat)) ∧
    done .vaIsubus .isubus (fun a b w => w.toNat = a.toNat - b.toNat) ∧ done .vaIand .iand (fun a b w => w = a &&& b) ∧
    done .vaIor .ior (fun a b w => w = a ||| b) ∧ done .vaIxor .ixor (fun a b w => w = a ^^^ b) ∧
    done .vaIshl .ishl (fun a b w => w = a <<< (b.toNat % 32)) ∧ done .vaIshr .ishr (fun a b w => w = a >>> (b.toNat % 32)) ∧
    done .vaIsra .isra (fun a b w => w = a.sshiftRight (b.toNat % 32))) ∧
  ∀ s : State, s.firing [.va, .vb, .vc] →
    let g := s.trigOf [.va, .vb, .vc]
    let x := (s.tile g.site).cap.vec g.sock
    let done (i : Instr) (op : VecOp) (L : Nat) (on off : Nat → Lane) : Prop :=
      s.vecDone i op L fun _ r => r.q1 = none ∧ r.flags = 0 ∧ ∀ n < 64, r.q0.lane n = if x.msk.getLsbD n then on n else off n
    let k := g.b.toNat % 64
    done .vaSel .sel 2 (fun n => if x.o2.lane n = 0 then g.v.lane n else x.o1.lane n) (fun _ => 0) ∧
    done .vaMrg .mrg 2 (fun n => g.v.lane n) (fun n => x.o1.lane n) ∧
    done .vaPerm .perm 3 (fun n => x.o1.lane ((g.v.lane n).toNat % 64)) (fun _ => 0) ∧
    done .vaBcast .bcast 3 (fun _ => x.o1.lane k) (fun _ => 0) ∧
    done .vaShuf .shuf 3 (fun n => x.o1.lane (if g.b.getLsbD 6 then (n + k) % 64 else n ^^^ k)) (fun _ => 0) ∧
    done .vaIota .iota 2 (fun n => g.b.setWidth 32 + BitVec.ofNat 32 n) (fun _ => 0)

/-- Reductions (spec/06 R141, R142, R143): amax lands, for each block of 32 lanes, the canonical NaN where an enabled lane is a NaN and else the
largest enabled magnitude, +0 with none; qscale lands the scale of R123 in each enabled lane; rsum lands one sum, over the fixed tree, in every lane
and in q1. Conversions (spec/06 R138, R139, R140): cvt, dec and enc write the enabled elements of one part of a copy of the merge base and leave every
other element; a bad rounding word, a stream at its end, and an invalid scale word stop the trigger with the fault their rules name. -/
def Obligations.VectorReductionsAndConversions : Prop :=
  (∀ s : State, s.firing [.va, .vb, .vc] →
    let g := s.trigOf [.va, .vb, .vc]
    let x := (s.tile g.site).cap.vec g.sock
    let on (n : Nat) : Bool := x.msk.getLsbD n
    (s.vecDone .vaAmax .amax 6 fun f r => r.flags = 0 ∧
      ∃ w : Nat → Lane, r.q1 = some (w 1 ++ w 0) ∧ (∀ n < 64, r.q0.lane n = w (n / 32)) ∧
        ∀ k < 2,
          let v (n : Nat) : Val := readLane f.f2 (g.v.lane (32 * k + n))
          ((∃ n < 32, on (32 * k + n) = true ∧ (v n).isNan = true) → w k = 0x7FC00000#32) ∧
          ((∀ n < 32, on (32 * k + n) = true → (v n).isNan = false) → ∃ m : Val, w k = (rne32 m).lane ∧
            (m = .fin (Dy.zero false) ∨ ∃ n < 32, on (32 * k + n) = true ∧ m = (v n).abs) ∧
            ∀ n < 32, on (32 * k + n) = true → m.lt (v n).abs = false)) ∧
    (s.vecDone .vaQscale .qscale 6 fun _ r => r.q1 = none ∧ (r.flagsOf x.msk fun n => (qscaleValue (x.o1.lane n) (g.b.setWidth 32)).2) ∧
      ∀ n < 64, r.q0.lane n = if on n then (qscaleValue (x.o1.lane n) (g.b.setWidth 32)).1 else 0) ∧
    s.vecDone .vaRsum .rsum 16 fun f r =>
      let t0 : List Lane := (List.range 64).map fun n =>
        if on n then (if f.f2 = .f19 then g.v.lane n &&& 0xFFFFE000#32 else g.v.lane n) else 0x80000000#32
      let sum := treeSum 6 t0
      let w := if f.g = .f19 then (rne19 (readF32 sum.1)).lane else sum.1
      (∀ n < 64, r.q0.lane n = w) ∧ r.q1 = some (w.setWidth 64) ∧
      r.flags = sum.2 ||| if f.g = .f19 then (rne19 (readF32 sum.1)).flags else 0) ∧
  ∀ s : State, s.firing [.va, .vb, .vc] →
    let g := s.trigOf [.va, .vb, .vc]
    let u := s.tile g.site
    let x := u.cap.vec g.sock
    let on (n : Nat) : Bool := x.msk.getLsbD n
    let part (w hr : Nat) (q0 : Vec) (e : Nat → Nat) : Prop := ∀ j < 64 * (32 / w), elemBits w q0 j =
      if 64 * hr ≤ j ∧ j < 64 * hr + 64 ∧ on (j - 64 * hr) then e (j - 64 * hr) % 2 ^ w else elemBits w x.o2 j
    let tab (f : VecFmt) : CodeTable := u.tableAt f.table (g.cyc + 1)
    let hs (f : Fmt) : Nat := x.tbl.toNat / 4 % 4 % f.parts
    let hr (f : Fmt) : Nat := x.tbl.toNat / 16 % 4 % f.parts
    let rnd := RndWord.ofWord x.rnd
    let fault (i : Instr) (cause : Nat) (w7 w15 : Word) : Prop := exec i s = .next (g.fault s cause w7 w15)
    let bad : Word := BitVec.ofNat 64 (0x0E * 2 ^ 24 + 2 ^ g.from_.slot % 2 ^ 24)
    (s.vecDone .vaDec .dec 2 fun f r => r.q1 = none ∧ r.flags = 0 ∧
      part 32 0 r.q0 fun n => (decodeC8 (tab f) (elemBits 8 g.v (64 * hs .c8 + n))).toNat) ∧
    ((∀ n < 64, on n = true → scaleValid (x.o1.lane n) = true) → s.vecDone .vaEnc .enc 6 fun f r =>
      let e (n : Nat) := encodeVal (tab f) (scaleDy (x.o1.lane n)) (readLane f.f2 (g.v.lane n))
      r.q1 = none ∧ (r.flagsOf x.msk fun n => (e n).2) ∧ part 8 (hr .c8) r.q0 fun n => (e n).1) ∧
    (∀ n < 64, on n = true → scaleValid (x.o1.lane n) = false → (∀ m < n, on m = true → scaleValid (x.o1.lane m) = true) →
      vecFormats .enc x.fmt x.tbl ≠ none → fault .vaEnc 0x2007 ((x.o1.lane n).setWidth 64) (BitVec.ofNat 64 n)) ∧
    ((vecFormats .cvt x.fmt x.tbl = none ∨ rnd.check = none) → fault .vaCvt 0x100E bad 0) ∧
    ∀ f mode, vecFormats .cvt x.fmt x.tbl = some f → rnd.check = some mode →
      let e (n : Nat) := convertElem f.f2 f.g (tab f) mode rnd.sat (stochDraw u.gn g.sock rnd.elem n) (elemBits f.f2.width g.v (64 * hs f.f2 + n))
      if mode = .stoch ∧ 2 ^ 40 ≤ rnd.elem + 63 then fault .vaCvt 0x2006 (BitVec.ofNat 64 rnd.elem) 1
      else ∃ (q0 : Vec) (fl : Flags) (y : VecState),
        exec .vaCvt s = .next (s.mapTile g.site fun t =>
          { t with cap := t.cap.setVec g.sock y }.firePipe g.sock (g.cyc + 1) ⟨g.cyc + 3, some (.v q0), none, fl, false,
            if f.usesTable then some (g.tableRead .cvt x u.gn) else none⟩) ∧
        part f.g.width (hr f.g) q0 (fun n => (e n).1) ∧ (VecResult.mk q0 none fl).flagsOf x.msk (fun n => (e n).2) ∧
        y = { x with fmt := none, rnd := y.rnd } ∧ (mode ≠ .stoch → y.rnd = x.rnd) ∧
        (mode = .stoch → (RndWord.ofWord y.rnd).elem = min (rnd.elem + 64) (2 ^ 40 - 1))

/-- Special functions (spec/06 R145, R146): each completes with q0 at c + 12 and SF ready at c + 4; all 64 lanes are computed, and at a NaN, an
infinity, a zero and a negative operand they are those of the table of R146. -/
def Obligations.SpecialFunctionResults : Prop :=
  ∀ s : State, s.firing [.sf] →
    let g := s.trigOf [.sf]
    let nan := 0x7FC00000#32
    let inf := 0x7F800000#32
    let one := 0x3F800000#32
    -- results at −∞, −0, +0, +∞, and whether a finite z < 0 is invalid
    let fn (i : Instr) (mi mz pz pi : Lane) (negative : Bool) : Prop :=
      ∃ (q0 : Vec) (fl : Flags), s.lands i g.site .sf (g.cyc + 4) ⟨g.cyc + 12, some (.v q0), none, fl, false, none⟩ ∧ ∀ n < 64,
        let z := g.v.lane n
        ((readF32 z).isNan = true → q0.lane n = nan) ∧ (z = 0xFF800000#32 → q0.lane n = mi) ∧ (z = 0x80000000#32 → q0.lane n = mz) ∧
        (z = 0 → q0.lane n = pz) ∧ (z = inf → q0.lane n = pi) ∧
        (negative = true → 0x80000000 < z.toNat → z.toNat < 0xFF800000 → q0.lane n = nan ∧ fl.getLsbD 4 = true)
    fn .sfExp2 0 one one inf false ∧ fn .sfExp 0 one one inf false ∧ fn .sfLog2 nan 0xFF800000#32 0xFF800000#32 inf true ∧
    fn .sfRcp 0x80000000#32 0xFF800000#32 inf 0 false ∧ fn .sfRsqrt nan 0xFF800000#32 inf 0 true ∧
    fn .sfSqrt nan 0x80000000#32 0 inf true ∧ fn .sfTanh 0xBF800000#32 0x80000000#32 0 one false ∧
    fn .sfSigm 0 0x3F000000#32 0x3F000000#32 one false ∧ fn .sfSin nan 0x80000000#32 0 nan false ∧ fn .sfCos nan one one nan false

/-- An f32 word that is no NaN reads as a value that rounds back to it in every mode, with no flag; and so does every f19 word with its low 13 bits
clear (spec/05 R104, R105, R115): no rounding of a format's own value is inexact. -/
def Obligations.ReadThenRound : Prop :=
  (∀ (w : Lane) (mode : RMode) (draw : Nat), (readF32 w).isNan = false → roundVal F32 mode draw (readF32 w) = ⟨w.toNat, 0⟩) ∧
  ∀ w : Lane, w.toNat % 2 ^ 13 = 0 → (readF19 w).isNan = false → rne19 (readF19 w) = ⟨w.toNat, 0⟩ ∧ rne32 (readF19 w) = ⟨w.toNat, 0⟩

/-! ### The matrix unit and the epilogue -/

/-- Matrix routines (spec/07 R148, R149, R156, R157, R160, R163, R165): where the checks of R170 pass, each routine starts with the parameters read at
c, holds the unit for its fetch interval F, is to be ready after B = F + 14 cycles with B its stated count, reserves the next slot or takes the last
one if it accumulates, and consumes the format word; `calx` starts the routine that b names; a microprogram starts at its entry. Nothing but the
tile's MX changes. -/
def Obligations.MatrixRoutinesStart : Prop :=
  ∀ s : State, s.firing [.mx] →
    let g := s.trigOf [.mx]
    let u := s.tile g.site
    let m := u.mx
    let mp (n : Nat) : Word := m.mp.getD n 0
    let K := (mp 3).toNat / 2 ^ 24 % 2 ^ 16
    let begun (i : Instr) (p : Routine → MxState → Prop) : Prop :=
      ∃ (r : Routine) (n : MxState), exec i s = .next (s.fresh.mapTile g.site fun t => { t with mx := n }) ∧ p r n ∧ r.id = s.nextId ∧
        n.routines = m.routines ++ [r] ∧ n.fmt = none ∧ n.mp = m.mp ∧ n.ring = m.ring ∧ n.head = m.head ∧ n.tail = m.tail ∧
        r.k = K ∧ r.pA = mp 0 + m.o1 ∧ r.pB = mp 1 + m.o2 ∧ r.pSA = mp 4 ∧ r.pSB = mp 5 ∧ r.pL = mp 6 ∧ r.fired = g.cyc ∧
        r.draw = ⟨u.gn.key, u.gn.stream, u.gn.member⟩ ∧ r.e0 = u.gn.elem.toNat
    let starts (i : Instr) (f : RoutineForm) : Prop :=
      let F := if f.rowMajor then K + 32 else if f.scaled then K + 2 else K
      ∀ f1 f2 tab, mxFormats m.fmt = some (f1, f2, tab) →
        s.routineAddressFault g.slot g.site (routinePointers f m f1 f2 (max K 1)) = none →
        (mp 3).toNat < 2 ^ 45 → K ≠ 0 → (f.outer = true → K = 1) → (f.perturbed = true → u.gn.elem.toNat + 64 * K ≤ 2 ^ 40) →
        (mp 3).toNat % 2 ^ 24 = F + 14 → (if f.accumulates then m.occupancy ≠ 0 else m.occupancy < 8) →
        begun i fun r n => r.form = f ∧ r.f1 = f1 ∧ r.f2 = f2 ∧ r.table = tab ∧ r.fetchEnd = g.cyc + F ∧ n.fetchEnd = g.cyc + F ∧
          r.readyAt = g.cyc + F + 14 ∧ r.slot = (if f.accumulates then (m.tail + 15) % 8 else m.tail % 8) ∧
          n.tailNext = if f.accumulates then m.tailNext else some ((m.tail + 1) % 16)
    let runs (i : Instr) (op : Nat) : Prop := ∀ f1 f2 tab start, mxFormats m.fmt = some (f1, f2, tab) → m.routineStart op = some start →
      (mp 3).toNat < 2 ^ 45 → K ≠ 0 → m.microStream start u.gn.elem = false → (mp 3).toNat % 2 ^ 24 ≠ 0 →
      begun i fun r n => r.form.micro = some start ∧ r.addr = start ∧ r.f1 = f1 ∧ r.f2 = f2 ∧ r.table = tab ∧ n.tailNext = m.tailNext
    let mm (rowMajor scaled perturbed acc : Bool) : RoutineForm := ⟨rowMajor, false, scaled, perturbed, acc, false, none⟩
    starts .mxMm (mm false false false false) ∧ starts .mxMma (mm false false false true) ∧
    starts .mxMmt (mm true false false false) ∧ starts .mxMmta (mm true false false true) ∧
    starts .mxMmb (mm false true false false) ∧ starts .mxMmba (mm false true false true) ∧
    starts .mxMmg (mm false false true false) ∧ starts .mxMmga (mm false false true true) ∧
    starts .mxMmgb (mm false true true false) ∧ starts .mxMmgba (mm false true true true) ∧
    starts .mxMmgt (mm true false true false) ∧ starts .mxMmgta (mm true false true true) ∧
    starts .mxMv ⟨false, true, false, false, false, false, none⟩ ∧ starts .mxMva ⟨false, true, false, false, true, false, none⟩ ∧
    starts .mxOuter ⟨false, false, false, false, false, true, none⟩ ∧ starts .mxOutera ⟨false, false, false, false, true, true, none⟩ ∧
    (g.b.toNat < 0x10 → starts .mxCalx (standardForm g.b.toNat)) ∧
    (0x10 ≤ g.b.toNat → g.b.toNat < 0x30 → runs .mxCalx g.b.toNat) ∧
    (0x10 ≤ s.curSlot.sel.toNat → runs .mxPgRoutine s.curSlot.sel.toNat)

/-- The checks of a routine's trigger (spec/07 R149, R151, R161, R170) in their order: the format word, the pointers, the parameters, the stream, the
stated beat count, the ring. The first that fails is the fault, and the routine does not fire. A pg routine of the store (spec/02 R45, R51) is
checked for an unwritten entry, its format word, its parameters and the element numbers that its g steps reach; calx (spec/07 R163, R170) for the format word before the routine that b names. -/
def Obligations.MatrixChecks : Prop :=
  ∀ s : State, s.firing [.mx] →
    let g := s.trigOf [.mx]
    let u := s.tile g.site
    let m := u.mx
    let mp3 : Word := m.mp.getD 3 0
    let K := mp3.toNat / 2 ^ 24 % 2 ^ 16
    let checks (i : Instr) (op : Nat) : Prop :=
      let f := standardForm op
      let F := if f.rowMajor then K + 32 else if f.scaled then K + 2 else K
      let fault (cause : Nat) (w7 w15 : Word) (copy : List Word) : Prop := exec i s = .next (s.raise g.slot g.site g.from_ cause w7 w15 copy)
      let formats := mxFormats m.fmt
      let address := match formats with
        | some (f1, f2, _) => s.routineAddressFault g.slot g.site (routinePointers f m f1 f2 (max K 1))
        | none => none
      let parameters : Prop := 2 ^ 45 ≤ mp3.toNat ∨ K = 0 ∨ (f.outer = true ∧ K ≠ 1)
      let stream : Prop := f.perturbed = true ∧ 2 ^ 40 < u.gn.elem.toNat + 64 * K
      let beats : Prop := mp3.toNat % 2 ^ 24 ≠ F + 14
      let ring : Prop := if f.accumulates then m.occupancy = 0 else 8 ≤ m.occupancy
      (formats = none → fault 0x100E (BitVec.ofNat 64 (0x0E * 2 ^ 24 + 2 ^ g.from_.slot % 2 ^ 24)) 0 []) ∧
      (formats ≠ none → (∀ p r, address = some (p, r) → fault 0x2001 p (BitVec.ofNat 64 r) []) ∧
        (address = none → (parameters → fault 0x2008 g.b mp3 []) ∧
          (¬parameters → (stream → fault 0x2006 u.gn.elem 1 []) ∧
            (¬stream → (beats → fault 0x3005 0 (BitVec.ofNat 64 (F + 14)) u.mxCopy) ∧
              (¬beats → ring → fault (if f.accumulates then 0x300B else 0x300A) (BitVec.ofNat 64 (m.tail * 16 + m.head))
                (BitVec.ofNat 64 g.sel) [])))))
    let illegal (reason : Nat) : Word := BitVec.ofNat 64 (reason * 2 ^ 24 + 2 ^ g.from_.slot % 2 ^ 24)
    let micro (i : Instr) (op : Nat) (calx : Bool) : Prop :=
      let fault (cause : Nat) (w7 w15 : Word) : Prop := exec i s = .next (s.raise g.slot g.site g.from_ cause w7 w15 [])
      let unwritten : Prop := m.routineStart op = none
      let bad : Prop := mxFormats m.fmt = none
      (calx = false → unwritten → fault 0x1006 (illegal 0x06) 0) ∧ (calx = true ∨ ¬unwritten → bad → fault 0x100E (illegal 0x0E) 0) ∧
      (calx = true → ¬bad → unwritten → fault 0x2008 g.b mp3) ∧
      (¬bad → ¬unwritten → 2 ^ 45 ≤ mp3.toNat ∨ K = 0 → fault 0x2008 g.b mp3) ∧
      ∀ start, ¬bad → m.routineStart op = some start → mp3.toNat < 2 ^ 45 → K ≠ 0 → m.microStream start u.gn.elem = true → fault 0x2006 u.gn.elem 1
    checks .mxMm 0 ∧ checks .mxMma 1 ∧ checks .mxMmt 2 ∧ checks .mxMmta 3 ∧ checks .mxMmb 4 ∧ checks .mxMmba 5 ∧ checks .mxMmg 6 ∧
    checks .mxMmga 7 ∧ checks .mxMmgb 8 ∧ checks .mxMmgba 9 ∧ checks .mxMmgt 10 ∧ checks .mxMmgta 11 ∧ checks .mxMv 12 ∧
    checks .mxMva 13 ∧ checks .mxOuter 14 ∧ checks .mxOutera 15 ∧ (g.b.toNat < 0x10 → checks .mxCalx g.b.toNat) ∧
    (0x2F < g.b.toNat → exec .mxCalx s = .next (if mxFormats m.fmt = none then s.raise g.slot g.site g.from_ 0x100E (illegal 0x0E) 0 []
      else s.raise g.slot g.site g.from_ 0x2008 g.b mp3 [])) ∧
    (0x10 ≤ s.curSlot.sel.toNat → micro .mxPgRoutine s.curSlot.sel.toNat false) ∧
    (0x10 ≤ g.b.toNat → g.b.toNat < 0x30 → micro .mxCalx g.b.toNat true)

/-- The control forms of MX (spec/07 R161, R162, R163, R164): rhead and rtail set a counter of an idle ring, clr zeroes the counters and drops the
format word, mread brings a word of the store to mp7 two cycles later, mwrite writes one; a value or a word that the rules exclude is a matrix
parameter fault, and a counter set while a routine fetches, or a reserved slot is not ready, a ring slip. EP's operations (spec/07 R166, R168, R161,
R170): where the checks pass, each takes the head slot (drrow leaves it) with the scale, bias, activation and formats read at c, holds EP for its
interval, and nothing but the tile's MX and EP changes; else the fault is that of the first check that fails, a parity error of a port that the drain
reads before them (spec/20 R367). -/
def Obligations.MatrixControlsAndEpilogue : Prop :=
  (∀ s : State, s.firing [.mx] →
    let g := s.trigOf [.mx]
    let m := (s.tile g.site).mx
    let b := g.b
    let a := m.o1.toNat
    let done (i : Instr) (n : MxState) : Prop := exec i s = .next (s.mapTile g.site fun t => { t with mx := n })
    let fault (i : Instr) : Prop := exec i s = .next (g.fault s 0x2008 b (m.mp.getD 3 0))
    let slip (i : Instr) : Prop := exec i s = .next (g.fault s 0x300A (BitVec.ofNat 64 (m.tail * 16 + m.head)) (BitVec.ofNat 64 g.sel))
    let idle : Prop := m.fetchEnd ≤ g.cyc ∧ m.unready = false
    let good : Prop := a ≤ 0x41F ∧ (if a < 0x400 then microWordOk b = true else b.toNat / 2 ^ 10 % 2 ^ 53 = 0)
    (b.toNat < 16 → idle → done .mxRhead { m with headNext := some b.toNat, waiting := none } ∧
      done .mxRtail { m with tailNext := some b.toNat, waiting := none }) ∧
    (b.toNat < 16 → ¬idle → slip .mxRhead ∧ slip .mxRtail) ∧ (16 ≤ b.toNat → fault .mxRhead ∧ fault .mxRtail) ∧
    (b.toNat < 4 → done .mxClr { m with
      headNext := if b.getLsbD 0 then some 0 else m.headNext, tailNext := if b.getLsbD 0 then some 0 else m.tailNext,
      fmt := if b.getLsbD 1 then none else m.fmt, waiting := none }) ∧ (4 ≤ b.toNat → fault .mxClr) ∧
    (b.toNat ≤ 0x41F → done .mxMread { m with mread := m.mread ++ [(g.cyc + 2, m.storeWord b.toNat)], waiting := none }) ∧
    (0x41F < b.toNat → fault .mxMread) ∧ (¬good → fault .mxMwrite) ∧
    (good → ∃ n, done .mxMwrite n ∧ n.storeWord a = b ∧ (∀ k, k ≠ a → n.storeWord k = m.storeWord k) ∧ n.ring = m.ring ∧ n.mp = m.mp)) ∧
  ∀ s : State, s.firing [.ep] →
    let g := s.trigOf [.ep]
    let u := s.tile g.site
    let words := epWords u.ep.act u.ep.ofmt
    let slip (i : Instr) : Prop := exec i s = .next (g.fault s 0x300B (BitVec.ofNat 64 (u.mx.tail * 16 + u.mx.head)) (BitVec.ofNat 64 (
      match i with | .epDrain => 0 | .epDrtr => 1 | .epDrsum => 2 | .epDrnet => 3 | .epDrrow => 4 | _ => 5)))
    let starts (i : Instr) (k : DrainKind) (interval : Nat) (take : Bool) (ok : Prop) : Prop :=
      let bad := (operandCells .ep 0).find? fun c => s.badRegs.contains (g.site, c)
      (∀ c, bad = some c → exec i s = .next (g.fault s 0x5003 (BitVec.ofNat 64 (c % 2 ^ 13)) 0)) ∧
      (bad = none → words = none → exec i s = .next (g.fault s 0x100E (BitVec.ofNat 64 (0x0E * 2 ^ 24 + 2 ^ g.from_.slot % 2 ^ 24)) 0)) ∧
      ∀ act f tab, bad = none → words = some (act, f, tab) →
        let reason := s.drainReason g.slot g.site k f u.ep.dst u.ep.o1
        (∀ r, reason = some r → exec i s = .next (g.fault s 0x2001 u.ep.dst (BitVec.ofNat 64 r))) ∧
        (reason = none → ok → u.mx.headReady (g.cyc + 1) = false → slip i) ∧
        (reason = none → ok → u.mx.headReady (g.cyc + 1) = true → ∃ (t : State) (d : Drain), exec i s = .next t ∧ s.sameBytes t ∧
          s.sameRegisters t ∧ (t.tile g.site).ep.drains = u.ep.drains ++ [d] ∧ (t.tile g.site).ep.pipe.readyAt = g.cyc + interval ∧
          (t.tile g.site).mx = { u.mx with headNext := if take then some ((u.mx.head + 1) % 16) else u.mx.headNext } ∧
          d.kind = k ∧ d.number = u.mx.head % 8 ∧ d.fired = g.cyc ∧ d.scl = u.ep.scl ∧ d.bias = u.ep.bias ∧ d.act = act ∧ d.g = f ∧
          d.table = tab ∧ d.dst = u.ep.dst ∧ d.stride = u.ep.o1 ∧ d.slot = none)
    let row := g.b.toNat % 32
    starts .epDrain .rows 32 true True ∧ starts .epDrtr .columns 64 true True ∧ starts .epDrsum .sum 8 true True ∧
    starts .epDrnet .net 32 true True ∧ starts .epDrrow (.row row) 1 false (g.b.toNat < 32) ∧
    (∀ act f tab, (operandCells .ep 4).find? (fun c => s.badRegs.contains (g.site, c)) = none → words = some (act, f, tab) → 32 ≤ g.b.toNat →
      exec .epDrrow s = .next (g.fault s 0x2008 g.b (u.mx.mp.getD 3 0))) ∧
    (u.mx.headReady (g.cyc + 1) = false → slip .epDrop) ∧
    (u.mx.headReady (g.cyc + 1) = true → ∃ t, exec .epDrop s = .next t ∧ s.sameBytes t ∧ s.sameRegisters t ∧
      (t.tile g.site).mx = { u.mx with headNext := some ((u.mx.head + 1) % 16) } ∧ (t.tile g.site).ep.drains = u.ep.drains ∧
      (t.tile g.site).ep.pipe.readyAt = g.cyc + 1)

/-- The cycles of a product (spec/07 R150, R153, R158, R168): a line due that lost no bank and meets no error brings its elements into its routine; a
slot that becomes ready takes its 32 rows, row by row the sums of R153; a drained line due writes its bytes at its pointer and no other byte. -/
def Obligations.MatrixEvents : Prop :=
  (∀ (s : State) (site slot line i : Nat) (p : LinePlan) (r : Routine) (owner off : Nat), s.slotOf site = some slot →
    (s.tile site).mx.line (s.domain slot).dcc line = some (i, p) → (s.tile site).mx.routines[i]? = some r → r.form.micro = none →
    s.losers.contains (4, site, line) = false → s.resolve slot site [1, 2] p.ptr = .sram owner off →
    s.sramBad owner off p.bytes = false →
    let raw := (List.range p.count).map fun k => s.readNat (sramAddr owner (off + k * p.width)) p.width
    let r' := r.take line p ((s.tile site).tables.getD r.table (.replicate 256 0)) raw
    (line = 2 → r.e0 + 64 * p.k + 64 ≤ 2 ^ 40) → (3 ≤ line → ∀ w ∈ raw, scaleValid (BitVec.ofNat 32 w) = true) →
    exec (.mxLineFetch site line) s =
      .next (s.mapTile site fun t => { t with mx := { t.mx with routines := t.mx.routines.set i r' } })) ∧
  (∀ (s : State) (site : Nat) (r : SlotReady) (rest : List SlotReady), (s.tile site).mx.ready = r :: rest → r.slot < 8 →
    ∃ t, exec (.mxSlotReady site) s = .next t ∧ s.sameBytes t ∧ (∀ k, k ≠ site → t.tile k = s.tile k) ∧
      (t.tile site).mx.ready = rest ∧ (∀ k < 8, k ≠ r.slot → (t.tile site).mx.ring.getD k .zero = (s.tile site).mx.ring.getD k .zero) ∧
      (∀ n < 32, ∀ j < 64,
        let old := (((s.tile site).mx.ring.getD r.slot .zero).getD n .zero).lane j
        (((t.tile site).mx.ring.getD r.slot .zero).getD n .zero).lane j =
          if r.form.vectorA = true ∧ n ≠ r.row then (if r.form.accumulates then old else 0)
          else (slotElem r.form (r.lines.map (·.2)) (if r.form.accumulates then old else 0) n j).1)) ∧
  ∀ (s : State) (site slot i : Nat) (d : Drain), s.memoryCanonical → s.slotOf site = some slot →
    (s.tile site).ep.writing (s.domain slot).dcc = some (d, i) → s.losers.contains (5, site, 0) = false →
    let off := ptrOffset (d.linePtr i)
    s.sramPartial site off (d.lineData i).1.length = false →
    ∃ t, exec (.epRowWrite site i) s = .next t ∧ t.readBytes (sramAddr site off) (d.lineData i).1.length = (d.lineData i).1 ∧
      s.sameBytesOutside t (sramAddr site off) (d.lineData i).1.length ∧
      (t.tile site).id.landed = (s.tile site).id.landed ||| (d.lineData i).2 ∧ ∀ k, k ≠ site → t.tile k = s.tile k

/-- Portable products (spec/18 R338, spec/07 R156, R160, R168): on a tile that runs, with the pointers in range, no word in error and a slot of the
ring for it, mtile and mtilea complete: the tail counter moves past one more slot (mtilea takes the last one again), which holds the sums of R153 over
the operands' lines, every other slot is as before;
mdrain writes the 32 rows of the head slot through the epilogue at ga, 256 bytes apart, and takes the slot. No portable register changes, and no other
byte. -/
def Obligations.PortableMatrix : Prop :=
  ∀ (s : State) (a b c : BitVec 4) (k : BitVec 8) (f : BitVec 2),
    let site := s.portable.site
    let u := s.tile site
    let still (t : State) : Prop :=
      t.portable = s.portable ∧ (t.tile site).s = u.s ∧ (t.tile site).v = u.v ∧ (t.tile site).p = u.p ∧ (t.tile site).m = u.m ∧
      (∀ n, n ≠ site → t.tile n = s.tile n) ∧ ∀ n, t.domain n = s.domain n
    u.stopped = false → u.wedged = false → s.badWords = [] → u.mx.headNext = none → u.mx.tailNext = none → s.memoryCanonical →
    (let s1 := s.mapTile site fun t => t.portParameters (s.portable.gr a) (s.portable.gr b) (s.portable.gr c) k.toNat f
     let product (i : Instr) (sel : Nat) (slot tail : Nat) : Prop :=
      k ≠ 0 → (∀ f1 f2 n, mxFormats (s1.tile site).mx.fmt = some (f1, f2, n) →
        s1.routineAddressFault s.portSlot site (routinePointers (standardForm sel) (s1.tile site).mx f1 f2 k.toNat) = none) →
      ∃ t, exec i s = .next t ∧ still t ∧ s.sameBytes t ∧ (t.tile site).mx.tail = tail ∧ (t.tile site).mx.head = u.mx.head ∧
        (t.tile site).mx.fmt = none ∧ (t.tile site).mx.routines = u.mx.routines ∧
        (∀ f1 f2 tab, mxFormats (s1.tile site).mx.fmt = some (f1, f2, tab) → ∀ n < 32, ∀ j < 64,
          (((t.tile site).mx.ring.getD slot .zero).getD n .zero).lane j =
            s.productElem s.portSlot site (s.portable.gr a + u.mx.o1) (s.portable.gr b + u.mx.o2) (strideLow (s.portable.gr c))
              (strideHigh (s.portable.gr c)) f1 f2 (u.tables.getD tab (.replicate 256 0)) k.toNat
              (if sel = 1 then ((u.mx.ring.getD slot .zero).getD n .zero).lane j else 0) n j) ∧
        ∀ n < 8, n ≠ slot → (t.tile site).mx.ring.getD n .zero = u.mx.ring.getD n .zero
     (u.mx.occupancy < 8 → product (.rosnilMtile a b c k f) 0 (u.mx.tail % 8) ((u.mx.tail + 1) % 16)) ∧
     (u.mx.occupancy ≠ 0 → product (.rosnilMtilea a b c k f) 1 ((u.mx.tail + 15) % 8) u.mx.tail)) ∧
    ∀ act g tab, epWords u.ep.act u.ep.ofmt = some (act, g, tab) → s.drainReason s.portSlot site .rows g (s.portable.gr a) 256 = none →
      u.mx.headReady ((s.domain s.portSlot).dcc + 1) = true →
      ∃ (t : State) (d : Drain), exec (.rosnilMdrain a) s = .next t ∧ still t ∧ (t.tile site).mx.head = (u.mx.head + 1) % 16 ∧
        (t.tile site).mx.tail = u.mx.tail ∧ (t.tile site).mx.ring = u.mx.ring ∧
        d.slot = some (u.mx.ring.getD (u.mx.head % 8) .zero) ∧ d.scl = u.ep.scl ∧ d.bias = u.ep.bias ∧ d.act = act ∧ d.g = g ∧
        d.codeTable = u.tables.getD tab (.replicate 256 0) ∧
        let lo (n : Nat) := sramAddr site ((s.portable.gr a).toNat % 2 ^ 20 + 256 * n)
        let len := 8 * g.width
        (∀ n < 32, t.readBytes (lo n) len = (d.rowBytes n).1) ∧
        ∀ x, (∀ n < 32, x < lo n ∨ lo n + len ≤ x) → t.byte x = s.byte x

/-- GN (spec/08 R177, R178, R181, R182, R183): key, stream, member and next change the keys from the next cycle on, in both modes of the socket; draw,
regen and bits land 64 draws of the element numbers b to b + 63 in q0, and b + 64 in q1, after six cycles, or seven for regen; values out of range are
stream faults with their reasons, and nothing else changes. That word 7 of a refused purpose's record holds o1, and that a purpose out of range goes
before an element number (reason 1 before 4), are the model's readings (notes/assumptions/71). Portable draws (spec/18 R338, spec/08 R177, R182): gkey and gsm set the key, the stream
and the member of the tile for the instructions that follow; gdraw lands in lane i of wd the ε of purpose 3 for element ga + i, and changes nothing
else. On a tile that runs, with values in range. -/
def Obligations.DrawResults : Prop :=
  (∀ s : State,
    let g := s.trigOf [.gn]
    let x := (s.tile g.site).gn
    let b := g.b
    let fault (i : Instr) (w : Word) (reason : Nat) : Prop := exec i s = .next (g.fault s 0x2006 w (BitVec.ofNat 64 reason))
    let keys := x.next.getD (x.key, x.stream, x.member)
    let sets (i : Instr) (k : Word × BitVec 24 × BitVec 24) : Prop :=
      exec i s = .next (s.mapTile g.site fun t => { t with gn := { t.gn with next := some k } })
    (s.cur.pre.guard s.curSlot.guard = true → s.forbidden g.slot g.site g.sock g.sel = false →
      sets .gnKey (b, keys.2) ∧
      (b.toNat < 2 ^ 24 → sets .gnStream (keys.1, b.setWidth 24, keys.2.2) ∧ sets .gnMember (keys.1, keys.2.1, b.setWidth 24)) ∧
      (2 ^ 24 ≤ b.toNat → fault .gnStream b 3 ∧ fault .gnMember b 3) ∧
      (x.member ≠ 0xFFFFFF#24 → sets .gnNext (keys.1, keys.2.1, x.member + 1)) ∧
      (x.member = 0xFFFFFF#24 → fault .gnNext 0xFFFFFF 2)) ∧
    (s.firing [.gn] →
      let purpose := x.o1.toNat % 256
      let call (p n : Nat) := (DrawKey.mk x.key x.stream x.member).call p (b.toNat + n)
      let lands (i : Instr) (L : Nat) (lane : Nat → Lane) : Prop := ∃ v : Vec, (∀ n < 64, v.lane n = lane n) ∧
        s.lands i g.site .gn (g.cyc + 1) ⟨g.cyc + L, some (.v v), some (b + 64), 0, false, none⟩
      (2 ^ 40 ≤ b.toNat + 63 → fault .gnDraw b 1 ∧ fault .gnRegen b 1 ∧ fault .gnBits b 1) ∧
      (b.toNat + 63 < 2 ^ 40 →
        (2 ^ 10 ≤ x.o1.toNat ∨ 3 < purpose → fault .gnDraw x.o1 4 ∧ fault .gnBits x.o1 4) ∧
        (2 ^ 10 ≤ x.o1.toNat → fault .gnRegen x.o1 4) ∧
        (x.o1.toNat < 2 ^ 10 → lands .gnRegen 7 fun n =>
          deviation (elemBits 8 x.o2 (64 * (x.o1.toNat / 256) + n)) (call 0 n)) ∧
        (x.o1.toNat < 2 ^ 10 → purpose ≤ 3 → lands .gnDraw 6 (fun n => epsilonWord (call purpose n)) ∧
          lands .gnBits 6 fun n => (call purpose n).extractLsb' 0 32)))) ∧
  ∀ (s : State) (d a b : BitVec 4),
    let site := s.portable.site
    let x := (s.tile site).gn
    let ga := s.portable.gr a
    let gb := s.portable.gr b
    let sets (i : Instr) (key : Word) (stream member : BitVec 24) : Prop :=
      ∃ t, exec i s = .next t ∧ t.portable = s.portable ∧ s.sameBytes t ∧ s.sameRegisters t ∧
        (t.tile site).gn = { x with key := key, stream := stream, member := member, next := none }
    (s.tile site).stopped = false → (s.tile site).wedged = false → x.next = none →
    sets (.rosnilGkey a) ga x.stream x.member ∧
    (ga.toNat < 2 ^ 24 → gb.toNat < 2 ^ 24 → sets (.rosnilGsm a b) x.key (ga.setWidth 24) (gb.setWidth 24)) ∧
    (ga.toNat + 63 < 2 ^ 40 → ∃ v, exec (.rosnilGdraw d a) s = .next (s.putW d v 0) ∧
      ∀ n < 64, v.lane n = epsilonWord ((DrawKey.mk x.key x.stream x.member).call 3 (ga.toNat + n)))

/-! ### Accesses and the timed mesh -/

/-- A local access performs in its bank (spec/04 R97, R98, R101, R102): with no bank lost and no word in error, a load takes the little-endian value,
or each enabled lane's word; a store's bytes stand in memory and no other byte changes; an atomic keeps the old value in its first cycle and writes
the new one of R102 in its second; of a strided or indexed access the lanes of one group of sixteen are read, or written, in each of four cycles. An
access in cluster or domain space does the same at its owner, and what it has read in domain space starts back on the reach network (R99). A code-table write performs in its entry and no other (spec/04 R103); a request or a reply of the reach network
takes its next hop when no other item takes that link in the cycle (R99). -/
def Obligations.AccessPerforms : Prop :=
  (∀ (s : State) (slot site id : Nat) (a : Access), s.memoryCanonical → s.slotOf site = some slot →
    (s.tile site).localAccess id = some (a, false) → a.pending = true → s.lostAccess a = false → s.badWords = [] →
    let lo := sramAddr a.owner a.off
    let b := a.operand
    let old := a.oldValue
    let reads (x : Access) : Prop := exec (.accessPerform site id) s = .next (s.mapTile site fun t =>
      { t with cap := t.cap.putLocal a.port.sock id (some x) })
    let stores (n : Nat) (w : Nat) : Prop := ∃ t, exec (.accessPerform site id) s = .next t ∧ t.readNat lo n = w % 256 ^ n ∧
      s.sameBytesOutside t lo n ∧ s.sameRegisters t ∧ ∀ k, k ≠ site → t.tile k = s.tile k
    (a.landAt.isSome = true → a.group = 0 →
      (∀ n, a.op = .load n → a.groups = 1 →
        reads { a with data := scalarVec (BitVec.ofNat 64 (s.readNat lo n)), pending := false }) ∧
      (a.op = .loadV → a.groups = 1 → ∃ v, reads { a with data := v, pending := false } ∧ ∀ n < 64, v.lane n =
        if a.mask.getLsbD n then BitVec.ofNat 32 (s.readNat (lo + 4 * n) 4) else a.data.lane n) ∧
      ∀ n, a.op = .amo n → a.groups = 2 → ∃ x : Access, reads x ∧ x.oldValue = BitVec.ofNat 64 (s.readNat lo (if n = 4 then 4 else 8)) ∧
        x.operand = b ∧ x.group = 1 ∧ x.performAt = a.performAt + 1 ∧ x.pending = true) ∧
    (a.op = .gatherV → a.landAt.isSome = true → a.groups = 4 → a.group < 4 → ∃ v,
      reads (if a.group < 3 then { a with data := v, group := a.group + 1, performAt := a.performAt + 1 } else { a with data := v, pending := false }) ∧
      ∀ n < 64, v.lane n = if a.mask.getLsbD n ∧ n / 16 = a.group then BitVec.ofNat 32 (s.readNat (sramAddr a.owner (a.laneOff n)) 4) else a.data.lane n) ∧
    (a.op = .scatterV → a.group < 4 →
      let on (n : Nat) : Prop := n < 64 ∧ a.mask.getLsbD n = true ∧ n / 16 = a.group
      (∀ m n, on m → on n → m ≠ n → a.laneOff m + 4 ≤ a.laneOff n ∨ a.laneOff n + 4 ≤ a.laneOff m) →
      ∃ t, exec (.accessPerform site id) s = .next t ∧ s.sameRegisters t ∧
        (∀ n, on n → t.readNat (sramAddr a.owner (a.laneOff n)) 4 = (a.data.lane n).toNat) ∧
        ∀ x, (∀ n, on n → x < sramAddr a.owner (a.laneOff n) ∨ sramAddr a.owner (a.laneOff n) + 4 ≤ x) → t.byte x = s.byte x) ∧
    (∀ n, a.op = .store n → stores n b.toNat) ∧
    (a.group = 1 → (a.op = .amo 0 → stores 8 (old + b).toNat) ∧ (a.op = .amo 1 → stores 8 (if b.toInt < old.toInt then b else old).toNat) ∧
      (a.op = .amo 2 → stores 8 (if old.toInt < b.toInt then b else old).toNat) ∧ (a.op = .amo 3 → stores 8 b.toNat) ∧
      (a.op = .amo 4 → stores 4 (if old.toNat = b.toNat % 2 ^ 32 then b.toNat / 2 ^ 32 else old.toNat))) ∧
    (a.op = .storeV → ∃ t, exec (.accessPerform site id) s = .next t ∧
      (∀ n < 64, a.mask.getLsbD n = true → t.readNat (lo + 4 * n) 4 = (a.data.lane n).toNat) ∧
      ∀ x, (∀ n < 64, a.mask.getLsbD n = true → x < lo + 4 * n ∨ lo + 4 * n + 4 ≤ x) → t.byte x = s.byte x)) ∧
  (∀ (s : State) (slot site id : Nat) (r : ReachItem), s.memoryCanonical → s.slotOf site = some slot → (s.tile site).localAccess id = none →
    (s.domain slot).reach.find? (fun r => r.id == id) = some r → r.access.pending = true → s.lostAccess r.access = false → s.badWords = [] →
    let a := r.access
    let lo := sramAddr a.owner a.off
    let old := a.oldValue
    let b := a.operand
    let reads (x : Access) : Prop := exec (.accessPerform site id) s = .next (s.mapDomain slot fun d => { d with reach := d.reach.map fun o =>
      if o.id = id then (if ptrSpace a.pointer = 2 then { o with access := x }
        else { o with access := x, reply := true, hop := 0, from0 := (s.domain slot).dcc - 1 }) else o })
    let stores (n w : Nat) : Prop := ∃ t, exec (.accessPerform site id) s = .next t ∧ t.readNat lo n = w % 256 ^ n ∧ s.sameBytesOutside t lo n ∧
      s.sameRegisters t
    (a.landAt.isSome = true → a.group = 0 →
      (∀ n, a.op = .load n → a.groups = 1 → reads { a with data := scalarVec (BitVec.ofNat 64 (s.readNat lo n)), pending := false }) ∧
      (a.op = .loadV → a.groups = 1 → ∃ v, reads { a with data := v, pending := false } ∧ ∀ n < 64, v.lane n =
        if a.mask.getLsbD n then BitVec.ofNat 32 (s.readNat (lo + 4 * n) 4) else a.data.lane n) ∧
      ∀ n, a.op = .amo n → a.groups = 2 → ∃ x : Access, reads x ∧ x.oldValue = BitVec.ofNat 64 (s.readNat lo (if n = 4 then 4 else 8)) ∧
        x.operand = b ∧ x.group = 1 ∧ x.performAt = a.performAt + 1 ∧ x.pending = true) ∧
    (∀ n, a.op = .store n → stores n b.toNat) ∧
    (a.group = 1 → (a.op = .amo 0 → stores 8 (old + b).toNat) ∧ (a.op = .amo 1 → stores 8 (if b.toInt < old.toInt then b else old).toNat) ∧
      (a.op = .amo 2 → stores 8 (if old.toInt < b.toInt then b else old).toNat) ∧ (a.op = .amo 3 → stores 8 b.toNat) ∧
      (a.op = .amo 4 → stores 4 (if old.toNat = b.toNat % 2 ^ 32 then b.toNat / 2 ^ 32 else old.toNat))) ∧
    (a.op = .storeV → ∃ t, exec (.accessPerform site id) s = .next t ∧
      (∀ n < 64, a.mask.getLsbD n = true → t.readNat (lo + 4 * n) 4 = (a.data.lane n).toNat) ∧
      ∀ x, (∀ n < 64, a.mask.getLsbD n = true → x < lo + 4 * n ∨ lo + 4 * n + 4 ≤ x) → t.byte x = s.byte x) ∧
    (a.landAt = none → a.groups = 1 → a.group = 0 → a.op.lands = false → ∃ t, exec (.accessPerform site id) s = .next t ∧
      (t.domain slot).reach = (s.domain slot).reach.filter fun o => o.id ≠ id)) ∧
  (∀ (s : State) (site id : Nat) (w : TableWrite), w.table < 4 → w.entry < 256 →
    ((s.tile site).cap.tableWrites ++ (s.tile site).shadow.tableWrites).find? (fun w => w.id == id) = some w →
    ∃ t, exec (.tableWritePerform site id) s = .next t ∧ s.sameBytes t ∧ (∀ k, k ≠ site → t.tile k = s.tile k) ∧
      ∀ n < 4, ∀ k < 256, ((t.tile site).tables.getD n (.replicate 256 0)).getD k 0 =
        if n = w.table ∧ k = w.entry then w.value else ((s.tile site).tables.getD n (.replicate 256 0)).getD k 0) ∧
  ∀ (s : State) (slot id : Nat) (r : ReachItem), (s.domain slot).reach.find? (fun r => r.id == id) = some r →
    s.reachHolder slot r (r.hop + 1) = none →
    exec (.reachNetworkHop slot id) s = .next (s.mapDomain slot fun d => { d with
      reach := d.reach.map fun x => if x.id = r.id then { r with hop := r.hop + 1 } else x })

/-- NS sends (spec/11 R215, R216, R217, R221): to a target that resolves, each tagged send puts one item on the mesh with the counter's tag, the
register and plane dst names, and its data, and moves the counter to (t mod 127) + 1; deposits carry no tag; tag sets the counter and lclr clears the
registers of its mask; a bad target is an address fault, a bad word a transport parameter fault, and fwd of another tag a tag mismatch; of several the
first in that order, which for fwd is the model's choice (notes/assumptions/31.md). Items of the
timed mesh (spec/11 R217, R218, R220, spec/21 R382): an item alone on its link in the cycle takes its hop; of two, the later is discarded, and the
router's tile has a link collision; one alone in its register lands there with its data and its tag, a scalar over the whole register, a part in its
quarter, or in a drain joins the landing log; of two, the later is discarded, and the target has a landing collision; a deposit's bytes stand in the
target's SRAM and no other byte changes, and one that has lost its bank performs nothing. Complete here: nsSends, nsSend, nsSendv, nsDep, nsDepv, nsFwd,
nsTag, nsLclr, meshLinkHop, meshItemLanding, depositPerform. -/
def Obligations.TimedMesh : Prop :=
  (∀ s : State, s.firing [.ns] →
    let g := s.trigOf [.ns]
    let x := (s.tile g.site).ns
    let b := g.b
    let k := x.dst.toNat % 16
    let plane := x.dst.toNat / 16 % 4
    let fault (i : Instr) (cause : Nat) (w7 w15 : Word) : Prop := exec i s = .next (g.fault s cause w7 w15)
    let puts (i : Instr) (dst : Nat) (tag : BitVec 7) (p : MeshPayload) (counter : BitVec 7) : Prop :=
      ∃ (t : State) (it : MeshItem), exec i s = .next t ∧ s.sameBytes t ∧ s.sameRegisters t ∧
        (t.domain g.slot).mesh = (s.domain g.slot).mesh ++ [it] ∧ it.src = g.site ∧ it.dst = dst ∧ it.fired = g.cyc ∧ it.hop = 0 ∧
        it.tag = tag ∧ it.payload = p ∧ (t.tile g.site).ns = { x with counter := counter }
    let sends (i : Instr) (p : MeshPayload) : Prop :=
      (∀ dst off, s.dstTarget g.slot g.site x.dst = .sram dst off → puts i dst x.counter p (BitVec.ofNat 7 (x.counter.toNat % 127 + 1))) ∧
      ∀ r, s.dstTarget g.slot g.site x.dst = .bad r → fault i 0x2001 x.dst (BitVec.ofNat 64 r)
    let deposits (i : Instr) (n align : Nat) (p : Nat → MeshPayload) : Prop :=
      (∀ dst off, s.depositTarget g.slot g.site n align x.o1 = .sram dst off → puts i dst 0 (p off) x.counter) ∧
      ∀ r, s.depositTarget g.slot g.site n align x.o1 = .bad r → fault i 0x2001 x.o1 (BitVec.ofNat 64 r)
    let l := x.landing (b.toNat % 16)
    let want : BitVec 7 := b.extractLsb' 4 7
    let tile (i : Instr) (y : NsState) : Prop := exec i s = .next (s.mapTile g.site fun t => { t with ns := y })
    sends .nsSends (.scalar k plane b) ∧ sends .nsSend (.part k plane g.v) ∧ sends .nsSendv (.whole k g.v) ∧
    deposits .nsDep 8 8 (fun off => .deposit off b) ∧ deposits .nsDepv 256 64 (fun off => .depositV off g.v) ∧
    (b.toNat < 2 ^ 11 → l.tag = want → sends .nsFwd (.whole k l.data)) ∧
    (∀ r, s.dstTarget g.slot g.site x.dst = .bad r → fault .nsFwd 0x2001 x.dst (BitVec.ofNat 64 r)) ∧
    (∀ dst off, s.dstTarget g.slot g.site x.dst = .sram dst off → (2 ^ 11 ≤ b.toNat → fault .nsFwd 0x2009 b x.o1) ∧
      (b.toNat < 2 ^ 11 → l.tag ≠ want →
        fault .nsFwd 0x3001 (BitVec.ofNat 64 (b.toNat % 16 * 2 ^ 16 + want.toNat * 2 ^ 8 + l.tag.toNat)) 0)) ∧
    (1 ≤ b.toNat → b.toNat ≤ 127 → tile .nsTag { x with counter := b.setWidth 7 }) ∧
    (b.toNat = 0 ∨ 127 < b.toNat → fault .nsTag 0x2009 b x.o1) ∧ (2 ^ 16 ≤ b.toNat → fault .nsLclr 0x2009 b x.o1) ∧
    (b.toNat < 2 ^ 16 → ∃ y, tile .nsLclr y ∧ y = { x with ln := y.ln } ∧
      ∀ n < 16, y.landing n = if b.getLsbD n then ⟨Vec.zero, 0⟩ else x.landing n)) ∧
  ∀ (s : State) (slot id : Nat) (it : MeshItem), (s.domain slot).item id = some it →
    let gone : State := s.mapDomain slot fun d => d.dropItem id
    (s.linkHolder slot it (it.hop + 1) = none → ∃ t, exec (.meshLinkHop slot id) s = .next t ∧ s.sameBytes t ∧ s.sameRegisters t ∧
      (t.domain slot).mesh = (s.domain slot).mesh.map fun o => if o.id = id then { it with hop := it.hop + 1 } else o) ∧
    (∀ o, s.linkHolder slot it (it.hop + 1) = some o →
      let router := (s.hopLink slot it (it.hop + 1)).1
      let w7 := BitVec.ofNat 64 (commonPlane o.payload it.payload * 2 ^ 8 + (s.hopLink slot it (it.hop + 1)).2)
      (∃ t, exec (.meshLinkHop slot id) s = .next t ∧ s.sameBytes t ∧ s.sameRegisters t ∧ (t.domain slot).item id = none) ∧
      ∀ site, s.siteAt slot router.1 router.2 = some site → exec (.meshLinkHop slot id) s =
        .next (gone.raiseBare slot site 0x3008 w7 0 [gone.itemWord slot site o true, gone.itemWord slot site it false])) ∧
    (∀ o, s.landingHolder slot it = some o → exec (.meshItemLanding slot id) s =
      .next (gone.raiseBare slot it.dst 0x3009 (BitVec.ofNat 64 (it.payload.reg.getD 0)) 0
        [gone.itemWord slot it.dst o true, gone.itemWord slot it.dst it false])) ∧
    (∀ w, s.landingHolder slot it = none → (s.domain slot).draining = some w → ∃ t, exec (.meshItemLanding slot id) s = .next t ∧
      s.sameBytes t ∧ s.sameRegisters t ∧
      (t.tile it.dst).landingLog = (s.tile it.dst).landingLog ++ [it.logEntry ((s.domain slot).dcc - w.from0)]) ∧
    (s.landingHolder slot it = none → (s.domain slot).draining = none → ∃ t, exec (.meshItemLanding slot id) s = .next t ∧ s.sameBytes t ∧
      (∀ n, n ≠ it.dst → t.tile n = s.tile n) ∧
      t.tile it.dst = { s.tile it.dst with ns := { (s.tile it.dst).ns with ln := (t.tile it.dst).ns.ln } } ∧ ∀ k < 16,
        let old := (s.tile it.dst).ns.landing k
        let new := (t.tile it.dst).ns.landing k
        (it.payload.reg ≠ some k → new = old) ∧
        (∀ p w, it.payload = .scalar k p w → new.tag = it.tag ∧
          ∀ n < 64, new.data.lane n = if n = 0 then w.extractLsb' 0 32 else if n = 1 then w.extractLsb' 32 32 else 0) ∧
        (∀ p v, it.payload = .part k p v → new.tag = it.tag ∧ ∀ n < 64, new.data.lane n = if n / 16 = p then v.lane n else old.data.lane n) ∧
        ∀ v, it.payload = .whole k v → new = ⟨v, it.tag⟩) ∧
    (s.lostDeposit id = true → exec (.depositPerform slot id) s = .next gone) ∧
    (s.lostDeposit id = false → s.memoryCanonical → it.payload.reg = none → ∃ t, exec (.depositPerform slot id) s = .next t ∧
      (t.domain slot).item id = none ∧
      (∀ off w, it.payload = .deposit off w → t.read64 (sramAddr it.dst off) = w ∧ s.sameBytesOutside t (sramAddr it.dst off) 8) ∧
      ∀ off v, it.payload = .depositV off v → (∀ n < 64, t.readNat (sramAddr it.dst off + 4 * n) 4 = (v.lane n).toNat) ∧
        s.sameBytesOutside t (sramAddr it.dst off) 256)

/-! ### Issue and flow -/

/-- A bundle issues as one step (spec/02 R33, R38, R51): on a tile that may issue, whose next bundle is a sound, legal, standard one, every source of
a move whose guard is true is read from the state before any write; the writes land; the pc moves on; and the bundle's triggers, the end of a loop's
pass and a branch's target follow, in that order. No byte of memory and no other tile changes. Idle runs (spec/02 R30): a further cycle of a run in
progress counts it down and changes no register, no byte and no other tile; a run of n cycles begins with n − 1 to go and its index remembered. -/
def Obligations.BundlesAndIdleRuns : Prop :=
  (∀ (s : State) (site slot : Nat), s.slotOf site = some slot → s.canIssue slot site = true → (s.tile site).thread.idle = 0 →
    let u := s.tile site
    let n := u.thread.pc
    let b := s.nextBundle site
    let live := (bundleSlots b).filter fun x => u.guard x.2.guard
    let ms : List Move := live.map fun x => ⟨x.1, x.2, s.readSource slot site u b.header n x.2.src⟩
    let t0 := writeMoves (live.foldl (fun t x => t.emptied x.2.src) u) ms
    s.bundleBad site n = false → s.parityErrors site (bundleSlots b) = [] → headerReason b u.loose = none → b.kind = 0 →
    (∀ x ∈ live, u.readSlip x.2.src = none) → s.bundleReason slot site n b (!u.inSup && !u.privileged) t0 u.locked live live = none →
    ∃ t marks, exec (.bundleIssue site) s = .next t ∧ exec (.idleRun site) s = .next t ∧ s.sameBytes t ∧
      (∀ k, k ≠ site → t.tile k = s.tile k) ∧ (∀ k, t.domain k = s.domain k) ∧
      t.tile site = t0.countCycle (n + 1) ∧ t.cur.pre = u ∧ t.cur.header = b.header ∧ t.cur.site = site ∧ t.cur.slot = slot ∧
      t.agenda = issueSteps site slot (s.originOf slot site n) b ms ++ marks ++
        [⟨site, slot, s.originOf slot site n, .hardwareLoopEnd site⟩, ⟨site, slot, s.originOf slot site n, .takenBranchRedirect site⟩]
        ++ s.agenda ∧
      (s.holdDone slot site = true → exec (.holdWaitIssue site) s = .next t) ∧
      (s.holdDone slot site = false → exec (.holdWaitIssue site) s = .next s)) ∧
  ∀ (s : State) (site slot : Nat), s.slotOf site = some slot → s.canIssue slot site = true →
    let u := s.tile site
    let b := s.nextBundle site
    (0 < u.thread.idle → ∃ t, exec (.idleRun site) s = .next t ∧ s.sameBytes t ∧ s.sameRegisters t ∧
      (t.tile site).thread.idle = u.thread.idle - 1 ∧ (t.tile site).thread.pc = u.thread.pc % 1024 ∧
      ∀ k, k ≠ site → t.tile k = s.tile k) ∧
    (u.thread.idle = 0 → s.bundleBad site u.thread.pc = false → s.parityErrors site (bundleSlots b) = [] →
      headerReason b u.loose = none → b.kind = 1 → (u.inSup = true ∨ u.privileged = true ∨ u.thread.pc < 960) →
      ∃ t, exec (.idleRun site) s = .next t ∧ s.sameBytes t ∧ s.sameRegisters t ∧ (t.tile site).thread.idle = b.idleCount - 1 ∧
        (t.tile site).thread.idleAt = u.thread.pc ∧ (t.tile site).thread.pc = (u.thread.pc + 1) % 1024)

/-- An illegal bundle has no effect but its fault (spec/02 R51): the cause is 0x1000 plus the lowest reason it breaks, the detail word holds the
reason and the mask of its slots, and no move of it performs. The reasons of its header come first, with no slot; then those that its encoding and its
firing triggers break. A user context's bundle in folio 15 breaks reason 0x0C (spec/17 R317), an idle run with no slot (the model's choice,
notes/assumptions/48.md). -/
def Obligations.IllegalBundleFaults : Prop :=
  ∀ (s : State) (site slot : Nat), s.slotOf site = some slot → s.canIssue slot site = true → (s.tile site).thread.idle = 0 →
    let u := s.tile site
    let n := u.thread.pc
    let b := s.nextBundle site
    let o := s.originOf slot site n
    let user : Bool := !u.inSup && !u.privileged
    let guarded := (bundleSlots b).filter fun x => u.guard x.2.guard
    let live := guarded.filter fun x => (u.readSlip x.2.src).isNone
    let ms : List Move := live.map fun x => ⟨x.1, x.2, s.readSource slot site u b.header n x.2.src⟩
    let t0 := writeMoves (live.foldl (fun t x => t.emptied x.2.src) u) ms
    let stops (reason mask : Nat) : Prop := exec (.bundleIssue site) s = .next (match (List.range 24).find? fun k => mask.testBit k with
      | some k => s.raise slot site { o with slot := k, slotValue := b.slots.getD k 0 } (0x1000 + reason)
          (BitVec.ofNat 64 (reason * 2 ^ 24 + mask)) 0 []
      | none => s.raiseValue slot site o (0x1000 + reason) (if reason ≤ 4 then b.header else 0) (BitVec.ofNat 64 (reason * 2 ^ 24 + mask)) 0 [])
    s.bundleBad site n = false → s.parityErrors site (bundleSlots b) = [] →
    (∀ r, headerReason b u.loose = some r → stops r 0) ∧
    (headerReason b u.loose = none → b.kind = 0 → ∀ r mask, s.bundleReason slot site n b user t0 u.locked guarded live = some (r, mask) → stops r mask) ∧
    (headerReason b u.loose = none → b.kind = 1 → user = true → 960 ≤ n → stops 0x0C 0)

/-- Results land (spec/04 R69, R98, spec/06 R129, spec/21 R372, R377). In a captured socket, for the context in use and for the other one where its
results run on: of the results that are due, the last fired stands in its result port, and they leave the pipeline, or are marked as landed where a
supervisor may still look at them; of the loads and atomics of LA and LB, local ones and those back from the reach network, likewise the last issued. In the
other sockets, EP, GN, SV, DM, SY, TM and SH, the last fired of those due, where the domain clock is not stopped for them. A waiting trigger of a
data-locked socket fires once its operands are written and the port read (R70), and until then, and while its socket's clock stands still, stays. -/
def Obligations.ResultsLand : Prop :=
  (∀ (s : State) (slot site : Nat) (q : Sock) (sh : Bool), s.slotOf site = some slot →
    let u := s.tile site
    let copy (t : Tile) : Captured := if sh then t.shadow else t.cap
    let now := if sh then s.shadowClock slot u else s.capClock slot u
    let lands (r : Res) (t : State) : Prop := exec (.resultLanding site q) s = .next t ∧ s.sameBytes t ∧ (∀ k, k ≠ site → t.tile k = s.tile k) ∧
      t.readPort slot site { t.tile site with cap := copy (t.tile site) } q 0 0 = r
    (sh = true → s.shadowRuns slot u = true) → ((copy u).pipe q).invalid = [] →
    (∀ (l : List InFlight) (r : InFlight) (v : Res), q ∈ [Sock.ia, .ib, .ag, .va, .vb, .vc, .sf] → ((copy u).pipe q).flight = l ++ [r] → r.due ≤ now →
      r.q0 = some v → ∃ t, lands (if q ∈ [Sock.ia, .ib, .ag] then .s v.scalar else .v v.vector) t ∧
        ((sh && u.inSup) = false → ((copy (t.tile site)).pipe q).flight = l.filter fun x => decide (now < x.due)) ∧
        ((sh && u.inSup) = true → ((copy (t.tile site)).pipe q).flight = l ++ [r] ∧ l.length ∈ ((copy (t.tile site)).pipe q).invalid)) ∧
    ∀ a : Access, q ∈ [Sock.la, .lb] → ((copy u).pipe q).flight = [] →
      let all := landingNow ((copy u).ls q).local_ now ++ s.remoteLandings slot site q (if sh then !u.inSup else u.inSup)
      a ∈ all → (∀ b ∈ all, b = a ∨ b.id < a.id) → ∃ t, lands (.v a.landed) t) ∧
  (∀ (s : State) (slot site : Nat) (q : Sock), s.slotOf site = some slot → q ∈ [Sock.ep, .gn, .sv, .dm, .sy, .tm, .sh] →
    let now := s.sockCycle slot site q
    let still : Prop := (s.domain slot).frozen = true ∧ Sock.clocked q = true
    (still → exec (.resultLanding site q) s = .next s) ∧
    ∀ (l : List InFlight) (r : InFlight) (v : Res), ¬still → (s.tile site).flight q = l ++ [r] → r.due ≤ now → r.q0 = some v →
      ∃ t, exec (.resultLanding site q) s = .next t ∧ s.sameBytes t ∧ (∀ k, k ≠ site → t.tile k = s.tile k) ∧
        t.readPort slot site (t.tile site) q 0 0 = (if q ∈ [Sock.ep, .gn] then .v v.vector else .s v.scalar) ∧
        (t.tile site).flight q = l.filter fun x => decide (now < x.due)) ∧
  ∀ (s : State) (slot site : Nat) (q : Sock) (w : Waiting), s.slotOf site = some slot → (s.tile site).waitingIn q = some w →
    (s.fires slot site q w = false ∨ q ∉ s.firingSocks slot → exec (.dataLockedFire site q) s = .next s) ∧
    (s.fires slot site q w = true → q ∈ s.firingSocks slot → exec (.dataLockedFire site q) s = .next (fireSel
      ⟨slot, site, s.sockCycle slot site q, q, w.sel, w.data, w.from_⟩ (s.mapTile site fun t => t.clearWaiting q)))

/-- What fixes the next bundle (spec/04 R82, R84, R91, spec/01 R25): a branch whose three delay bundles have issued; else the start of a loop whose
last bundle has issued with passes left; a user interrupt, where it may be taken (never before an idle run), saves the pc in uipc and masks; a realignment pauses issue for 32
cycles. -/
def Obligations.FlowEvents : Prop :=
  (∀ (s : State) (site : Nat),
    let u := s.tile site
    let h := u.thread
    let x := u.cap.ct
    let issued := s.cur.from_.bundle
    let done (i : Instr) (f : Tile → Tile) : Prop := exec i s = .next (s.mapTile site f)
    (∀ r, h.redirects.find? (fun r => r.left == 0) = some r → done (.takenBranchRedirect site) fun t =>
      t.setThread { h with pc := r.target, idle := 0, redirects := h.redirects.filter fun r => r.left != 0 }) ∧
    (h.redirects.find? (fun r => r.left == 0) = none → done (.takenBranchRedirect site) fun t => t.setThread h) ∧
    (issued = x.lend ∧ 2 ≤ x.lcnt → done (.hardwareLoopEnd site) fun t =>
      { t with cap := { t.cap with ct := { x with lcnt := x.lcnt - 1 } } }.setThread { h with pc := x.start }) ∧
    (issued = x.lend ∧ x.lcnt = 1 → done (.hardwareLoopEnd site) fun t => { t with cap := { t.cap with ct := { x with lcnt := 0 } } }) ∧
    (issued ≠ x.lend ∨ x.lcnt = 0 → done (.hardwareLoopEnd site) id) ∧
    (∀ q rest, u.irqs = q :: rest → u.loose = true → u.inSup = false → x.masked = false → u.user.redirects = [] → u.user.idle = 0 →
      (s.nextBundle site).kind ≠ 1 → done (.userInterruptTaken site) fun t =>
        { t with cap := { t.cap with ct := { x with uipc := BitVec.ofNat 64 u.user.pc, masked := true, unmaskAt := none } }, irqs := rest,
                 user := { u.user with pc := q.handler % 1024 }, id := { t.id with xfer := BitVec.ofNat 64 q.xfer } }) ∧
    (u.irqs = [] ∨ u.loose = false ∨ u.inSup = true ∨ x.masked = true ∨ u.user.redirects ≠ [] ∨ u.user.idle ≠ 0 ∨
      (s.nextBundle site).kind = 1 → exec (.userInterruptTaken site) s = .next s)) ∧
  ∀ (s : State) (slot : Nat), exec (.forcedRealignment slot) s = .next (s.mapDomain slot fun d =>
    { d with pausedUntil := d.dcc + 33, realignFrom := d.dcc + 33 })

/-! ### The catwalk -/

/-- SV's forms (spec/11 R225, R226, R228, R229, R230, spec/15 R296, spec/21 R380): with words the rules allow and room in the send buffer, each
message form puts its message on the catwalk (of a multicast that names a tile, the copy that holds its place; of a disc with no neighbour, the
reply), each request form its request to the launch unit it names, and each queue form sets, pops or reports its
queue, the release of a popped message being taken over (spec/12 R255); a form whose words breach the rules, or that finds the buffer full, is a
catwalk fault or a launch fault. No register and no byte changes. -/
def Obligations.CatwalkForms : Prop :=
  ∀ s : State, s.firing [.sv] →
    let g := s.trigOf [.sv]
    let u := s.tile g.site
    let x := u.sv
    let b := g.b
    let d := s.domain g.slot
    let sup := u.inSup || u.privileged
    let w := SendWord.ofWord x.o2
    let now : Prop := d.frozen = true ∧ u.inSup = true
    let room : Prop := x.sendBuffer.length < 16
    let fault (i : Instr) (cause : Nat) : Prop := exec i s = .next (g.fault s cause b x.o1)
    let same (t : State) : Prop := s.sameBytes t ∧ s.sameRegisters t
    let asks (i : Instr) (dest : Nat) (r : UnitRequest) : Prop := ∃ (t : State) (m : UnitMessage), exec i s = .next t ∧ same t ∧
      t.requests = s.requests ++ [m] ∧ m.site = g.site ∧ m.slot = dest ∧ m.request = r ∧
      (¬now → (t.tile g.site).sv.sendBuffer = x.sendBuffer ++ [m.id]) ∧ (now → (t.tile g.site).sv.sendBuffer = x.sendBuffer)
    let form (i : Instr) (ok : Bool) (cause dest : Nat) (r : UnitRequest) : Prop :=
      (ok = true → now ∨ room → asks i dest r) ∧ (ok = true → ¬now → ¬room → fault i 0x200A) ∧ (ok = false → fault i cause)
    let sends (i : Instr) (dst channel : Nat) (h : Word) : Prop := ∃ (t : State) (m : Message), exec i s = .next t ∧ same t ∧
      m ∈ t.messages ∧ (∀ n ∈ s.messages, n ∈ t.messages) ∧ m.src = g.site ∧ m.dst = dst ∧ m.channel = channel ∧ m.header = h ∧
      m.flits = (List.range w.n).map (fun f => g.v.lane (2 * f + 1) ++ g.v.lane (2 * f)) ∧
      (t.tile g.site).sv.sendBuffer = x.sendBuffer ++ [m.id]
    let lands (i : Instr) (q0 : Word) (y : SvState) : Prop := exec i s = .next (s.mapTile g.site fun t =>
      { t with sv := { y with flight := x.flight ++ [⟨g.cyc + 1, some (.s q0), none, 0, false, none⟩] } })
    let q := b.toNat
    let rx := x.queues.getD (q - 1) RxQueue.reset
    let qOk : Prop := 1 ≤ q ∧ q ≤ 3 ∧ (sup = true ∨ q ≠ 1)
    let z := x.o1.toNat / 2 ^ 8 % 16
    (∀ t, s.msgTarget g.slot g.site w.channel x.o1 = some t → w.ok sup (s.unit g.slot) = true → room →
      sends .svMsg t w.channel (s.tileHeader g.site d.boot w.channel false w.n 0 w.label)) ∧
    (s.msgTarget g.slot g.site w.channel x.o1 = none ∨ w.ok sup (s.unit g.slot) = false ∨ ¬room → fault .svMsg 0x200A) ∧
    (∀ t ts, s.mcastSites g.slot x.o1 = some (t :: ts) → w.ok sup (s.unit g.slot) = true → room →
      sends .svMcast t w.channel (s.tileHeader g.site d.boot w.channel false w.n 0 w.label)) ∧
    (s.mcastSites g.slot x.o1 = some [] → w.ok sup (s.unit g.slot) = true → room → exec .svMcast s = .next s) ∧
    (s.mcastSites g.slot x.o1 = none ∨ w.ok sup (s.unit g.slot) = false ∨ ¬room → fault .svMcast 0x200A) ∧
    (∀ t, s.neighbour g.site x.o1.toNat = some t → x.o1.toNat < 4 → w.ok true (s.unit g.slot) = true → w.channel = 1 → room →
      sends .svDisc t 1 (s.tileHeader g.site true 1 true w.n x.o1.toNat w.label)) ∧
    (s.neighbour g.site x.o1.toNat = none → x.o1.toNat < 4 → w.ok true (s.unit g.slot) = true → w.channel = 1 → room →
      ∃ (t : State) (m : Message), exec .svDisc s = .next t ∧ same t ∧ m ∈ t.messages ∧ m.src = g.site ∧ m.dst = g.site ∧ m.channel = 1 ∧
        m.header.extractLsb' 0 34 = x.o1.setWidth 2 ++ BitVec.allOnes 32 ∧ m.flits = [x.o1] ∧ (t.tile g.site).sv.sendBuffer = x.sendBuffer ++ [m.id]) ∧
    (4 ≤ x.o1.toNat ∨ w.ok true (s.unit g.slot) = false ∨ w.channel ≠ 1 ∨ ¬room → fault .svDisc 0x200A) ∧
    (qsetOk sup x.o1 b = true → exec .svQset s = .next (s.mapTile g.site fun t => { t with sv := { x with
      queues := x.queues.setIfInBounds (x.o1.toNat % 4 - 1) ⟨if z = 0 then 0 else b.toNat % 2 ^ 20, z, 0, []⟩, current := x.o1.toNat % 4 } })) ∧
    (qsetOk sup x.o1 b = false → fault .svQset 0x200A) ∧
    (¬qOk → fault .svQpop 0x200A) ∧ (qOk → rx.presented = [] → lands .svQpop 0 { x with current := q }) ∧
    (∀ m ms, qOk → rx.presented = m :: ms → exec .svQpop s = .next (s.mapTile g.site fun t => { t with knownNext := t.knownNext ++ m.rest, sv :=
      { x with current := q, queues := x.queues.setIfInBounds (q - 1) { rx with messages := rx.messages.drop 1 },
               flight := x.flight ++ [⟨g.cyc + 1, some (.s m.header), none, 0, false, none⟩] } })) ∧
    (q = 0 → lands .svQstat (BitVec.ofNat 64 (x.sendBuffer.length * 2 ^ 32)) x) ∧ (3 < q → fault .svQstat 0x200A) ∧
    (1 ≤ q → q ≤ 3 → lands .svQstat (BitVec.ofNat 64 (rx.presented.length * 2 ^ 32 + rx.free * 2 ^ 16 + rx.size)) { x with current := q }) ∧
    (1 ≤ q → q ≤ 65535 → room → asks .svWreq g.slot
      (.desk (.request (s.flat g.slot g.site) u.bay (s.cur.pre.retired / d.quantum) q))) ∧
    (q = 0 ∨ 65535 < q ∨ ¬room → fault .svWreq 0x200A) ∧
    form .svCnt (s.mayName g.slot sup 3 b) 0x200C (handleSlot b) (.cnt b) ∧
    form .svCntw (s.mayName g.slot sup 1 b && handleLevel b != 0 && s.cntwWordOk g.slot sup b x.o1) 0x200C (handleSlot b) (.cntw b x.o1) ∧
    form .svCancel (s.mayName g.slot sup 1 b) 0x200C (handleSlot b) (.cancel b) ∧
    form .svFire (s.ftagOk g.slot sup b) 0x200C (b.toNat / 2 ^ 12 % 16) (.fire (b.toNat % 256) (!sup) x.o1) ∧
    (let ok : Prop := s.ftagOk g.slot sup b = true ∧ ptrSpace x.o1 = 1 ∧ ptrMbz x.o1 = true ∧ x.o1.toNat % 2 ^ 20 % 32 = 0
     (¬ok → fault .svArm 0x200C) ∧ (ok → ¬room → fault .svArm 0x200A) ∧
     (ok → room → ∃ (t : State) (m : UnitMessage) (k : BlockRead), exec .svArm s = .next t ∧ same t ∧ t.requests = s.requests ++ [m] ∧
       m.slot = b.toNat / 2 ^ 12 % 16 ∧ m.request = .arm (b.toNat % 256) [] ∧ (t.tile g.site).blocks = u.blocks ++ [k] ∧
       k.due = g.cyc + 2 ∧ k.off = x.o1.toNat % 2 ^ 20 ∧ k.len = 32 ∧ k.use = .arm m.id)) ∧
    form .svStop (b &&& ~~~(0x30F#64) == 0 && decide (b.toNat / 2 ^ 8 % 4 ≤ 1) && s.slotInPartition g.slot (b.toNat % 16)) 0x200A
      (b.toNat % 16) (.stop (b.toNat / 2 ^ 8 % 4)) ∧
    form .svDbg (b &&& ~~~(0xFFFF00FF#64) == 0 && decide (b.toNat / 16 % 16 ≤ 2) &&
        (if b.toNat / 16 % 16 = 1 then b.toNat / 2 ^ 16 % 2 ^ 16 != 0 else b.toNat / 2 ^ 16 % 2 ^ 16 == 0) &&
        s.slotInPartition g.slot (b.toNat % 16)) 0x200A (b.toNat % 16) (.dbg (b.toNat / 16 % 16) (b.toNat / 2 ^ 16 % 2 ^ 16))

/-! ### The engines -/

/-- DM's forms (spec/11 R231, R232, R233, R237, R239 to R247, R415): the checks at c in their order are pointers, extents, fields with the command
word, the stream, the loose limit, and the route (none in reduced service, spec/22 R400); the first that fails is the fault of its kind. The pointers
at c (notes/assumptions/78.md) and the stream between the fields and the limit (notes/assumptions/69.md) are the model's choices. A form
that passes puts one command on its way
with the operands read at c, its start at offset S of the bay; a loose one awaits its reply, and ucopy returns its transfer number. No register and no
byte changes yet. -/
def Obligations.EngineCommandsSent : Prop :=
  ∀ s : State, s.firing [.dm] →
    let g := s.trigOf [.dm]
    let u := s.tile g.site
    let a : DmArgs := ⟨g.b, u.dm.o1, u.dm.o2, u.dm.dp⟩
    let sup := u.inSup || u.privileged
    let form (i : Instr) (f : DmForm) : Prop :=
      let loose := f.isLoose g.b
      let pointers := firstFailure (s.dmPointers g.slot g.site sup f a)
      let extents := firstFailure (a.extents f)
      let fields : Prop := s.dmFieldsBad g.slot f a = true ∨ f.wordOk g.b (s.unit g.slot).maxBeats.toNat = false
      let full : Prop := if f = .ucopy then 16 ≤ u.dm.copies.length else loose = true ∧ 16 ≤ u.dm.replies.length
      let address (cause : Nat) (p : Word) (r : Nat) : Prop :=
        exec i s = .next (s.raise g.slot g.site g.from_ cause p (BitVec.ofNat 64 r) (g.b :: u.dm.o1 :: u.dm.o2 :: u.dm.dp.toList))
      let sent (stack : Nat) : Prop := ∃ (t : State) (c : Command), exec i s = .next t ∧ s.sameBytes t ∧ s.sameRegisters t ∧
        (t.domain g.slot).commands = (s.domain g.slot).commands ++ [c] ∧ c.form = f ∧ c.site = g.site ∧ c.word = g.b ∧ c.o1 = u.dm.o1 ∧
        c.o2 = u.dm.o2 ∧ c.dp = u.dm.dp ∧ c.loose = loose ∧ c.stack = stack ∧ c.fired = g.cyc ∧
        c.startAt = (u.bayStart + (g.b.toNat / 2 ^ 32 : Nat)).toNat ∧ c.draw = ⟨u.gn.key, u.gn.stream, u.gn.member⟩ ∧ c.supTable = sup ∧
        (f = .ucopy → (t.tile g.site).dm.copies = u.dm.copies ++ [u.dm.nextXfer] ∧
          (t.tile g.site).dm.flight = u.dm.flight ++ [⟨g.cyc + 1, some (.s (BitVec.ofNat 64 u.dm.nextXfer)), none, 0, false, none⟩]) ∧
        (f ≠ .ucopy → loose = true → (t.tile g.site).dm.replies.map (·.id) = u.dm.replies.map (·.id) ++ [c.id]) ∧
        (f ≠ .ucopy → loose = false → (t.tile g.site) = u)
      (∀ p r, pointers = some (p, r) → address 0x2001 p r) ∧
      (pointers = none → (∀ p r, extents = some (p, r) → address 0x2001 p r) ∧
        (extents = none → (fields → exec i s = .next (g.fault s 0x200B g.b u.dm.o1)) ∧
          (¬fields → (∀ e, a.streamFault f = some e → exec i s = .next (g.fault s 0x2006 (BitVec.ofNat 64 e) 1)) ∧
            (a.streamFault f = none → full → exec i s = .next (g.fault s 0x200B g.b u.dm.o1)) ∧
            (a.streamFault f = none → ¬full → (f.firstHbm a = none → sent 0) ∧
              ∀ p, f.firstHbm a = some p → (s.reduced = true ∧ g.slot = 0 → address 0x2005 p 6) ∧ (¬(s.reduced = true ∧ g.slot = 0) →
                (s.routeStack g.slot sup p = none → address 0x2005 p 1) ∧ ∀ k, s.routeStack g.slot sup p = some k →
                  (loose = false ∧ (s.domain g.slot).spec.owns k = false → address 0x2005 p 7) ∧
                  (loose = true ∨ (s.domain g.slot).spec.owns k = true → sent k))))))
    form .dmCopy .copy ∧ form .dmCopy2 .copy2 ∧ form .dmGath .gath ∧ form .dmGathl .gathl ∧ form .dmWalk .walk ∧ form .dmRadd .radd ∧
    form .dmRmin .rmin ∧ form .dmRmax .rmax ∧ form .dmConv .conv ∧ form .dmOvl .ovl ∧ form .dmUcopy .ucopy ∧ form .dmBset .bset ∧
    form .dmBarr .barr ∧ form .dmBchk .bchk ∧ form .dmPoolget .poolget ∧ form .dmPoolrel .poolrel

/-! ### The system and shadow sockets -/

/-- SY's forms (spec/17 R319 to R325, spec/21 R378, R386): eret clears its record's V and marks the tile ready in a frozen domain, returns at
once from a halt of a group, and in boot state is the leader's end of boot; rngw, rngi, cfgw,
hgrp and wdog write from c + 1, rngr, accr, cfgr and fusr land the word they name, accx and arcw read local SRAM at c + 2, thr fixes a throttle
change, which a module of a multi-module domain announces (spec/13 R266), xtrig halts the members of groups within 64 cycles; a form outside its
limits is a privilege parameter fault, or an address fault of its pointer. That accx checks its count before its address is the model's choice
(notes/assumptions/46.md), and so is that cfgw refuses a profile mask other than 1 (notes/assumptions/98.md). SH's forms (spec/21 R376, R377): rd lands the word at the index, wr writes one that may be written, inj and clr act on an entry, or a waiting
trigger, of a captured socket; with bit 16 set the index is idx, which then steps; other indices and bits are privilege parameter faults. The record
and the operands of the user context read at their indices. -/
def Obligations.SystemAndShadowForms : Prop :=
  (∀ s : State, s.firing [.sy] →
    let g := s.trigOf [.sy]
    let u := s.tile g.site
    let b := g.b
    let n := b.toNat
    let o1 := u.sy.o1
    let d := s.domain g.slot
    let un := s.unit g.slot
    let fault (i : Instr) : Prop := exec i s = .next (g.fault s 0x200D b o1)
    let lands (i : Instr) (k : Nat) (w : Word) : Prop :=
      exec i s = .next (s.mapTile g.site fun t => t.launchResult .sy ⟨g.cyc + k, some (.s w), none, 0, false, none⟩)
    let writes (i : Instr) (w : SlotWrite) : Prop := exec i s = .next (s.mapDomain g.slot fun d => { d with writes := d.writes ++ [w] })
    let reads (i : Instr) (align len : Nat) (use : BlockUse) : Prop :=
      (∀ r, pointerCheck [1] align b = some r → exec i s = .next (g.fault s 0x2001 b (BitVec.ofNat 64 r))) ∧
      (pointerCheck [1] align b = none → 2 ^ 20 < n % 2 ^ 20 + len → exec i s = .next (g.fault s 0x2001 b 4)) ∧
      (pointerCheck [1] align b = none → n % 2 ^ 20 + len ≤ 2 ^ 20 → ∃ (t : State) (k : BlockRead), exec i s = .next t ∧ s.sameBytes t ∧
        s.sameRegisters t ∧ (t.tile g.site).blocks = u.blocks ++ [k] ∧ k.due = g.cyc + 2 ∧ k.off = n % 2 ^ 20 ∧ k.len = len ∧ k.use = use)
    let table (sup : Bool) := if sup then un.supRange else un.userRange
    let e := (table (o1.getLsbD 6)).getD (o1.toNat % 64) (0, 0)
    let k := o1.toNat
    let lead := if d.spec.cls = .multi then 2048 else 64
    (n ≠ 0 → fault .syEret) ∧
    (n = 0 → d.boot = false → u.inSup = true → d.frozen = true → exec .syEret s = .next (s.mapTile g.site fun t => { t with
      record := t.record.setIfInBounds 0 (t.record.getD 0 0 &&& ~~~0x80000000#64), ready := true })) ∧
    (n = 0 → d.boot = false → u.inSup = false ∨ (d.frozen = false ∧ u.groupHalted = false) → fault .syEret) ∧
    (n = 0 → d.boot = true → g.site % 1056 ≠ 0 → exec .syEret s = .next (s.wedge g.slot g.site 0x200D)) ∧
    (n = 0 → d.boot = true → g.site % 1056 = 0 → ∃ t, exec .syEret s = .next t ∧ s.sameBytes t ∧
      (t.die (siteDie g.site)).leaderDone = true ∧ (t.tile g.site).ready = true) ∧
    (n = 0 → d.boot = false → u.inSup = true → d.frozen = false → u.groupHalted = true → ∃ t, exec .syEret s = .next t ∧
      (t.tile g.site).inSup = false ∧ (t.tile g.site).loose = true ∧ (t.tile g.site).groupHalted = false ∧
      ((t.tile g.site).stopped = true ↔ u.stopped = true ∧ u.event.isSome = true) ∧ s.sameBytes t) ∧
    (k < 128 → s.rangeEntryOk g.slot b u.sy.o2 = true → writes .syRngw (.range (o1.getLsbD 6) (k % 64) b u.sy.o2)) ∧
    (128 ≤ k ∨ s.rangeEntryOk g.slot b u.sy.o2 = false → fault .syRngw) ∧
    (k < 128 → n = 0 → lands .syRngr 1 e.1) ∧ (k < 128 → n = 1 → lands .syRngr 1 e.2) ∧ (128 ≤ k ∨ 2 ≤ n → fault .syRngr) ∧
    (k < 2 → writes .syRngi (.invalidate (o1 == 1) b)) ∧ (2 ≤ k → fault .syRngi) ∧
    (k < 2 → reads .syAccx 64 64 (.accx k)) ∧ (2 ≤ k → fault .syAccx) ∧ reads .syArcw 8 24 .arcw ∧
    (k < 7 → n < 8 → lands .syAccr 1 ((if k = 0 then un.accU else if k = 1 then un.accS else if k = 2 then s.mmc.ap
      else s.mmc.af.getD (k - 3) 0).extractLsb' (64 * n) 64)) ∧ (7 ≤ k ∨ 8 ≤ n → fault .syAccr) ∧
    (let at_ := (n + d.sigma) % 2 ^ 64
     (k ≤ 16 → d.dcc + lead ≤ at_ → exec .syThr s =
       .next ((s.mapDomain g.slot fun d => { d with throttleNext := some (at_, k) }).announce g.slot fun f => { f with throttle := some (at_, k) })) ∧
     (16 < k ∨ at_ < d.dcc + lead → fault .syThr)) ∧
    (n = 0 → lands .syCfgr 1 un.limits) ∧ (n = 1 → lands .syCfgr 1 un.maxBeats) ∧ (n = 2 → lands .syCfgr 1 un.debugEnable) ∧
    (n = 3 → lands .syCfgr 1 un.profile) ∧ (0x100 ≤ n → n ≤ 0x1FF → lands .syCfgr 1 (Table.at un.mailbox 0 (n - 0x100))) ∧
    (configListed b = false → fault .syCfgr) ∧ (configListed o1 = true → s.configOk g.slot o1 b = true → writes .syCfgw (.config k b)) ∧
    (configListed o1 = false ∨ s.configOk g.slot o1 b = false ∨ (k = 3 ∧ b ≠ 1) → fault .syCfgw) ∧
    (b &&& ~~~0x10F#64 = 0 → writes .syHgrp (.group g.site (n % 16) (b.getLsbD 8))) ∧ (b &&& ~~~0x10F#64 ≠ 0 → fault .syHgrp) ∧
    (2 ^ 16 ≤ n → fault .syXtrig) ∧
    (n < 2 ^ 16 → ∃ t, exec .syXtrig s = .next t ∧ s.sameBytes t ∧ s.sameRegisters t ∧
      ∀ j < 16, s.hasDomain j = true → s.partitionOf j = s.partitionOf g.slot → ∀ site ∈ s.domainSites j,
        (s.tile site).groups &&& b.setWidth 16 ≠ 0 →
        ∃ c ∈ (t.tile site).groupHaltAt, (s.domain j).pulses < c ∧ c ≤ (s.domain j).pulses + 64) ∧
    (n < 2 ^ 32 → writes .syWdog (.watchdog n)) ∧ (2 ^ 32 ≤ n → fault .syWdog) ∧
    (n < 40 → lands .syFusr 4 (s.mmc.fuses.getD n 0)) ∧ (40 ≤ n → n < 64 → lands .syFusr 4 0) ∧ (64 ≤ n → fault .syFusr)) ∧
  (∀ s : State, s.firing [.sh] →
    let g := s.trigOf [.sh]
    let u := s.tile g.site
    let i := if g.b.getLsbD 16 then u.sh.idx.toNat % 65536 else g.b.toNat
    let now := (s.domain g.slot).dcc
    let fault (j : Instr) : Prop := exec j s = .next (g.fault s 0x200D g.b u.sh.o1)
    let done (j : Instr) (f : Tile → Tile) : Prop := ∃ t, exec j s = .next t ∧ s.sameBytes t ∧ (∀ k, k ≠ g.site → t.tile k = s.tile k) ∧
      (∀ k, t.domain k = s.domain k) ∧
      t.tile g.site = if g.b.getLsbD 16 then { f u with sh := { (f u).sh with idx := (f u).sh.idx + 1 } } else f u
    let shadow (f : Captured → Captured) (t : Tile) : Tile := { t with shadow := f t.shadow }
    (2 ^ 17 ≤ g.b.toNat → fault .shRd ∧ fault .shWr ∧ fault .shInj ∧ fault .shClr) ∧
    (g.b.toNat < 2 ^ 17 →
      done .shRd (fun t => t.launchResult .sh ⟨g.cyc + 1, some (.s (s.shadowRead g.slot g.site i)), none, 0, false, none⟩) ∧
      (shWritable i u.sh.o1 = true → done .shWr fun t => t.shadowWrite s.nextId g.site now i u.sh.o1) ∧ (shWritable i u.sh.o1 = false → fault .shWr) ∧
      (∀ q k, shEntry i = some (q, k) → done .shInj (shadow fun c => c.inject q k now)) ∧ (shEntry i = none → fault .shInj) ∧
      (∀ x, shClear i = some x → done .shClr (shadow fun c => c.clear x)) ∧ (shClear i = none → fault .shClr))) ∧
  ∀ (s : State) (slot site : Nat),
    let u := s.tile site
    (∀ w < 16, s.shadowRead slot site w = u.record.getD w 0) ∧ s.shadowRead slot site (2048 * 2) = u.shadow.ia.o1 ∧
    s.shadowRead slot site (2048 * 2 + 32) = u.shadow.ia.o2 ∧ s.shadowRead slot site (2048 * 2 + 96) = u.shadow.ia.q0 ∧
    (∀ w < 32, s.shadowRead slot site (2048 * 8 + w) = u.shadow.va.o1.lane (2 * w + 1) ++ u.shadow.va.o1.lane (2 * w)) ∧
    s.shadowRead slot site (2048 * 12) = u.shadow.la.o1

/-- The catwalk carries messages (spec/11 R222, R227, spec/23 R404): the first message of a send buffer leaves it once its wait is over and what it
waits for has performed; a message at its tile takes lines of its queue and waits while it has no room; the first time it finds none, and when its queue
can never hold it, in which case it is discarded, the tile takes a queue-overflow trap (R227, spec/20 R364). Then its lines perform one by one, in
ascending order, which is the model's choice (notes/assumptions/15.md), each in a cycle in which nothing else uses its bank (spec/10 R200), and change
nothing else, and with the last the message has arrived; an install message writes two bundles of its tile and nothing else. -/
def Obligations.CatwalkEvents : Prop :=
  (∀ (s : State) (slot site id : Nat) (rest : List Nat), s.slotOf site = some slot → (s.tile site).sv.sendBuffer = id :: rest →
    (∀ m, s.message id = some m → (s.takable id = true ↔ m.takeAt = 0 ∧ s.departs m.waits = true)) ∧
    (s.takable id = false → exec (.sendBufferRelease site) s = .next s) ∧
    (s.takable id = true → ∃ t, exec (.sendBufferRelease site) s = .next t ∧ s.sameBytes t ∧ s.sameRegisters t ∧
      (t.tile site).sv.sendBuffer = rest.filter (fun k => k ≠ id) ∧ t.messages.map (·.id) = s.messages.map (·.id) ∧
      (∀ m ∈ t.messages, m.head = id → m.taken = true) ∧ ∀ m ∈ t.requests, m.id = id → m.taken = true)) ∧
  ∀ (s : State) (m : Message), s.message m.id = some m →
    let q := (s.tile m.dst).sv.rx m.channel
    let words := m.header :: m.flits
    let arrives : Instr := .catwalkMessageArrival m.id
    (1 ≤ m.channel → m.channel ≤ 3 → m.placed = false → 1 ≤ q.z → m.lines ≤ q.free → m.lines ≤ q.size → ∃ t, exec arrives s = .next t ∧
      s.sameBytes t ∧ s.sameRegisters t ∧ t.message m.id = some { m with held := false, placed := true } ∧
      (t.tile m.dst).sv.rx m.channel =
        { q with tail := (q.tail + m.lines) % q.size, messages := q.messages ++ [⟨q.tail, m.lines, false, m.header, m.id, m.rest⟩] }) ∧
    (m.placed = false → m.held = true → q.z = 0 ∨ (q.free < m.lines ∧ m.lines ≤ q.size) → exec arrives s = .next s) ∧
    (∀ slot, s.slotOf m.dst = some slot → m.placed = false → m.held = false → q.z = 0 ∨ (q.free < m.lines ∧ m.lines ≤ q.size) →
      ∃ t, exec arrives s = .next (t.raiseBare slot m.dst 0x6001 (BitVec.ofNat 64 m.channel) m.header []) ∧ s.sameBytes t ∧
        (∀ k, t.tile k = s.tile k) ∧ (∀ k, t.domain k = s.domain k) ∧ t.message m.id = some { m with held := true }) ∧
    (∀ slot, s.slotOf m.dst = some slot → m.placed = false → 1 ≤ q.z → q.size < m.lines →
      ∃ t, exec arrives s = .next (t.raiseBare slot m.dst 0x6001 (BitVec.ofNat 64 m.channel) m.header []) ∧ s.sameBytes t ∧
        (∀ k, t.tile k = s.tile k) ∧ (∀ k, t.domain k = s.domain k) ∧ t.message m.id = none) ∧
    (m.placed = true → s.memoryCanonical → 1 ≤ m.channel → m.channel ≤ 3 → ∀ x, q.messages.find? (fun y => y.id == m.id) = some x →
      let off := q.base + 64 * ((x.line + m.written) % q.size)
      (s.bankTaken m.dst off 64 = true → exec arrives s = .next s) ∧
      (s.bankTaken m.dst off 64 = false → ∃ t, exec arrives s = .next t ∧ s.sameBytesOutside t (sramAddr m.dst off) 64 ∧
        (∀ k < 8, ∀ w, words[8 * m.written + k]? = some w → t.read64 (sramAddr m.dst off + 8 * k) = w) ∧
        (m.written + 1 < x.lines → ∃ n, t.message m.id = some { m with written := m.written + 1, writeAt := n }) ∧
        (x.lines ≤ m.written + 1 → t.message m.id = none ∧
          ((t.tile m.dst).sv.rx m.channel).messages = q.messages.map fun y => if y.id = m.id then { y with arrived := true } else y))) ∧
    (m.isInstall = true → s.memoryCanonical →
      let a := istoreAddr m.dst (128 * (m.header.toNat % 1024))
      ∃ t, exec (.installMessage m.id) s = .next t ∧ t.message m.id = none ∧ s.sameBytesOutside t a 256 ∧
        ∀ (k : Nat) (h : k < m.flits.length), t.read64 (a + 8 * k) = m.flits[k]) ∧
    (m.isInstall = false → exec (.installMessage m.id) s = .next s)

/-! ### Engine events -/

/-- A command's course (spec/11 R234 to R237, R239, R241 to R247, spec/10 R208, R214): a timed command is accepted when its beats are right, its
start is not past, its slot is free and no earlier command holds a window of it, and is a slip otherwise; it starts at S, held up by no busy slot that it
waits on; a window goes to the one access that waits for it; sectors and lines perform, untimed lines waiting for their bank: gathers fetch what their
indices name, walks draw their vertices, reductions combine each element, barrier words are set, lowered while live, and read; the pool gives, keeps and
takes back its barriers; the oldest reply lands with what it acquires; a copy that is over, or that its endpoint reports done (spec/13 R270), frees its number, and its interrupt is pending where its task runs. -/
def Obligations.EngineEvents : Prop :=
  (∀ (s : State) (slot id : Nat) (c : Command), (s.domain slot).command id = some c →
    let d := s.domain slot
    let accept : Instr := .dmCommandAcceptance slot id
    let start : Instr := .timedCommandStart slot id
    let c1 := { c with table := s.rangeTable slot c.supTable, rank := s.nextId }
    let s1 := s.fresh
    let meets (o : Command) (stack engine k : Nat) : Prop := o.id ≠ c.id ∧ o.busyAt c.startAt = true ∧ o.sameSlot stack engine k = true
    (c.phase = .delivery → c.form.timed = true → c.loose = false → ∀ ps, s1.acceptOperands slot c1 = .ok ps →
      let x := (c1.fix ps).1
      let b := (c1.fix ps).2
      let slip (cause : Nat) : Prop := exec accept s = .next (s1.failCommand slot x cause (BitVec.ofNat 64 (unbiased c.startAt d.sigma)) b)
      (cmdBeats c.word ≠ b → slip 0x3005) ∧ (cmdBeats c.word = b → c.startAt < d.dcc → slip 0x3002) ∧
      (cmdBeats c.word = b → d.dcc ≤ c.startAt →
        ((∃ o ∈ d.commands, meets o c.stack c.form.engine (cmdSlot c.word)) → slip 0x3004) ∧
        ((∀ o ∈ d.commands, ¬meets o c.stack c.form.engine (cmdSlot c.word)) →
          (d.windowHolder x = none → exec accept s = .next (s1.putCommand slot { x with phase := .accepted, busyUntil := c.startAt + b })) ∧
          (∀ o w, d.windowHolder x = some (o, w) → o ∈ d.commands ∧ o.id ≠ c.id ∧ (o.phase = .accepted ∨ o.phase = .started) ∧
            exec accept s = .next (s1.failCommand slot x 0x3007 (BitVec.ofNat 64 w) ((if refreshWindow w then 2 ^ 63 else 0) + s.flat slot o.site))) ∧
          ∀ o ∈ d.commands, ∀ k ∈ x.blocks, o.id ≠ c.id → o.phase = .accepted ∨ o.phase = .started →
            o.claims k.stack (locChannel k.loc) k.window = true → d.windowHolder x ≠ none))) ∧
    (c.phase = .delivery → c.form ∉ [DmForm.poolget, .poolrel, .ucopy] → c.toPool = false → ∀ p r, s1.acceptOperands slot c1 = .error (p, r) →
      exec accept s = .next (s1.failCommand slot c1 0x2005 p r)) ∧
    (c.phase = .accepted →
      (cmdWaits c.word = false ∨ (∀ o ∈ d.commands, ¬meets o c.stack (cmdWaitEngine c.word) (cmdWaitSlot c.word)) →
        exec start s = .next (s.putCommand slot { c with phase := .started })) ∧
      (cmdWaits c.word = true → (∃ o ∈ d.commands, meets o c.stack (cmdWaitEngine c.word) (cmdWaitSlot c.word)) →
        exec start s = .next (s.failCommand slot c 0x3003 (BitVec.ofNat 64 (unbiased c.startAt d.sigma)) (c.busyUntil - c.startAt)))) ∧
    (∀ sector b, c.phase ≠ .untimed → c.form ∈ [DmForm.copy, .copy2, .ovl, .conv, .fabric] → c.blocks[sector / 8]? = some b →
      let a := (b.sectorSpan (sector % 8)).1
      let n := (b.sectorSpan (sector % 8)).2
      (sector / 8 < c.split → s.hbmBad a = false → exec (.hbmSectorPerform slot id sector) s =
        .next (s.putCommand slot { c with buffer := Table.put c.buffer (8 * (sector / 8) + sector % 8) (s.readBytes a n) })) ∧
      ∀ bs, c.split ≤ sector / 8 → c.outBytes b (sector / 8) (sector % 8) = some bs → s.checkWrite a n = .fine → s.memoryCanonical →
        ∃ t, exec (.hbmSectorPerform slot id sector) s = .next t ∧ t.readBytes a bs.length = bs ∧ s.sameBytesOutside t a bs.length ∧
          s.sameRegisters t) ∧
    (∀ line site off len, c.phase ≠ .untimed → c.form ≠ .ovl →
      (s.losers.contains (3, c.id, line) = true → exec (.engineSramLinePerform slot id line) s = .next s) ∧
      (s.losers.contains (3, c.id, line) = false → c.linePlace line = some (site, off, len, true) → ∀ bs, c.lineBytes line = some bs →
        bs.length = len → s.memoryCanonical → ∃ t, exec (.engineSramLinePerform slot id line) s = .next t ∧ s.sameRegisters t ∧
          t.readBytes (sramAddr site off) len = bs ∧ s.sameBytesOutside t (sramAddr site off) len)) ∧
    (∀ line w site off len, c.phase = .untimed → c.need = .line w site off len → s.bankTaken site off len = true →
      exec (.engineSramLinePerform slot id line) s = .next s) ∧
    -- index and value lines (R241, R243)
    (∀ line site off len, c.phase ≠ .untimed → c.form ∈ [DmForm.gath, .radd, .rmin, .rmax] → s.losers.contains (3, c.id, line) = false →
      c.linePlace line = some (site, off, len, false) → s.sramBad site off len = false →
      let bs := s.readBytes (sramAddr site off) len
      let values := if c.form = .gath then 0 else c.valueLines
      ∃ t x, exec (.engineSramLinePerform slot id line) s = .next t ∧ s.sameBytes t ∧ s.sameRegisters t ∧ (t.domain slot).command id = some x ∧
        (line < values → x.buffer = Table.put c.buffer line bs ∧ x.index = c.index) ∧
        (values ≤ line → x.buffer = c.buffer ∧
          x.index = c.index ++ (List.range (len / 4)).map fun j => (16 * (line - values) + j, leNat ((bs.drop (4 * j)).take 4)))) ∧
    -- a timed gather fetches a sector (R241)
    (∀ q, c.phase ≠ .untimed → c.form = .gath →
      let i := Table.at c.index 0 q
      (∀ p, s.translateElement slot c c.o1 (32 * i) 32 false true = .ok p → s.hbmBad (hbmLoc (ptrSpace c.o1) p) = false →
        exec (.hbmSectorPerform slot id q) s = .next (s.putCommand slot
          { c with buffer := Table.put c.buffer (c.indexLines + q) (s.readBytes (hbmLoc (ptrSpace c.o1) p) 32) })) ∧
      ∀ r, s.translateElement slot c c.o1 (32 * i) 32 false true = .bad r →
        exec (.hbmSectorPerform slot id q) s = .next (s.commandFault slot c 0x4001 (c.o1 + BitVec.ofNat 64 (32 * i)) r)) ∧
    -- a timed reduction reads an element and writes it back (R243); after a failed translation no later element is applied
    (∀ k, c.phase ≠ .untimed → c.form ∈ [DmForm.radd, .rmin, .rmax] →
      let w := c.args.width
      let reads : Instr := .hbmSectorPerform slot id (2 * k)
      let writes : Instr := .hbmSectorPerform slot id (2 * k + 1)
      (c.bad ≠ [] → exec reads s = .next s ∧ exec writes s = .next s) ∧
      (∀ r, c.bad = [] → s.reduceAddress slot c k = .bad r → exec reads s = .next
        ((s.commandFault slot c 0x4001 (c.o1 + BitVec.ofNat 64 (w * c.elementIndex k)) r).putCommand slot { c with bad := [k] })) ∧
      ∀ p, c.bad = [] → s.reduceAddress slot c k = .ok p →
        let b := accessBlock (ptrSpace c.o1) p w
        let a := b.loc + b.lo
        (s.hbmBad a = false → exec reads s = .next (s.putCommand slot { c with buffer := Table.put c.buffer (2 ^ 20 + k) (s.readBytes a w) })) ∧
        ∀ old v, Table.find c.buffer (2 ^ 20 + k) = some old → c.valueBytes k = some v →
          (s.liveBarrier a = true → exec writes s = .next (s.commandFault slot c 0x4004 (BitVec.ofNat 64 (p / 32 * 32)) 2)) ∧
          (s.checkWrite a w = .fine → s.memoryCanonical → ∃ t,
            let new := reduceElement c.form c.args.reduceCode old v
            exec writes s = .next t ∧ s.sameRegisters t ∧ t.readBytes a new.length = new ∧ s.sameBytesOutside t a new.length)) ∧
    -- a loose command writes a line: gathered sectors, vertices of walks, bytes of a copy (R241, R242, R245)
    (∀ line site off len, c.phase = .untimed → c.need = .line true site off len → s.bankTaken site off len = false →
      s.sramPartial site off len = false → s.memoryCanonical →
      let bs := if c.form = .gathl then
          (let u := c.fullLine.getD 0
           (Table.find c.buffer (2 * u)).getD [] ++ (Table.find c.buffer (2 * u + 1)).getD [])
        else if c.form = .walk then c.index.flatMap fun x => leBytes 4 x.2
        else (c.buffer.flatMap (·.2)).take c.chunk
      ∃ t, exec (.engineSramLinePerform slot id line) s = .next t ∧ s.sameRegisters t ∧ t.readBytes (sramAddr site off) bs.length = bs ∧
        s.sameBytesOutside t (sramAddr site off) bs.length) ∧
    -- the sectors of a granted window
    ∀ b k, c.phase = .untimed → c.need = .block b true →
      let sector : Instr := .hbmSectorPerform slot id k
      let a := (b.sectorSpan k).1
      let n := (b.sectorSpan k).2
      let fails (cause r : Nat) : Prop := exec sector s = .next (s.failCommand slot c cause (b.sectorPhys k) r)
      -- gathl takes what its indices ask of the sector (R241)
      (c.form = .gathl → s.hbmBad a = false → 32 * k + 32 < b.hi → ∃ t x, exec sector s = .next t ∧ s.sameBytes t ∧ s.sameRegisters t ∧
        (t.domain slot).command id = some x ∧ ∀ q j p, (q, j) ∈ c.index → q ∈ c.work →
          s.translateElement slot c c.o1 (32 * j) 32 false false = .ok p → p / 32 % 8 = k →
          (q, s.readBytes (b.loc + 32 * k) 32) ∈ x.buffer ∧ ∀ i, (q, i) ∉ x.index) ∧
      -- walk: of the row offsets lo and hi it draws an entry of the column array, and takes the vertex that it holds (R242)
      (c.form = .walk → s.hbmBad a = false → c.blocks = [] → b.hi ≤ 32 * k + 32 →
        let g := c.args
        let walk := c.work.getD 0 0
        let data := c.buffer.flatMap (·.2) ++ s.readBytes a n
        let reported (w7 : Nat) : Prop := ∃ t, exec sector s = .next t ∧ s.sameBytes t ∧ s.sameRegisters t ∧
          (t.tile c.site).event = ((s.commandFault slot c 0x4003 (BitVec.ofNat 64 w7) walk).tile c.site).event
        let lo := leNat (data.take 8)
        let hi := leNat (data.drop 8)
        (c.progress = 2 → hi < lo → reported (c.work.getD 2 0)) ∧
        (c.progress = 2 → lo < hi →
          let x := (mix c.draw.key (mixBlock 2 c.draw.stream c.draw.member (BitVec.ofNat 40 (g.e0 + walk * g.steps + c.work.getD 1 0 - 1)))).toNat % 2 ^ 32
          ∀ p, s.translateElement slot c (g.d 0) (4 * (lo + x * (hi - lo) / 2 ^ 32)) 4 false false = .ok p →
            ∃ t y b' rest, exec sector s = .next t ∧ s.sameBytes t ∧ s.sameRegisters t ∧ (t.domain slot).command id = some y ∧ y.progress = 3 ∧
              blocksOf (ptrSpace (g.d 0)) p 4 0 = b' :: rest ∧ y.need = .block b' false) ∧
        (c.progress = 3 → g.vertices ≤ leNat data → reported (leNat data)) ∧
        (c.progress = 3 → leNat data < g.vertices →
          let place := (g.steps + 1) * walk + c.work.getD 1 0
          (c.off + 4 * (place + 1)) % 64 = 0 ∨ (g.steps + 1) * g.walks ≤ place + 1 →
          ∃ t y, exec sector s = .next t ∧ s.sameBytes t ∧ s.sameRegisters t ∧ (t.domain slot).command id = some y ∧
            y.index = c.index ++ [(place, leNat data)] ∧ ∃ len, y.need = .line true c.owner (c.off + 4 * (y.index.headD (0, 0)).1) len)) ∧
      -- one element of a loose reduction in its sector (R243)
      (∀ j p v, c.form ∈ [DmForm.radd, .rmin, .rmax] → c.work = [j] → s.reduceAddress slot c j = .ok p → p / 32 % 8 = k →
        s.elementFine c p = true → c.valueBytes j = some v → s.memoryCanonical →
        let e := accessBlock (ptrSpace c.o1) p c.args.width
        let new := reduceElement c.form c.args.reduceCode (s.readBytes (e.loc + e.lo) c.args.width) v
        ∃ t, exec sector s = .next t ∧ s.sameRegisters t ∧ t.readBytes (e.loc + e.lo) new.length = new ∧
          s.sameBytesOutside t (e.loc + e.lo) new.length) ∧
      -- barrier words (R246)
      (c.form ∈ [DmForm.barr, .bchk] → s.hbmBad a = false → s.liveWord a = false → fails 0x4004 1) ∧
      (c.form = .bset → s.hbmBad a = false → s.memoryCanonical → ∃ t, exec sector s = .next t ∧ s.repliesLoose t slot c none none ∧
        t.readBytes a 8 = leBytes 8 c.word.toNat ∧ s.sameBytesOutside t a 8 ∧ (t.liveWord a = true ↔ c.o2.getLsbD 4 = false)) ∧
      (c.form = .barr → s.hbmBad a = false → s.liveWord a = true → s.memoryCanonical → ∃ t, exec sector s = .next t ∧
        s.repliesLoose t slot c none none ∧ s.sameBytesOutside t a 8 ∧ t.liveWord a = true ∧
        let w := leNat (s.readBytes a 8)
        t.readBytes a 8 = leBytes 8 (if c.word.toNat ≤ w then w - c.word.toNat else 0)) ∧
      (c.form = .bchk → s.hbmBad a = false → s.liveWord a = true → ∃ t, exec sector s = .next t ∧ s.sameBytes t ∧
        s.repliesLoose t slot c (some (BitVec.ofNat 64 (leNat (s.readBytes a 8)))) none) ∧
      -- an untimed copy reads and writes by sectors, and writes over no live barrier word (R245, R246)
      (c.form = .ucopy → c.bad = [] → s.liveBarrier a = true → fails 0x4004 2) ∧
      (c.form = .ucopy → c.bad = [] → s.checkWrite a n = .fine → s.memoryCanonical →
        let bs := (((c.buffer.flatMap (·.2)).take c.chunk).drop (max b.lo (32 * k) - b.lo)).take n
        ∃ t, exec sector s = .next t ∧ s.sameRegisters t ∧ t.readBytes a bs.length = bs ∧ s.sameBytesOutside t a bs.length)) ∧
  -- what a reduction makes of an element (R243)
  (∀ (code : Nat) (g : Fmt) (old v : List Byte), Fmt.ofCode code = some g → g ≠ .f32 →
    let val (n : Nat) : Int := if g.isSigned then (BitVec.ofNat (8 * old.length) n).toInt else n
    reduceElement .radd code old v = leBytes old.length (leNat old + leNat v) ∧
    reduceElement .rmin code old v = (if val (leNat v) < val (leNat old) then v else old) ∧
    reduceElement .rmax code old v = if val (leNat old) < val (leNat v) then v else old) ∧
  -- the pool (R247)
  (∀ (s : State) (slot id : Nat) (c : Command), (s.domain slot).command id = some c → c.phase = .delivery →
    let accept : Instr := .dmCommandAcceptance slot id
    let s1 := s.fresh
    let answers (t : State) (q0 : Option Word) (pred : Option (Nat × Bool)) : Prop :=
      exec accept s = .next t ∧ s.sameBytes t ∧ s.repliesLoose t slot c q0 pred
    let bad (h : Word) : Prop := exec accept s = .next (s1.failCommand slot { c with table := s.rangeTable slot c.supTable, rank := s.nextId } 0x4005 h 3)
    let pool (t : State) (k : Nat) : Option PoolBarrier := Table.find t.pool k
    let owner := (s.partitionOf slot).getD 16
    let key := c.word.toNat % 8
    (c.form = .poolget → c.o2 = 0 →
      (s.poolQuota slot ≤ (s.pool.filter fun x => x.2.owner == owner).length ∨ (∀ k < 256, pool s k ≠ none) →
        ∃ t, answers t (some 0) (some (key, true)) ∧ t.pool = s.pool) ∧
      ∀ k < 256, (s.pool.filter fun x => x.2.owner == owner).length < s.poolQuota slot → pool s k = none → (∀ j < k, pool s j ≠ none) →
        ∃ t, answers t (some (BitVec.ofNat 64 (0x8000040000000000 + 8 * k))) (some (key, false)) ∧
          t.pool = Table.put s.pool k ⟨c.o1, 1, owner, []⟩) ∧
    (c.form = .poolget → c.o2 ≠ 0 → (pool s (poolIndex c.o2) = none → bad c.o2) ∧ ∀ x, pool s (poolIndex c.o2) = some x →
      ∃ t, answers t (some c.o2) (some (key, false)) ∧ t.pool = Table.put s.pool (poolIndex c.o2) { x with refs := x.refs + 1 }) ∧
    (c.form = .poolrel → (pool s (poolIndex c.word) = none → bad c.word) ∧ ∀ x, pool s (poolIndex c.word) = some x →
      ∃ t, answers t none none ∧ t.pool =
        if x.refs ≤ 1 then Table.drop s.pool (poolIndex c.word) else Table.put s.pool (poolIndex c.word) { x with refs := x.refs - 1 }) ∧
    (c.form ∈ [DmForm.barr, .bchk] → c.loose = true → isPoolHandle c.o1 = true → (pool s (poolIndex c.o1) = none → bad c.o1) ∧
      ∀ x, pool s (poolIndex c.o1) = some x →
        (c.form = .bchk → ∃ t, answers t (some x.count) none ∧ t.pool = s.pool) ∧
        (c.form = .barr → ∃ t y, answers t none none ∧ t.pool = Table.put s.pool (poolIndex c.o1) y ∧ y.refs = x.refs ∧ y.owner = x.owner ∧
          y.count = if c.word.toNat ≤ x.count.toNat then x.count - c.word else 0))) ∧
  (∀ (s : State) (slot stack slot' : Nat) (c : Command) (b : Block),
    let n := (s.windowCycle slot + 4) / 4
    let d := s.domain slot'
    (refreshWindow n = true → exec (.windowAllocation slot stack) s = .next s) ∧
    (s.stackHeld stack = true → exec (.windowAllocation slot stack) s = .next s) ∧
    (refreshWindow n = false → s.stackHeld stack = false → d.command c.id = some c → c.phase = .untimed → c.need = .block b false → b.stack = stack → locChannel b.loc < 64 →
      b.bank = n % 16 → (slot', d) ∈ s.domains → d.frozen = false →
      (∀ p ∈ s.domains, ∀ o ∈ p.2.commands, (o.phase = .untimed → (∃ k < 64, o.wants stack k (n % 16) = true) → p.1 = slot' ∧ o = c) ∧
        (o.phase = .accepted ∨ o.phase = .started → o.claims stack (locChannel b.loc) n = false)) →
      ∃ t, exec (.windowAllocation slot stack) s = .next t ∧ s.sameBytes t ∧ s.sameRegisters t ∧
        (t.domain slot').command c.id = some { c with need := .block { b with window := n } true })) ∧
  (∀ (s : State) (site : Nat),
    let u := s.tile site
    (∀ r rest, u.dm.replies = r :: rest → r.done = true → ∃ t, exec (.looseReplyLanding site) s = .next t ∧ s.sameBytes t ∧
      (t.tile site).known = u.known ++ r.acquired ∧
      (∀ k, k ≠ site → t.tile k = s.tile k) ∧ (t.tile site).dm.replies = rest ∧ (t.tile site).dm.q0 = r.q0.getD u.dm.q0 ∧
      (t.tile site).p = (match r.pred with | some (k, b) => (u.setPred k b).p | none => u.p)) ∧
    (∀ r rest, u.dm.replies = r :: rest → r.done = false → exec (.looseReplyLanding site) s = .next s)) ∧
  ∀ (s : State) (slot site xfer : Nat) (c : Command), s.slotOf site = some slot →
    (s.domain slot).commands.find? (fun o => o.site == site && o.form == .ucopy && o.work.contains xfer &&
      (match o.need with
        | .ending t => decide (t ≤ (s.domain slot).dcc)
        | .nothing => o.phase == .untimed && o.endpoint != 0 && decide (o.copyLength ≤ o.progress)
        | _ => false)) = some c →
    c.work = [xfer] → (∀ x ∈ (s.unit slot).away, ∀ k ∈ x.copies, k.id ≠ c.id) →
    let u := s.tile site
    let ctl := c.block.getD 3 0
    ∃ t, exec (.ucopyCompletion site xfer) s = .next t ∧ s.sameBytes t ∧ s.sameRegisters t ∧ (t.domain slot).command c.id = none ∧
      (t.tile site).dm.copies = u.dm.copies.erase xfer ∧
      (t.tile site).irqs = if ctl.getLsbD 10 && s.taskRuns slot c then u.irqs ++ [⟨xfer, ctl.toNat % 1024⟩] else u.irqs

/-! ### Piers and the desk -/

/-- Piers and the desk (spec/01 R24, spec/15 R303, R304, R305, R306): at a release every waiting tile is timed again and starts its next bay, and
halted tiles stay; the watchdog's expiry is a progress fault of the lowest-numbered tile that has not arrived; a mark or request leaves for the desk;
a request whose quantum every tile has passed is granted min(n, left) items from the next one on, in a reply that keeps its place among the tile's
replies (spec/15 R297), and one that not every tile has passed waits; a mark stands in place of its tile's earlier one of the same kind, and what it was
the last to pass is served. -/
def Obligations.PierAndDesk : Prop :=
  (∀ (s : State) (slot : Nat), (s.domainSites slot).Nodup →
    let d := s.domain slot
    ∃ t, exec (.pierRelease slot) s = .next t ∧ s.sameBytes t ∧ s.sameRegisters t ∧ (∀ k, k ∉ s.domainSites slot → t.tile k = s.tile k) ∧
      (∀ k ∈ s.domainSites slot, t.tile k = if (s.tile k).arrived then { s.tile k with
        arrived := false, loose := false, bay := (s.tile k).bay + 1, bayStart := d.dcc, retired := 0, broken := false }
        else { s.tile k with broken := false }) ∧
      t.domain slot = { d with
        pier := { d.pier with firstArrival := none, releaseAt := none, allArrived := none, others := [] }, realignFrom := d.dcc, brokenSince := none }) ∧
  (∀ (s : State) (slot : Nat),
    let d := s.domain slot
    let late := (s.domainSites slot).find? fun k => !((s.tile k).arrived || (s.tile k).halted)
    (∀ a site, d.pier.firstArrival = some a → late = some site → exec (.pierWatchdogExpiry slot) s =
      .next (s.raiseBare slot site 0x300E (BitVec.ofInt 64 (a - (d.sigma : Int))) (BitVec.ofNat 64 d.pier.watchdog) [])) ∧
    (d.pier.firstArrival = none ∨ late = none → exec (.pierWatchdogExpiry slot) s = .next s)) ∧
  (∀ (s : State) (slot : Nat) (mark : DeskMark), ∃ t m, exec (.quantumMark slot mark) s = .next t ∧ s.sameBytes t ∧
    (∀ k, t.tile k = s.tile k) ∧ t.requests = s.requests ++ [m] ∧ m.site = s.cur.site ∧ m.slot = slot ∧ m.request = .desk mark ∧
    m.buffered = false) ∧
  ∀ (s : State) (slot tile bay q n : Nat) (m : UnitMessage),
    let x := (s.domain slot).desk
    let passed : Prop := ∀ k ∈ s.domainSites slot, ∃ o ∈ x.marks, o.tile = s.flat slot k ∧ o.passes bay q = true
    (s.deskHead slot = none → exec (.deskStep slot) s = .next s) ∧
    (s.deskHead slot = some (m, .request tile bay q n) → x.requests = [] →
      ∃ t, exec (.deskStep slot) s = .next t ∧ s.sameBytes t ∧ (∀ k, t.tile k = s.tile k) ∧ t.requests = s.requests.filter (fun o => o.id ≠ m.id) ∧
        let carried := (t.domain slot).desk.carried
        (¬passed → (t.domain slot).desk = { x with requests := [⟨tile, bay, q, n⟩], carried := carried } ∧ t.messages = s.messages) ∧
        (passed →
          let g := min n (x.pool - x.next)
          (t.domain slot).desk = { x with next := x.next + g, carried := carried } ∧
          ∀ site, s.siteOfFlat slot (tile % 8192) = some site →
            s.repliesTo t slot site true (BitVec.ofNat 32 g) (BitVec.ofNat 64 x.next))) ∧
    -- a mark of a tile replaces its earlier one of the same kind, and serves what waited for it (R304, R305)
    (∀ mark : DeskMark, s.deskHead slot = some (m, mark) → (∀ t b k i, mark ≠ .request t b k i) →
      let marks := (x.marks.filter fun o => !(o.tile == mark.tile && sameKind o mark)) ++ [mark]
      let pass (b k : Nat) : Prop := ∀ site ∈ s.domainSites slot, ∃ o ∈ marks, o.tile = s.flat slot site ∧ o.passes b k = true
      ∃ t, exec (.deskStep slot) s = .next t ∧ s.sameBytes t ∧ (∀ k, t.tile k = s.tile k) ∧ t.requests = s.requests.filter (fun o => o.id ≠ m.id) ∧
        let y := (t.domain slot).desk
        y.marks = marks ∧ y.pool = x.pool ∧
        (∀ b k, x.nextQuantum = some (b, k) → ¬pass b k → y.requests = x.requests ∧ y.next = x.next ∧ t.messages = s.messages) ∧
        (x.requests = [] → y.requests = [] ∧ y.next = x.next ∧ t.messages = s.messages) ∧
        ∀ r, x.requests = [r] → pass r.bay r.quantum →
          let g := min r.items (x.pool - x.next)
          y.requests = [] ∧ y.next = x.next + g ∧ ∀ site, s.siteOfFlat slot (r.tile % 8192) = some site →
            s.repliesTo t slot site true (BitVec.ofNat 32 g) (BitVec.ofNat 64 x.next)) ∧
    (∀ b k, (DeskMark.passed tile b k).passes bay q = true ↔ bay < b ∨ (b = bay ∧ q ≤ k)) ∧
    (∀ b, (DeskMark.parked tile b).passes bay q = true ↔ bay ≤ b) ∧ ∀ b, (DeskMark.ended tile b).passes bay q = true

/-! ### Faults, freezes and their end -/

/-- Taking a fault (spec/20 R361, R362): outside a frozen domain the first event of a tile is kept with its cause, cycle and details, the tile stops
unless its cause lets it run on, the domain's freeze is fixed 40 cycles on if none is (before the end of a debug step that falls later, spec/21 R385),
and no register and no byte changes; a second event only counts, unless it is of the same cycle and goes before; a supervisor's fault in a frozen
domain, or one in boot state, wedges its tile instead. In the drain of a pre-emption the freeze is kept with the context, which is the model's reading of
spec/21 R382 (notes/assumptions/87.md); in that of a
cancel nothing but the archive changes (spec/15 R416). -/
def Obligations.TakingAFault : Prop :=
  ∀ (s : State) (slot site : Nat) (o : Origin) (cause : Nat) (value w7 w15 : Word) (copy : List Word),
    let d := s.domain slot
    let u := s.tile site
    let t := s.raiseValue slot site o cause value w7 w15 copy
    let e : Event := ⟨cause, o.slot, d.dcc, o.bundle, o.sup, !u.loose, o.cycle, o.bay, o.offset, value, w7, copy, w15⟩
    let runsOn : Prop := cause / 0x1000 = 6 ∨ cause = 0x5005 ∨ cause = 0x5006 ∨ cause = 0
    s.sameBytes t ∧ s.sameRegisters t ∧ (∀ k, k ≠ site → t.tile k = s.tile k) ∧ (∀ k, k ≠ slot → t.domain k = s.domain k) ∧
    (d.boot = true ∨ (d.frozen = true ∧ o.sup = true) → t.tile site = { u with wedged := true } ∧ t.domain slot = d) ∧
    (d.boot = false → d.frozen = false ∨ o.sup = false →
      let detected : Prop :=
        (u.event = none → (t.tile site).event = some e ∧ (t.tile site).later = u.later) ∧
        (∀ k, u.event = some k → (t.tile site).later = min 255 (u.later + 1) ∧
          (t.tile site).event = some (if k.due = d.dcc ∧ e.before k = true then e else k)) ∧
        ((t.tile site).stopped = true ↔ u.stopped = true ∨ ¬runsOn) ∧
        (u.stopped = false → ¬runsOn → (t.tile site).stoppedAt = d.dcc)
      let plan : FreezePlan := ⟨d.dcc, d.dcc + 40, s.flat slot site, cause, 0, .fault⟩
      (d.draining = none → detected ∧ (d.plan = none → t.domain slot = { d with plan := some plan }) ∧
        ∀ q, d.plan = some q → t.domain slot =
          if d.stepUntil ≠ none ∧ d.dcc + 40 < q.due then { d with plan := some plan, stepUntil := none } else d) ∧
      ∀ x, d.draining = some x → (x.cancel = true → t.tile site = u ∧ t.domain slot = d) ∧
        (x.cancel = false → detected ∧ t.domain slot = { d with draining := some { x with plan := some (x.plan.getD plan) } }))

/-- Entry and return (spec/20 R361, R363, spec/21 R372, R374, R378, R381, R386): at F every tile of the domain saves its context in the shadow, takes
its record and issues from index 960 in its supervisor context four service cycles later; the return gives each its sockets back at DCC F, at once
with the domain, a debug step fixing the next freeze there (spec/21 R385), and flags that landed at F join fflags in the cycle after (spec/05 R96). A
halt reaches a member of a raised group as its detection, the last cycle in which it issues, at whose end it enters alone, unless it keeps an event of
its own; in a supervisor context it only counts. While the domain is frozen or drains, the halt waits (the model's choice, notes/assumptions/94.md). No byte and no user register changes. -/
def Obligations.FreezeAndReturn : Prop :=
  (∀ (s : State) (slot : Nat) (p : FreezePlan), (s.domainSites slot).Nodup → (s.domain slot).plan = some p →
    (s.domain slot).frozen = false → p.use ≠ .cancel →
    let d := s.domain slot
    ∃ t, exec (.freeze slot) s = .next t ∧ s.sameBytes t ∧ (∀ k, k ∉ s.domainSites slot → t.tile k = s.tile k) ∧
      (t.domain slot).frozen = true ∧ (t.domain slot).plan = none ∧ (t.domain slot).dcc = d.dcc ∧
      ∀ k ∈ s.domainSites slot,
        let u := s.tile k
        let x := t.tile k
        x.inSup = true ∧ x.sup = { Thread.reset with pc := 960 } ∧ x.supFrom = d.pulses + 4 ∧ x.user = u.user ∧ x.event = none ∧
        (u.inSup = false → x.shadow = u.cap ∧ x.cap = u.shadow) ∧
        (x.s, x.v, x.p, x.m, x.z, x.ns, x.tables) = (u.s, u.v, u.p, u.m, u.z, u.ns, u.tables) ∧
        x.id = (if u.inSup = true then u.id else { u.id with landed := 0, landedAtF := u.id.landed }) ∧
        (d.mergedDebug = true ∨ p.use = .debug → x.debugHeld = true) ∧
        (∀ e, u.event = some e → (∀ w : Fin 16, x.record[w] = match w.val with
          | 0 => recordHead e.cause (min 255 (u.later + p.stops)) e.slot true e.sup e.timed e.bundle u.user.next
          | 1 => BitVec.ofNat 64 (unbiased e.due d.sigma) | 2 => BitVec.ofNat 64 (unbiased p.due d.sigma)
          | 3 => if e.issue = 0 then 0 else BitVec.ofNat 64 (unbiased e.issue d.sigma)
          | 4 => BitVec.ofNat 64 (e.bay * 2 ^ 32 + e.offset % 2 ^ 32) | 5 => BitVec.ofNat 64 p.tile | 6 => e.value | 7 => e.detail
          | 15 => e.detail2 | n => e.copy.getD (n - 8) 0) ∧
          (x.loose = true ↔ u.loose = true ∨ causeRunsOn e.cause = false ∨ e.cause = 0x6003)) ∧
        (u.event = none → x.loose = u.loose ∧ x.record[0] = recordHead (if p.cause = 0x6002 then 0x6002 else 0)
          (min 255 (u.later + p.stops)) 0xFF true false (!u.loose) 0 u.user.next)) ∧
  (∀ (s : State) (slot : Nat), (s.domainSites slot).Nodup →
    let d := s.domain slot
    (s.mayResume slot = false → exec (.resumption slot) s = .next s) ∧
    (s.mayResume slot = true → d.mergedPreempt = true → ∃ flat, exec (.resumption slot) s =
      .next ((s.beginDrain slot false).mapDomain slot fun y => { y with draining := y.draining.map fun x =>
        { x with plan := d.stepUntil.map fun f => ⟨d.dcc, f, flat, 0x6002, 0, .debug⟩ } })) ∧
    (s.mayResume slot = true → d.mergedPreempt = false → d.stopNext = [] → ∃ t flat, exec (.resumption slot) s = .next t ∧ s.sameBytes t ∧
      (∀ k, k ∉ s.domainSites slot → t.tile k = s.tile k) ∧
      t.domain slot = { d with frozen := false, use := .fault, plan := d.stepUntil.map fun f => ⟨d.dcc, f, flat, 0x6002, 0, .debug⟩ } ∧
      ∀ k ∈ s.domainSites slot, (s.tile k).inSup = true →
        let u := s.tile k
        let x := t.tile k
        x.inSup = false ∧ (x.stopped = true ↔ u.stopped = true ∧ u.event.isSome = true) ∧ x.cap = u.shadow.prune ∧ x.shadow = u.cap ∧ x.user = u.user ∧
        (x.s, x.v, x.p, x.m, x.z, x.ns, x.tables, x.record) = (u.s, u.v, u.p, u.m, u.z, u.ns, u.tables, u.record) ∧
        x.id = u.id)) ∧
  (∀ (t : Tile) (d : Domain), t.inSup = false → (t.beginCycle d).id.landedAtF = 0 ∧
    (t.beginCycle d).id.landed = t.id.landedAtF) ∧
  ∀ (s : State) (site slot : Nat), s.slotOf site = some slot → (s.domainSites slot).Nodup → site ∈ s.domainSites slot →
    let d := s.domain slot
    let u := s.tile site
    let next : List Nat := u.groupHaltAt.drop 1
    let halt : Instr := .haltGroupHalt site
    (d.boot = true → exec halt s = .next (s.mapTile site fun t => { t with groupHaltAt := next })) ∧
    (d.boot = false → d.frozen = true ∨ d.draining ≠ none → exec halt s = .next s) ∧
    (d.boot = false → d.frozen = false → d.draining = none →
      (u.haltAt = none → u.inSup = true → ∃ t, exec halt s = .next t ∧ s.sameBytes t ∧ t.domain slot = d ∧
        t.tile site = { u with groupHaltAt := next, later := min 255 (u.later + 1) } ∧ ∀ k, k ≠ site → t.tile k = s.tile k) ∧
      (u.haltAt = none → u.inSup = false → ∃ t, exec halt s = .next t ∧ s.sameBytes t ∧ s.sameRegisters t ∧ (t.domain slot).plan = d.plan ∧
        (∀ k ∈ s.domainSites slot, k ≠ site → t.tile k = { s.tile k with broken := true }) ∧
        let x := t.tile site
        x.groupHaltAt = next ∧ x.haltAt = some d.dcc ∧ x.stopped = true ∧ (u.stopped = false → x.stoppedAt = d.dcc) ∧ x.inSup = false ∧
        x.broken = true ∧ (u.event = none → ∃ e, x.event = some e ∧ e.cause = 0x6003 ∧ e.due = d.dcc ∧ e.slot = 0xFF ∧ e.timed = !u.loose)) ∧
      ∀ a, u.haltAt = some a →
        ((∀ e, u.event = some e → e.cause ≠ 0x6003) → exec halt s = .next (s.mapTile site fun t => { t with haltAt := none })) ∧
        ∀ e, u.inSup = false → u.event = some e → e.cause = 0x6003 → ∃ t, exec halt s = .next t ∧ s.sameBytes t ∧ t.domain slot = d ∧
          (∀ k, k ≠ site → t.tile k = s.tile k) ∧
          let x := t.tile site
          x.inSup = true ∧ x.groupHalted = true ∧ x.sup.pc = 960 ∧ x.supFrom = d.pulses + 4 ∧ x.shadow = u.cap ∧ x.cap = u.shadow ∧
          x.loose = u.loose ∧ x.user = u.user ∧ (x.s, x.v, x.p, x.m, x.z, x.id) = (u.s, u.v, u.p, u.m, u.z, u.id) ∧
          x.record[0] = recordHead 0x6003 (min 255 u.later) e.slot true e.sup e.timed e.bundle u.user.next)

/-! ### Launch units -/

/-- The entries of a launch unit (spec/15 R282, R283, R285, R289, R291, spec/13 R271): writes to a free or armed entry take, with A set a valid one is
armed and its launch counter holds its parent alone, a free one keeps an invalid write without arming and an armed one takes none, a busy one is only
archived; a fire that its armed entry
accepts makes it wait with the cycle, the argument and the class of the fire, whether a launch runs or not, and abandons the start of one of lower
class (R293), or, cancelled, frees it; a write of 4 bytes changes its half; a passed-over candidate rises past its patience. No register or byte changes. -/
def Obligations.EntryEvents : Prop :=
  ∀ (s : State) (slot tag : Nat), slot < 16 → tag < 256 →
    let e := s.entry slot tag
    let h := launchHandle slot tag
    let same (t : State) : Prop := s.sameBytes t ∧ s.sameRegisters t ∧ ∀ k, k ≠ tag → t.entry slot k = s.entry slot k
    let becomes (i : Instr) (e' : ArmEntry) : Prop := ∃ t, exec i s = .next t ∧ same t ∧ t.entry slot tag = e'
    let armed (i : Instr) (e' : ArmEntry) : Prop := ∃ t, exec i s = .next t ∧ same t ∧ t.entry slot tag = e' ∧ t.counter h = e'.parent <<< 32
    let busy : Prop := e.state ≠ .free ∧ e.state ≠ .armed
    (∀ (index : Nat) (c : Cover) (word : Word), index < 4 →
      let write : Instr := .armingEntryWrite slot tag index c word
      -- a write of 4 bytes keeps the other half of the word, and only one that covers the upper half acts by A (spec/13 R271)
      let old := if index = 0 then e.w0 else e.word index
      let w := match c with
        | .full => word
        | .low => (old.extractLsb' 32 32 ++ word.extractLsb' 0 32 : BitVec (32 + 32))
        | .high => (word.extractLsb' 32 32 ++ old.extractLsb' 0 32 : BitVec (32 + 32))
      let e' := e.setWord index w
      let acts : Prop := index = 0 ∧ c ≠ .low
      (busy → ∃ t, exec write s = .next t ∧ same t ∧ t.units = s.units) ∧
      (¬busy → acts → w.getLsbD 60 = true →
        (∀ p, s.entryRegion slot e' = some p → armed write { e' with state := .armed, region := p }) ∧
        (s.entryRegion slot e' = none → becomes write (if e.state = .free then e' else e))) ∧
      (¬busy → acts → w.getLsbD 60 = false → becomes write { e' with state := .free }) ∧
      (¬acts → e.state = .free → becomes write e') ∧
      (¬acts → e.state = .armed → (∀ p, s.entryRegion slot e' = some p → becomes write { e' with region := p }) ∧
        (s.entryRegion slot e' = none → becomes write e))) ∧
    (∀ image : List Word,
      let e' := { ArmEntry.reset with w0 := image.getD 0 0 &&& 0x0FFFFFFFFFFFFFFF#64, w1 := image.getD 1 0, w2 := image.getD 2 0, w3 := image.getD 3 0 }
      (¬busy → ∀ p, s.entryRegion slot e' = some p → armed (.entryArm slot tag image none) { e' with state := .armed, region := p } ∧
        ∀ site, armed (.entryArm slot tag image (some site)) { e' with state := .armed, region := p }) ∧
      (busy ∨ s.entryRegion slot e' = none → becomes (.entryArm slot tag image none) e)) ∧
    (e.state = .armed →
      let d := s.domain slot
      -- a start that loses to the new candidate's class (R293)
      let loses (l : Launch) : Prop := d.launch = some l ∧ l.started = false ∧ (s.entry slot l.tag).state = .starting ∧
        (s.entry slot l.tag).cls < e.baseClass
      let waits (i : Instr) (argument : Word) : Prop :=
        (counterC (s.counter h) = false → ∃ t, exec i s = .next t ∧ s.sameBytes t ∧ s.sameRegisters t ∧ t.entry slot tag = { e with
            state := .waiting, fireDcc := d.dcc, argument := argument, cls := e.baseClass, passes := 0 } ∧
          (∀ l, loses l → t.domain slot = { d with launch := none, idleFrom := d.dcc + 1 } ∧
            t.entry slot l.tag = { s.entry slot l.tag with state := .waiting } ∧
            ∀ k, k ≠ tag → k ≠ l.tag → t.entry slot k = s.entry slot k) ∧
          ((∀ l, ¬loses l) → t.domain slot = d ∧ ∀ k, k ≠ tag → t.entry slot k = s.entry slot k)) ∧
        (counterC (s.counter h) = true → ∃ t, exec i s = .next t ∧ same t ∧ t.entry slot tag = { e with state := .free } ∧
          counterCount (t.counter h) = 0 ∧ counterC (t.counter h) = true)
      (e.source = 0 → waits (.hostFirePortWrite slot (BitVec.ofNat 64 tag)) e.w3 ∧ waits (.launchFire slot tag .port) e.w3) ∧
      (s.staged slot = false →
        (e.source = 0 → (∀ p, waits (.launchFire slot tag (.message p)) p) ∧
          ∀ site user a, (user = true → e.userFires = true) → waits (.launchFire slot tag (.svFire site user a)) a) ∧
        (e.source = 1 → waits (.launchFire slot tag .counter) e.w3))) ∧
    (e.state ≠ .armed → becomes (.launchFire slot tag .counter) e ∧ ∃ t, exec (.hostFirePortWrite slot (BitVec.ofNat 64 tag)) s = .next t ∧
      same t ∧ t.units = s.units ∧ t.host.unarmed = s.host.unarmed + 1) ∧
    becomes (.priorityPromotion slot tag) (if e.patience < e.passes + 1 ∧ e.patience < 2047 then { e with cls := min 3 (e.cls + 1), passes := 0 }
      else { e with passes := e.passes + 1 })

/-- The counters of a launch unit (spec/15 R280, R281, R295, R296, R297): cnt and cntw are answered with the counter word, cntw has written the count
and the parent and cleared F and C; a decrement leaves one less and its marks, or F at 0, and one that reaches 0 propagates; a counter that reached 0
decrements its parent in that cycle where the parent's launch unit is awake, and fires the armed entries that name it, unless C is set; a cancel sets C,
frees a waiting or armed entry, and one already cancelled changes nothing. -/
def Obligations.CounterEvents : Prop :=
  ∀ (s : State) (slot : Nat) (handle : Word), handleSlot handle = slot → handle.toNat < 2 ^ 16 →
    let u := s.unit slot
    let w := u.counter handle
    let n := counterCount w
    let same (t : State) : Prop := s.sameBytes t ∧ s.sameRegisters t
    let answered (r : UnitRequest) (t : State) (site label : Nat) (flit : Word) : Prop :=
      (s.dropRequestOf slot site r).repliesTo t slot site false (BitVec.ofNat 32 label) flit
    (∀ site, ∃ t, exec (.counterReadRequest slot handle site) s = .next t ∧ same t ∧ t.units = s.units ∧
      answered (.cnt handle) t site 0x01060000 w) ∧
    (∀ site word, ∃ t, exec (.counterWriteRequest slot handle word site) s = .next t ∧ same t ∧
      (t.unit slot).counter handle = word &&& 0x0000FFFFFFFFFFFF#64 ∧
      answered (.cntw handle word) t site 0x01070000 (word &&& 0x0000FFFFFFFFFFFF#64)) ∧
    (u.zeroedNow.find? (fun z => z.1 == handle) = none → ∀ p f c, u.decrementsNow.find? (fun z => z.1 == handle) = some (p, f, c) →
      ∃ t w', exec (.counterZeroPropagation slot handle) s = .next t ∧ same t ∧ (t.unit slot).counter handle = w' ∧
        counterCount w' = n - 1 ∧ counterParent w' = counterParent w ∧
        (counterF w' = true ↔ counterF w = true ∨ (if n = 0 then True else f = true)) ∧
        (counterC w' = true ↔ counterC w = true ∨ c = true) ∧
        (t.unit slot).zeroed = if n = 1 then u.zeroed ++ [(handle, w')] else u.zeroed) ∧
    (∀ x, u.zeroedNow.find? (fun z => z.1 == handle) = some (handle, x) →
      ∃ t, exec (.counterZeroPropagation slot handle) s = .next t ∧ same t ∧ (t.unit slot).zeroedNow = u.zeroedNow.erase (handle, x) ∧
        (counterParent x = 0 → ∀ k, (t.unit slot).counter k = u.counter k) ∧ (counterC x = true → (t.unit slot).fires = u.fires) ∧
        (counterC x = false → ∀ tag e, (tag, e) ∈ u.entries → e.state = .armed → e.source = 1 → e.predecessor = handle →
          (tag, FireSource.counter) ∈ (t.unit slot).fires)) ∧
    (∀ x, u.zeroedNow.find? (fun z => z.1 == handle) = some (handle, x) →
      let p := counterParent x
      p ≠ 0 → s.unitAwake (handleSlot p) = true → (s.domain (handleSlot p)).frozen = false → ∃ t,
        exec (.counterZeroPropagation slot handle) s = .next t ∧ same t ∧
        t.counter p = if counterCount (s.counter p) = 0 then counterMark (s.counter p) true (counterC x)
          else counterMark (counterWith (s.counter p) (counterCount (s.counter p) - 1)) (counterF x) (counterC x)) ∧
    (∀ i ∈ [Instr.cancel slot handle none, .hostCancelPortWrite slot handle], handleOk handle = true →
      (counterC w = true → exec i s = .next s) ∧
      (counterC w = false → handleLevel handle ≠ 0 → s.cancelled slot handle = [] → ∃ t, exec i s = .next t ∧ same t ∧
        counterC (t.counter handle) = true ∧ counterCount (t.counter handle) = n ∧ ∀ k tag, t.entry k tag = s.entry k tag) ∧
      (counterC w = false → handleLevel handle = 0 → s.cancelled slot handle = [(slot, handleIndex handle)] →
        let e := s.entry slot (handleIndex handle)
        e.state = .armed ∨ e.state = .waiting → ∃ t, exec i s = .next t ∧ same t ∧
          t.entry slot (handleIndex handle) = { e with state := .free } ∧ counterC (t.counter handle) = true ∧
          counterCount (t.counter handle) = 0)) ∧
    ∀ site, counterC w = true → ∃ t, exec (.cancel slot handle (some site)) s = .next t ∧ same t ∧ t.units = s.units ∧
      answered (.cancel handle) t site 0x01080003 (if handleLevel handle = 0 then (s.entry slot (handleIndex handle)).word0 else w)

/-! ### Launches -/

/-- A launch's course (spec/15 R287, R288, R289, R294, R295, spec/04 R94, R95): an idle domain selects the best candidate, whose start is 2048 cycles
on; a cycle later a bad descriptor ends it and a good one stays with it; at the start every tile of the domain holds the launch's registers and issues
from its entry; when every task has ended and nothing is open the entry is free or armed again and the domain is idle from the next cycle; a cancelled
launch leaves its entry free, with C set, in a cycle after the last of its drain. -/
def Obligations.LaunchEvents : Prop :=
  ∀ (s : State) (slot : Nat), slot < 16 →
    let d := s.domain slot
    (d.launch = none → s.maySelect slot = true → ∀ tag e, (s.unit slot).best = some (tag, e) → e.state = .waiting →
      ∃ t, exec (.launchSelection slot) s = .next t ∧ s.sameBytes t ∧ s.sameRegisters t ∧ t.entry slot tag = { e with state := .starting } ∧
        (t.domain slot).launch = some ⟨tag, d.dcc, d.dcc + 2048, e.cls, none, false, none, 0, 0, false, s.nextId⟩) ∧
    (d.launch = none → s.maySelect slot = false ∨ (s.unit slot).best = none → exec (.launchSelection slot) s = .next s) ∧
    (∀ l, d.launch = some l → l.desc = none → l.selectedAt + 1 = d.dcc → l.tag < 256 →
      let e := s.entry slot l.tag
      let ws := s.descriptorWords slot e.descriptor
      (s.descriptorOk slot ws = false → ∃ t, exec (.launchSelection slot) s = .next t ∧ s.sameBytes t ∧ s.sameRegisters t ∧
        (t.domain slot).launch = none ∧ (t.domain slot).idleFrom = d.dcc + 1 ∧ (t.entry slot l.tag).state = (if e.keep then .armed else .free) ∧
        counterCount (t.counter (launchHandle slot l.tag)) = 0 ∧ counterF (t.counter (launchHandle slot l.tag)) = true) ∧
      (s.descriptorOk slot ws = true → wbits (ws.getD 0 0) 40 0 = 0 → wbits (ws.getD 7 0) 40 0 = 0 →
        exec (.launchSelection slot) s = .next (s.mapDomain slot fun d => { d with launch := some { l with desc := some (descriptorOf ws) } }))) ∧
    (∀ l x, d.launch = some l → l.desc = some x → l.started = false → l.restoring = false → l.tag < 256 → (s.domainSites slot).Nodup →
      let e := s.entry slot l.tag
      ∃ t, exec (.launchStart slot) s = .next t ∧ s.sameBytes t ∧ (t.entry slot l.tag).state = .running ∧
        counterCount (t.counter (launchHandle slot l.tag)) = (s.domainSites slot).length % 2 ^ 32 ∧
        (t.domain slot).launch = some { l with started := true, lastHalt := none, lastWrite := 0, lastReply := 0 } ∧
        (t.domain slot).sigma = 0 ∧ (t.domain slot).realignFrom = d.dcc ∧
        (t.domain slot).desk = { Desk.reset with pool := x.pool } ∧
        (∀ k, k ∉ s.domainSites slot → (s.tile k).sameRegisters (t.tile k)) ∧
        ∀ k ∈ s.domainSites slot,
          let u := t.tile k
          u.s[0] = e.argument ∧ (∀ i : Fin 64, 1 ≤ i.val → u.s[i] = if i.val < 8 then x.args.getD (i.val - 1) 0 else 0) ∧
          u.v = .replicate 32 .zero ∧ u.p = .replicate 8 false ∧ u.m = .replicate 8 0 ∧ u.z = (s.tile k).z ∧ u.tables = (s.tile k).tables ∧
          u.user = { Thread.reset with pc := x.entry } ∧ u.inSup = false ∧ u.loose = false ∧ u.running = true ∧ u.halted = false ∧
          u.bay = 0 ∧ u.bayStart = d.dcc ∧ u.retired = 0 ∧ u.record = .replicate 16 0 ∧
          u.privileged = (s.unit slot).supKernels.contains x.entry ∧
          ∀ i : Fin 4, (u.id.org[i], u.id.ext[i]) =
            let p := (sharesOf (s.flat slot k) (x.g.toList.map BitVec.toNat) (x.n.toList.map BitVec.toNat)).getD i.val (0, 0)
            (BitVec.ofNat 64 p.1, BitVec.ofNat 64 p.2)) ∧
    (∀ l, d.launch = some l → s.launchOver slot = false → exec (.launchCompletion slot) s = .next s) ∧
    (∀ l, d.launch = some l → s.launchOver slot = true → l.tag < 256 → (s.domainSites slot).Nodup →
      let e := s.entry slot l.tag
      ∃ t, exec (.launchCompletion slot) s = .next t ∧ s.sameBytes t ∧ s.sameRegisters t ∧
        t.entry slot l.tag = { e with state := if e.keep then .armed else .free } ∧ counterCount (t.counter (launchHandle slot l.tag)) = 0 ∧
        (counterF (t.counter (launchHandle slot l.tag)) = true ↔ counterF (s.counter (launchHandle slot l.tag)) = true ∨
          ∃ k ∈ s.domainSites slot, (s.tile k).failedTask = true) ∧
        (t.domain slot).launch = none ∧ (t.domain slot).idleFrom = d.dcc + 1 ∧ (∀ k ∈ s.domainSites slot, (t.tile k).running = false) ∧
        t.agenda = ((s.passedOver slot l.classAtStart).map fun k => ⟨0, slot, Origin.none, .priorityPromotion slot k⟩) ++ s.agenda) ∧
    (∀ x l, d.draining = some x → d.launch = some l → l.tag < 256 → (s.domainSites slot).Nodup →
      (x.cancel = false ∨ (∀ e, x.doneAt = some e → d.dcc ≤ e) → exec (.cancelDrainComplete slot) s = .next s) ∧
      (x.cancel = true → ∀ e, x.doneAt = some e → e < d.dcc → ∃ t, exec (.cancelDrainComplete slot) s = .next t ∧ s.sameBytes t ∧
        (t.entry slot l.tag).state = .free ∧ counterC (t.counter (launchHandle slot l.tag)) = true ∧ (t.domain slot).draining = none ∧
        (t.domain slot).launch = none ∧ (t.domain slot).idleFrom = d.dcc + 1 ∧
        ∀ k ∈ s.domainSites slot, (t.tile k).running = false ∧ (t.tile k).halted = true ∧ (t.tile k).dm.replies = []))

/-! ### Stops, pre-emption and debug -/

/-- Stops (spec/21 R380, R381, R385, spec/15 R292, R307): a stop of a launch that runs unfrozen fixes a freeze 40 + Lv cycles on with code 0x6002, and
waits for the resume cycle of a frozen one, or of one that a pre-emption drains, where a second pre-emption only counts (R381); with no launch, without a save area, without debug or without a hold the request is answered with status
2, 5, 6 or 7 and does nothing; a step sets the cycle n cycles on, at which the domain freezes again with its hold, a release ends the hold; a
higher-class candidate pre-empts; a throttle change takes effect. -/
def Obligations.StopEvents : Prop :=
  ∀ (s : State) (slot : Nat),
    let d := s.domain slot
    let stop (use : FreezeUse) : FreezePlan := ⟨d.dcc, d.dcc + 40 + d.spec.stopLatency, ((s.siteAt slot 0 0).map (s.flat slot)).getD 0, 0x6002, 0, use⟩
    let runs : Prop := d.launch.any (·.started) = true
    let answered (t : State) (reply : Option Nat) (r : UnitRequest) (status : Nat) : Prop := ∀ site, reply = some site →
      let sel : Nat := match r with | .stop _ => 0x0B | _ => 0x0D
      (s.dropRequestOf slot site r).repliesTo t slot site false (BitVec.ofNat 32 (0x01000000 + sel * 65536 + status)) (s.stopFlit slot)
    let acts (i : Instr) (reply : Option Nat) (r : UnitRequest) (d' : Domain) : Prop := ∃ t, exec i s = .next t ∧ s.sameBytes t ∧
      s.sameRegisters t ∧ (t.domain slot) = d' ∧ answered t reply r 0
    let refuses (i : Instr) (reply : Option Nat) (r : UnitRequest) (status : Nat) : Prop := ∃ t, exec i s = .next t ∧ s.sameBytes t ∧
      (∀ k, t.tile k = s.tile k) ∧ t.domain slot = d ∧ answered t reply r status
    let stops (i : Instr) (reply : Option Nat) (r : UnitRequest) (use : FreezeUse) : Prop :=
      (d.frozen = false → d.draining = none → d.plan = none → acts i reply r { d with plan := some (stop use) }) ∧
      (d.frozen = true → d.draining = none → acts i reply r { d with stopNext := d.stopNext ++ [use] }) ∧
      (∀ x, d.draining = some x → x.cancel = false → acts i reply r { d with stopNext := d.stopNext ++ [use] })
    let debug : Prop := (s.unit slot).debugEnable ≠ 0
    let held : Prop := d.frozen = true ∧ ∃ k ∈ s.domainSites slot, (s.tile k).debugHeld = true
    (∀ reply : Option Nat,
      (d.runningTag = none → refuses (.stopForInspection slot reply) reply (.stop 0) 2 ∧ refuses (.preemptStop slot reply) reply (.stop 1) 2 ∧
        refuses (.debugHalt slot reply) reply (.dbg 0 0) 2 ∧ (∀ n, refuses (.debugStep slot n reply) reply (.dbg 1 n) 2) ∧
        refuses (.debugRelease slot reply) reply (.dbg 2 0) 2) ∧
      (runs → stops (.stopForInspection slot reply) reply (.stop 0) .inspect ∧
        (s.saveRefused slot = true → refuses (.preemptStop slot reply) reply (.stop 1) 5) ∧
        (s.saveRefused slot = false → d.preempting = false → stops (.preemptStop slot reply) reply (.stop 1) .preempt) ∧
        (∀ x, s.saveRefused slot = false → d.draining = some x → x.cancel = false → (s.domainSites slot).Nodup → ∃ t,
          exec (.preemptStop slot reply) s = .next t ∧ s.sameBytes t ∧ t.domain slot = d ∧ answered t reply (.stop 1) 0 ∧
          ∀ k ∈ s.domainSites slot, t.tile k = { s.tile k with later := min 255 ((s.tile k).later + 1) }) ∧
        (¬debug → refuses (.debugHalt slot reply) reply (.dbg 0 0) 6 ∧ refuses (.debugRelease slot reply) reply (.dbg 2 0) 6 ∧
          ∀ n, refuses (.debugStep slot n reply) reply (.dbg 1 n) 6) ∧
        (debug → stops (.debugHalt slot reply) reply (.dbg 0 0) .debug) ∧
        (debug → ¬held → refuses (.debugRelease slot reply) reply (.dbg 2 0) 7 ∧ ∀ n, refuses (.debugStep slot n reply) reply (.dbg 1 n) 7) ∧
        (debug → held → (∀ n, acts (.debugStep slot n reply) reply (.dbg 1 n) { d with stepUntil := some (d.dcc + n) }) ∧
          (acts (.debugRelease slot reply) reply (.dbg 2 0) d ∧ ((s.domainSites slot).Nodup → ∃ t, exec (.debugRelease slot reply) s = .next t ∧
            ∀ k ∈ s.domainSites slot, t.tile k = { s.tile k with debugHeld := false }))))) ∧
    (runs → d.frozen = false → d.plan = none →
      (s.preempts slot = true → exec (.preemption slot) s = .next (s.mapDomain slot fun d => { d with plan := some (stop .preempt) })) ∧
      (s.preempts slot = false → exec (.preemption slot) s = .next s)) ∧
    (∀ p, d.plan = some p → p.use = .debug → d.stepUntil = some d.dcc → d.frozen = false → (s.domainSites slot).Nodup → ∃ t,
      exec (.debugStepExpiry slot) s = .next t ∧ s.sameBytes t ∧ (t.domain slot).frozen = true ∧ (t.domain slot).plan = none ∧
      (t.domain slot).stepUntil = none ∧ ∀ k ∈ s.domainSites slot, (t.tile k).inSup = true ∧ (t.tile k).debugHeld = true ∧
        ((s.tile k).event = none → (t.tile k).record[0] = recordHead (if p.cause = 0x6002 then 0x6002 else 0)
          (min 255 ((s.tile k).later + p.stops)) 0xFF true false (!(s.tile k).loose) 0 (s.tile k).user.next)) ∧
    (d.plan = none ∨ d.stepUntil ≠ some d.dcc ∨ d.frozen = true → exec (.debugStepExpiry slot) s = .next s) ∧
    (∀ n k, d.throttleNext = some (n, k) → ∃ t, exec (.throttleChange slot) s = .next t ∧ s.sameBytes t ∧ s.sameRegisters t ∧
      t.domain slot = { d with throttle := k, throttleNext := none }) ∧
    (d.throttleNext = none → exec (.throttleChange slot) s = .next s)

/-- A pre-emption's save and return (spec/21 R382, R383, R384, R393, spec/15 R293): once nothing of the context is open the save takes Tsave cycles;
at its end the entry is pre-empted, the domain is idle from the next cycle, the header holds F, the DCC and Σ, and each tile's block stands in the area,
where the blocks do not meet; the resumed context has the registers of its tiles' blocks back, runs again with its remaining delays, and Σ has grown
modulo 2^64 by the shift of its cycles. What a block's bytes are, and that commands for which it has no room stand beside it, is the model's choice
(notes/assumptions/87.md). -/
def Obligations.SaveAndResume : Prop :=
  (∀ (s : State) (slot : Nat) (x : DrainState) (l : Launch) (desc : Descriptor), slot < 16 → l.tag < 256 → (s.domainSites slot).Nodup →
    (s.domain slot).draining = some x → (s.domain slot).launch = some l → l.desc = some desc → x.cancel = false →
    let d := s.domain slot
    let sites := s.domainSites slot
    (x.saveEnd = none → s.openContext slot = false → exec (.preemptionDrainEnd slot) s = .next (s.mapDomain slot fun d => { d with
      draining := some { x with saveEnd := some (d.dcc + s.saveTime slot desc.save
        (sites.map fun k => (k, (s.tile k).mx.usedSlots.length, (s.tile k).landingLog.length))) } })) ∧
    (x.saveEnd ≠ none ∨ s.openContext slot = true → exec (.preemptionDrainEnd slot) s = .next s) ∧
    (x.saveEnd = none ∨ s.openKnown slot = true → exec (.saveComplete slot) s = .next s) ∧
    (x.saveEnd ≠ none → s.openKnown slot = false → ∃ t, exec (.saveComplete slot) s = .next t ∧
      (t.entry slot l.tag).state = .preempted ∧ (t.entry slot l.tag).desc = some desc ∧
      (t.domain slot).launch = none ∧ (t.domain slot).draining = none ∧ (t.domain slot).idleFrom = d.dcc + 1 ∧ (t.domain slot).sigma = 0 ∧
      (∀ k ∈ sites, (t.tile k).running = false) ∧
      (s.memoryCanonical → desc.save % 4096 = 0 → ∀ k ∈ d.spec.saveStacks, t.saveWord desc.save k 8 = BitVec.ofNat 64 x.from0 ∧
        t.saveWord desc.save k 9 = BitVec.ofNat 64 d.dcc ∧ t.saveWord desc.save k 10 = BitVec.ofNat 64 d.sigma) ∧
      let stack (k : Nat) : Nat := (s.savePlace slot k).2.2
      let base (k : Nat) : Nat := s.saveBlock slot desc.save k
      let size (k : Nat) : Nat := 0xD0000 + 8192 * (s.saveFolios desc.save (stack k)).length + s.saveSramLength desc.save (stack k)
      let apart (a n b m : Nat) : Prop := a + n ≤ b ∨ b + m ≤ a
      s.memoryCanonical → (∀ k ∈ sites, (s.tile k).landingLog.length ≤ 2048) →
      (∀ j ∈ sites, ∀ k ∈ sites, j ≠ k → apart (base j) (size j) (base k) (size k)) →
      (∀ j ∈ sites, ∀ n ∈ d.spec.saveStacks ++ sites.map stack, apart (base j) (size j) (hbmAddr (saveBase desc.save n)) 4096) →
      ∀ k ∈ sites, t.readBytes (base k) 0xC000 = fitBytes 0xC000 (Layout.block.write
        ((s.flushDesk slot).tileBlock slot k x.held ((s.flushDesk slot).domainPart slot l x)).fit))) ∧
  ∀ (s : State) (slot : Nat) (l : Launch), (s.domainSites slot).Nodup → (∀ k ∈ s.domainSites slot, k < 8448) → s.memoryCanonical →
    (s.domain slot).launch = some l → l.restoring = true → (s.domain slot).draining = none →
    let area := (l.desc.map (·.save)).getD 0
    area % 4096 = 0 → (∀ k ∈ s.domainSites slot, s.saveBlock slot area k + 0xC000 ≤ 2 ^ 41) →
    (s.entry slot l.tag).state = .running →
    let rr := (s.domain slot).dcc
    let f (c : Nat) : Nat := c + rr - s.savedF slot area
    let shift : Int := (rr : Int) - s.savedF slot area
    ∃ t, exec (.preemptedResume slot) s = .next t ∧ (t.entry slot l.tag).state = .running ∧
      (t.domain slot).sigma = (s.savedSigma slot area + (rr + 2 ^ 64 - s.savedF slot area % 2 ^ 64) % 2 ^ 64) % 2 ^ 64 ∧
      ((t.domain slot).launch.any fun l => l.started && !l.restoring) = true ∧
      ∀ k ∈ s.domainSites slot, ∀ b, s.savedBlock slot area k = some b →
        let u := t.tile k
        (u.s, u.v, u.p, u.m, u.user) = (b.tile.s, b.tile.v, b.tile.p, b.tile.m, b.tile.user) ∧ u.z = (s.tile k).z ∧
        u.bayStart = b.tile.bayStart + shift ∧ u.inSup = false ∧ u.cap = (b.tile.cap.atSite k).move f

/-! ### The fabric -/

/-- The fabric (spec/13 R260 to R266, R268, R269, R270): a schedule loads whole, with its collectives, or not at all; in a slot goes one thing: the
frame due on a port with the bytes read for it, a frame that goes again, or a copy's bytes; a received frame with a good CRC waits with its
payload for its windows, a bad one for its retry, and the sent frame of a slot goes again; a hold is fixed 512 cycles after its announcement, which
a beacon flit carries to the other modules, for 448
reference cycles, serves the retries, stops the domain clock and ends; a beacon sets the clock and brings throttle changes, holds, failed links and
arrivals, of which the last fixes the pier's release; a message that is complete fires, or is discarded; a frame's contributions are combined in their
order, and the result waits for its windows. The model's choices: a hold announced while one is in force adds 448 cycles and serves the retries again,
and a release fixed late comes in the next cycle (notes/assumptions/55.md); which module folds a tree's node and what it sends on, and the count of a
collective's frames (notes/assumptions/82.md); which frames of a message are discarded (notes/assumptions/83.md).
Complete here: fabricScheduleLoad, fabricFrameSend, fabricFrameReceive, frameRetry, fabricHoldAnnounce, fabricHold, fabricHoldEnd, timeBeacon,
launchMessageComplete, collectiveCombine. -/
def Obligations.FabricEvents : Prop :=
  ∀ (s : State) (slot port : Nat),
    let d := s.domain slot
    let x := s.port port
    let quiet (t : State) : Prop := s.sameBytes t ∧ ∀ k, t.tile k = s.tile k
    -- a module that needs a hold announces it, and tells the others in a beacon flit
    let holdNeeded : List Todo := ⟨0, slot, Origin.none, .fabricHoldAnnounce ⟨slot, d.dcc⟩⟩ ::
      if d.spec.cls = .multi then ⟨0, slot, Origin.none, .timeBeacon slot { d.plainBeacon with hold := some d.dcc }⟩ :: s.agenda else s.agenda
    (∀ (entries : List ScheduleEntry) (cs : List CollectiveSpec),
      let load : Instr := .fabricScheduleLoad slot port ⟨entries, cs⟩
      (scheduleError entries = none ↔ entries.length ≤ 4096 ∧ (∀ e ∈ entries, ScheduleEntry.fine e = true) ∧
        entries.Pairwise fun a b => ScheduleEntry.meets a b = false) ∧
      (scheduleError entries = none → ∃ t, exec load s = .next t ∧ quiet t ∧ t.port port = { x with schedule := entries, loadError := none } ∧
        ∀ c f, cs = [c] → Fmt.ofCode c.fmt = some f → f ∈ [Fmt.f32, .bf16, .i32, .i64, .n32, .n64] → c.op ≤ 2 →
          Table.find t.collectives c.id = some ⟨c.op, f, c.count, c.tree, [], []⟩) ∧
      ∀ i, scheduleError entries = some i → exec load s = .next (s.setPort port { x with schedule := [], loadError := some i })) ∧
    (let send : Instr := .fabricFrameSend slot port
     let due := if d.frozen then [] else d.framesDue port
     let again : Prop := s.resendTime slot = true ∧ x.resends ≠ []
     (∀ r rest, due = [] → s.resendTime slot = true → x.resends = r :: rest →
       exec send s = .next (s.setPort port { x with sent := x.sent ++ [r], resends := rest })) ∧
     (due = [] → ¬again → d.frozen = true ∨ s.copyFrameDue slot port = none → exec send s = .next s) ∧
     (due = [] → ¬again → d.frozen = false → ∀ k c, s.copyFrameDue slot port = some (k, c) → ∃ t n, exec send s = .next t ∧ quiet t ∧
       (t.port port).sent = x.sent ++ [(n, (c.buffer.flatMap (·.2)).take c.chunk)]) ∧
     ∀ c, due = [c] → ∃ t bytes, exec send s = .next t ∧ quiet t ∧
       (t.port port).sent = x.sent ++ [(c.work.getD 3 0, bytes)] ∧ (t.domain slot).command c.id = none ∧
       ∀ e, s.frameEntry c = some e →
         (e.kind ≠ 3 → bytes = c.frameBytes) ∧
         (e.kind = 3 → ∀ y, Table.find s.collectives e.collective = some y → (y.tree = none → bytes = c.frameBytes) ∧
           (Table.find t.collectives e.collective).bind
             (fun z => Table.find z.contributions (valueKey c.bayStart d.spec.rank (s.collectiveFrame c e))) = some c.frameBytes)) ∧
    (∀ payload ok, s.frameExpected slot port = none → exec (.fabricFrameReceive slot port ⟨false, ok⟩ payload) s = .next s) ∧
    (∀ c payload, s.frameExpected slot port = some c →
      (∀ e, s.frameEntry c = some e → e.kind ≠ 3 → ∃ t c', exec (.fabricFrameReceive slot port ⟨false, true⟩ payload) s = .next t ∧
        quiet t ∧ (t.domain slot).command c.id = some c' ∧ c'.progress = 1 ∧
        (∀ i b k, c'.blocks[i]? = some b → k < 8 → b.hasSector k = true → Table.find c'.buffer (8 * i + k) =
          some ((payload.drop (b.place + (max b.lo (32 * k) - b.lo))).take (b.sectorSpan k).2)) ∧
        (e.kind ≠ 2 → c'.blocks = c.blocks) ∧
        -- a launch message's frame takes its place in the armed entry's region, or is discarded (R268)
        (e.kind = 2 → port < 16 →
          let place := s.framePlace slot e
          let i := c.work.getD 1 0
          let f := c.work.getD 2 0
          let follows : Prop := f = 0 ∨ Table.at x.heard 0 i = (place.map (fun z => z.2 + 1)).getD 0
          (follows → c'.blocks = frameBlocks place f (d.spec.frameCycle c.bayStart (c.work.getD 3 0) true)) ∧
          (¬follows ∨ place = none → c'.blocks = [] ∧ Table.find (t.port port).heard i = some 0))) ∧
      (x.retries = [] → exec (.fabricFrameReceive slot port ⟨false, false⟩ payload) s = .next (s.setPort port { x with retries := [(c.id, 0)] })) ∧
      (x.retries ≠ [] → ∃ t, exec (.fabricFrameReceive slot port ⟨false, false⟩ payload) s = .next t ∧ quiet t ∧
        (t.port port).retries = x.retries ++ [(c.id, 0)] ∧ t.agenda = holdNeeded)) ∧
    (x.serving = true → ∀ c n payload, x.retries = [(c.id, n)] → d.command c.id = some c →
      (∀ e, s.frameEntry c = some e → e.kind ≠ 3 → ∃ t, exec (.fabricFrameReceive slot port ⟨true, true⟩ payload) s = .next t ∧
        quiet t ∧ (t.port port).retries = [] ∧ (t.port port).serving = false ∧ ((t.domain slot).command c.id).map (·.progress) = some 1) ∧
      (n < 3 → ∃ t, exec (.fabricFrameReceive slot port ⟨true, false⟩ payload) s = .next t ∧ quiet t ∧
        t.port port = { x with serving := false } ∧ t.agenda = holdNeeded) ∧
      (3 ≤ n → ∀ site, s.siteOfFlat slot 0 = some site → d.boot = false → d.frozen = false → d.draining = none → (s.tile site).event = none →
        ∃ t, exec (.fabricFrameReceive slot port ⟨true, false⟩ payload) s = .next t ∧ (t.port port).trained = false ∧
          (t.tile site).event.map (fun e => (e.cause, e.detail)) = some (0x5005, BitVec.ofNat 64 port) ∧
          (d.spec.cls = .multi → t.agenda = ⟨0, slot, Origin.none, .timeBeacon slot { d.plainBeacon with failed := some port }⟩ :: s.agenda))) ∧
    (∀ n f, x.sent.reverse.find? (fun y => y.1 == n) = some f →
      exec (.frameRetry slot port (.send n)) s = .next (s.setPort port { x with resends := x.resends ++ [f] })) ∧
    (x.retries ≠ [] → exec (.frameRetry slot port .receive) s = .next (s.setPort port { x with serving := true })) ∧
    (x.retries = [] → exec (.frameRetry slot port .receive) s = .next s) ∧
    (∀ a, d.hold = none → exec (.fabricHoldAnnounce ⟨slot, a⟩) s = .next (s.setDomain slot { d with hold := some (a, a + 512, 448) })) ∧
    (d.hold = none → exec (.fabricHold slot) s = .next s) ∧
    (∀ a h n, d.hold = some (a, h, n) →
      (∀ b, ∃ t, exec (.fabricHoldAnnounce ⟨slot, b⟩) s = .next t ∧ quiet t ∧ t.domain slot = { d with hold := some (a, h, n + 448) } ∧
        (t.port port).retries = if d.frozen = true ∧ d.use = .hold then x.retries.map (fun r => (r.1, r.2 + 1)) else x.retries) ∧
      ∃ t, exec (.fabricHold slot) s = .next t ∧ quiet t ∧ t.domain slot = { d with frozen := true, use := .hold } ∧
        (t.port port).retries = x.retries.map fun r => (r.1, r.2 + 1)) ∧
    (d.use = .hold → exec (.fabricHoldEnd slot) s = .next (s.setDomain slot { d with frozen := false, use := .fault, hold := none })) ∧
    (d.use ≠ .hold → exec (.fabricHoldEnd slot) s = .next (s.setDomain slot d)) ∧
    (∀ b : Beacon,
      (b.sender = d.spec.rank → ∃ t, exec (.timeBeacon slot b) s = .next t ∧ quiet t ∧ t.domain slot = d ∧ ∀ p < 16, (t.port p).beacon = some b) ∧
      (∀ p site, b.sender ≠ d.spec.rank → b.failed = some p → s.siteOfFlat slot 0 = some site → d.boot = false → d.frozen = false →
        d.draining = none → (s.tile site).event = none → ∃ t, exec (.timeBeacon slot b) s = .next t ∧ s.sameBytes t ∧
        (t.tile site).event.map (fun e => (e.cause, e.detail)) = some (0x5005, BitVec.ofNat 64 p)) ∧
      (b.sender ≠ d.spec.rank → b.failed = none → ∃ t, exec (.timeBeacon slot b) s = .next t ∧ quiet t ∧
        (∀ c, b.dcc = some c → d.spec.beaconMaster = false → (t.domain slot).dcc = c.toNat + (if d.spec.longFabric then 896 else 448)) ∧
        (b.dcc = none ∨ d.spec.beaconMaster = true → (t.domain slot).dcc = d.dcc) ∧
        (t.domain slot).throttleNext = b.throttle.or d.throttleNext ∧
        (∀ h, b.hold = some h → t.agenda = ⟨0, slot, Origin.none, .fabricHoldAnnounce ⟨slot, h⟩⟩ :: s.agenda) ∧
        (b.hold = none → t.agenda = s.agenda) ∧
        (b.arrival = none → (t.domain slot).pier.others = d.pier.others) ∧
        ∀ m a own, b.arrival = some (m, a) → d.pier.allArrived = some own → d.spec.cls = .multi → d.pier.releaseAt = none →
          let others := d.pier.others.filter (fun o => o.1 ≠ m) ++ [(m, a)]
          let heard : Prop := ∀ k < d.spec.modules, k = d.spec.rank ∨ ∃ o ∈ others, o.1 = k
          (t.domain slot).pier.others = others ∧ (¬heard → (t.domain slot).pier.releaseAt = none) ∧
          (heard → (t.domain slot).pier.releaseAt =
            some (max ((others.map (·.2)).foldl max own + d.spec.pierLatency) ((t.domain slot).dcc + 1))))) ∧
    (∀ tag, ∃ t, exec (.launchMessageComplete slot tag) s = .next t ∧ quiet t ∧
      let discarded : Prop := ∃ p ∈ s.ports, ∃ (i : Nat) (e : ScheduleEntry), p.2.schedule[i]? = some e ∧ e.kind = 2 ∧ e.dir = 1 ∧ e.tag = tag ∧
        Table.find p.2.heard i = some 0
      (discarded → t.units = s.units ∧ t.host.unarmed = s.host.unarmed + 1) ∧
      (¬discarded → (t.unit slot).fires = (s.unit slot).fires ++
        [(tag, .message (BitVec.ofNat 64 (4 * 2 ^ 60 + (s.entry slot tag).w2.toNat % 2 ^ 48)))])) ∧
    (∀ id, (Table.find s.collectives id = none → exec (.collectiveCombine slot id) s = .next s) ∧
      ∀ y : Collective, Table.find s.collectives id = some y →
        (y.ready d.spec.rank d.spec.modules = [] → exec (.collectiveCombine slot id) s = .next s) ∧
        ∀ b f bs, y.ready d.spec.rank d.spec.modules = [(b, f)] → y.combine b d.spec.rank d.spec.modules f = some bs →
          ∃ t, exec (.collectiveCombine slot id) s = .next t ∧ quiet t ∧
            (Table.find t.collectives id).bind (fun z => Table.find z.combined (combinedKey b f)) = some bs ∧
            (y.final d.spec.rank = true → (d.commands.map (·.id)).Nodup → ∀ c ∈ d.commands, c.form = .fabric → c.frameSend = false →
              c.progress = 2 → c.bayStart = b → (∀ e, s.frameEntry c = some e → e.kind = 3 ∧ e.collective = id ∧ s.collectiveFrame c e = f) →
              s.frameEntry c ≠ none → (t.domain slot).command c.id = some { c with progress := 1, buffer := c.frameSectors bs })) ∧
      -- the elements of all operands are combined in the order of their ranks, or of the tree's nodes, and rounded at most once
      ∀ (y : Collective) (rank modules b f : Nat) (v : Nat → Nat → List Byte),
        let ranks : List Nat := match y.tree with | none => List.range modules | some r => rank :: r.partners rank
        let w := if y.final rank then y.fmt.width / 8 else y.valueWidth rank
        ranks ≠ [rank] → (∀ m ∈ ranks, ∀ j < 1024 / w, y.element b rank m (f * (1024 / w) + j) = some (v m j)) →
        y.combine b rank modules f = some ((List.range (1024 / w)).flatMap fun j =>
          let row := ranks.map fun m => v m j
          let r := (row.drop 1).foldl (combineElement y.op (if y.fmt = .bf16 then .f32 else y.fmt)) (row.headD [])
          if y.fmt = .bf16 ∧ w = 2 then narrowBf16 r else r)

/-! ### Management -/

/-- The management controller (spec/17 R313 to R316, R327, R329, R332, spec/22 R394, spec/13 R271): what it may not do changes nothing; a partition
word stands with its islands and AP is extended; a scrubbed island's memories, registers and unit read zero and nothing else changes; a key, a
lifecycle state, an unlock, a nonce and a host word stand as written, a host write that is aborted changes nothing else; the next image is verified and
measured, the boot code where the power has been away, and after the last every die enters boot state. Bytes change only in stacks whose key changes. The
model's choices: a partition change is refused while a leaving domain is not quiet, and AP is extended with a free digest (notes/assumptions/58.md);
the conditions of key slots, lifecycle and unlock, and that no key stays in a part that is not provisioned (notes/assumptions/59.md); what a power
cycle keeps, what the signatures cover and that AF3 is extended twice (notes/assumptions/90.md). -/
def Obligations.ManagementEvents : Prop :=
  ∀ s : State,
    let m := s.mmc
    let up : Prop := m.recovery = false
    let aside (t : State) : Prop := s.memoryCanonical →
      ∀ a, (∀ k < 32, (s.stack k).used = true → a < hbmAddr (k * 2 ^ 36) ∨ hbmAddr ((k + 1) * 2 ^ 36) ≤ a) → t.byte a = s.byte a
    (∀ (index : Nat) (w : Word),
      let old := m.partitions.getD index 0
      let kept := if partitionValid w then partitionIslands w else []
      let gone := s.slotsOn fun i => partitionValid old && (partitionIslands old).contains i && !kept.contains i
      let zeros : Prop := wbits w 62 57 = 0 ∧ wbits w 47 44 = 0 ∧ wbits w 39 32 = 0
      let allowed : Prop := index < 16 ∧ up ∧ zeros ∧ (w.getLsbD 63 = true → s.partitionOk index w = true) ∧ ∀ k ∈ gone, s.quiet k = true
      (¬allowed → exec (.partitionConfigure index w) s = .next s) ∧
      (allowed → ∃ t, exec (.partitionConfigure index w) s = .next t ∧ aside t ∧ s.sameRegisters t ∧
        (∀ k < 16, t.mmc.partitions.getD k 0 = if k = index then (if w.getLsbD 63 then w else 0) else m.partitions.getD k 0) ∧
        t.mmc.ap = extendAccession m.ap s.freeDigest ∧ (∀ k ∈ gone, t.hasDomain k = false) ∧ ∀ k, k ∉ gone → t.domain k = s.domain k)) ∧
    (∀ island,
      let allowed : Prop := island < 16 ∧ up ∧ s.partitionOfIsland island = none ∧ s.slotsOn (fun i => i == island) = []
      let sites := islandSites island
      (¬allowed → exec (.islandScrub island) s = .next s) ∧
      (allowed → ∃ t, exec (.islandScrub island) s = .next t ∧
        (∀ k ∈ sites, (∀ off < 2 ^ 20, t.byte (sramAddr k off) = 0) ∧ (∀ off < 2 ^ 17, t.byte (istoreAddr k off) = 0) ∧
          (t.tile k).s = .replicate 64 0 ∧ (t.tile k).v = .replicate 32 .zero ∧ (t.tile k).p = .replicate 8 false ∧
          (t.tile k).m = .replicate 8 0 ∧ (t.tile k).z = .replicate 16 0) ∧
        (∀ k ∈ [2 * island, 2 * island + 1], (∀ p < 2 ^ 36, t.byte (hbmAddr (k * 2 ^ 36 + p)) = 0) ∧ (t.stack k).live = []) ∧
        (s.memoryCanonical → ∀ a, (∀ k ∈ sites, (a < sramAddr k 0 ∨ sramAddr k (2 ^ 20) ≤ a) ∧ (a < istoreAddr k 0 ∨ istoreAddr k (2 ^ 17) ≤ a)) →
          (∀ k ∈ [2 * island, 2 * island + 1], a < hbmAddr (k * 2 ^ 36) ∨ hbmAddr ((k + 1) * 2 ^ 36) ≤ a) → t.byte a = s.byte a) ∧
        (∀ k, k ∉ sites → t.tile k = s.tile k) ∧ (t.unit island).entries = [] ∧ (t.unit island).counters = [] ∧
        (t.unit island).accU = 0 ∧ island ∈ t.mmc.scrubbed)) ∧
    (∀ (index : Nat) (key : BitVec 512),
      let forming : Prop := ∃ k ∈ m.forming, (m.partitions.getD k 0).getLsbD 63 = true ∧ wbits (m.partitions.getD k 0) 43 40 = index ∧
        s.slotsOn (fun i => s.partitionOfIsland i == some k) = []
      let allowed : Prop := index < 16 ∧ s.lifecycle = 1 ∧ up ∧ forming ∧ m.unlocking = none ∧ ∀ k < 8, (s.die k).debugOpen = false
      (¬allowed → exec (.keySlotWrite index key) s = .next s) ∧
      (allowed → ∃ t, exec (.keySlotWrite index key) s = .next t ∧ aside t ∧ s.sameRegisters t ∧
        ∀ k, Table.find t.mmc.keySlots k = if k = index then (if key = 0 then none else some key) else Table.find m.keySlots k)) ∧
    (∀ state command signature,
      let allowed : Prop := state ∈ [1, 3, 7] ∧ s.lifecycle < state ∧ signatureValid s.firmwareKey command signature = true ∧ up
      (¬allowed → exec (.lifecycleAdvance state command signature) s = .next s) ∧
      (allowed → ∃ t, exec (.lifecycleAdvance state command signature) s = .next t ∧ aside t ∧ s.sameRegisters t ∧ t.lifecycle = state ∧
        t.mmc.keySlots = (if state = 1 then m.keySlots else []) ∧
        t.mmc.ap = extendAccession m.ap (State.freeDigest s) ∧ ∀ k < 8, (t.die k).debugOpen = decide (state = 0 ∨ state = 3))) ∧
    (∀ token signature,
      (m.unlocking = none → up → s.tokenForm token = true → s.tokenMatches token signature = true → s.partitionSlots = [] →
        ∃ t, exec (.debugUnlock token signature) s = .next t ∧ s.sameBytes t ∧ s.sameRegisters t ∧ t.mmc.unlocking = some token ∧
          t.mmc.nonce = none) ∧
      (m.unlocking = none → s.tokenForm token = false ∨ s.tokenMatches token signature = false ∨ m.recovery = true →
        ∃ t, exec (.debugUnlock token signature) s = .next t ∧ s.sameBytes t ∧ s.sameRegisters t ∧ t.mmc.unlocking = none ∧
          t.mmc.partitions = m.partitions ∧ t.mmc.keySlots = m.keySlots) ∧
      (m.unlocking = some token → (∀ k ∈ s.partitionSlots, s.quiet k = true) → ∃ t, exec (.debugUnlock [] []) s = .next t ∧ aside t ∧
        s.sameRegisters t ∧ t.mmc.keySlots = [] ∧ t.mmc.partitions = .replicate 16 0 ∧ t.mmc.unlocking = none ∧ t.mmc.scrubbed = [] ∧
        t.mmc.ap = extendAccession m.ap (shake256 token) ∧
        ∀ k < 8, (t.die k).debugOpen = ((s.die k).debugOpen || (token.getD 21 0).getLsbD k))) ∧
    (∀ (image : FirmwareImage) (bytes signature : List Byte),
      let n := image.index
      let boot := bootImage ++ (List.range 16384).map Config.secondStage
      let good : Prop := n = 0 ∨ signatureValid s.firmwareKey (if n = 3 then bytes ++ boot else bytes) signature = true
      let before : Prop := s.firmware n = (bytes, signature) ∧ (n = 0 ∨ (up ∧ n ∉ m.booted ∧ ∀ k < n, k ∈ m.booted))
      -- the boot code runs at a power-on alone: where it has run before, the power has been away
      let cycled : Prop := n = 0 ∧ (m.recovery = true ∨ 0 ∈ m.booted)
      let once := extendAccession (m.af.getD n 0) (shake256 bytes)
      (¬before → exec (.powerOnVerification image bytes signature) s = .next s) ∧
      (before → cycled → ∃ t, exec (.powerOnVerification image bytes signature) s = .next t ∧ t.mmc.recovery = false ∧ t.mmc.booted = [0] ∧
        t.mmc.af.getD 0 0 = extendAccession 0 (shake256 bytes) ∧ t.mmc.fuses = m.fuses ∧ t.mmc.leafIndex = m.leafIndex ∧
        t.host.firmware = s.host.firmware ∧ t.domains = [] ∧ t.mmc.partitions = .replicate 16 0 ∧ t.mmc.keySlots = [] ∧
        (∀ k, t.tile k = Tile.reset) ∧ ∀ k < 8, (t.die k).ring = (s.die k).ring ∧ (t.die k).written = (s.die k).written) ∧
      (before → ¬cycled → ∃ t, exec (.powerOnVerification image bytes signature) s = .next t ∧ aside t ∧ s.sameRegisters t ∧
        (good → n ∈ t.mmc.booted ∧ t.mmc.recovery = false ∧ (n < 3 → t.mmc.af.getD n 0 = once ∧ t.agenda = s.agenda) ∧
          (n = 3 → t.mmc.af.getD 3 0 = extendAccession once (shake256 boot) ∧
            t.agenda = ((List.range 8).map fun d => ⟨0, 16 + d, Origin.none, .bootStateEntry d⟩) ++ s.agenda)) ∧
        (¬good → t.mmc.recovery = true ∧ t.mmc.af = m.af ∧ t.agenda = s.agenda))) ∧
    (∀ cmd, (¬up → exec (.mmcMailboxCommand cmd) s = .next s) ∧
      (up → ∃ t, exec (.mmcMailboxCommand cmd) s = .next t ∧ s.sameBytes t ∧ s.sameRegisters t ∧
        (cmd = .nonceRequest → t.mmc.noncesIssued = m.noncesIssued + 1 ∧ t.mmc.nonce.any (fun l => l.length == 32) = true) ∧
        (∀ die, cmd = .coreReset die → t.agenda = ⟨0, 0, Origin.none, .coreReset die⟩ :: s.agenda) ∧
        (∀ die, cmd = .uncoreReset die → t.agenda = ⟨0, 0, Origin.none, .uncoreReset die⟩ :: s.agenda) ∧
        ∀ p mask, cmd = .haltGroups p mask → ∀ k < 16, s.hasDomain k = true → s.partitionOf k = some p → ∀ site ∈ s.domainSites k,
          (s.tile site).groups &&& mask ≠ 0 →
          ∃ c ∈ (t.tile site).groupHaltAt, (s.domain k).pulses < c ∧ c ≤ (s.domain k).pulses + 64)) ∧
    (∀ (k : Nat) (w : Word),
      let write (offset : Nat) : Instr := .hostRegisterWrite offset .full w
      let completes (c : Completion) : HostPort := { s.host with completion := c }
      let comes (i : Instr) : State := { s with host := completes .success, inputs := s.inputs ++ [⟨s.tick, i⟩] }
      (k < 512 → ∀ c : Cover, ∃ t, exec (.hostRegisterWrite (8 * k) c w) s = .next t ∧ s.sameBytes t ∧ s.sameRegisters t ∧
        let old := Table.at s.host.mailbox 0 k
        Table.at t.host.mailbox 0 k = match c with
          | .full => w
          | .low => (old.extractLsb' 32 32 ++ w.extractLsb' 0 32 : BitVec (32 + 32))
          | .high => (w.extractLsb' 32 32 ++ old.extractLsb' 0 32 : BitVec (32 + 32))) ∧
      (k < 16 → exec (write (0x1000 + 8 * k)) s = .next (comes (.hostFirePortWrite k w)) ∧
        exec (write (0x1100 + 8 * k)) s = .next (comes (.hostCancelPortWrite k w)) ∧
        exec (.hostRegisterWrite (0x1000 + 8 * k) .low w) s = .next { s with host := completes .abort }) ∧
      (k < 16384 → exec (write (0x10000 + 8 * k)) s = .next (comes (.armingEntryWrite (k / 1024) (k / 4 % 256) (k % 4) .full w))) ∧
      (k < 131072 → exec (write (0x100000 + 8 * k)) s = .next { s with host := completes .abort }) ∧
      (512 + 65 ≤ k → k < 1024 → exec (write (8 * k)) s = .next { s with host := completes .unsupported })) ∧
    ∀ (k : Nat) (w : Word),
      (s.reduced = true → 8 * k < 2 ^ 20 → s.memoryCanonical → ∃ t, exec (.firmwareUpdateWrite (8 * k) .full w) s = .next t ∧
        t.read64 (stagingAddr (8 * k)) = w ∧ s.sameBytesOutside t (stagingAddr (8 * k)) 8 ∧ s.sameRegisters t) ∧
      (s.reduced = false ∨ 2 ^ 20 ≤ 8 * k → ∃ t, exec (.firmwareUpdateWrite (8 * k) .full w) s = .next t ∧ s.sameBytes t ∧ s.sameRegisters t ∧
        Table.at t.host.firmware 0 k = w)

/-- Attestation (spec/17 R327, R328, R329, R331): outside recovery, and before a part is retired, each request joins the transcript and leaves its response in the mailbox, which joins it
too; a signed answer covers the transcript, uses the next leaf and begins a new one, and with no leaf left the request fails; in recovery, and in a retired part, the MMC stays
as it is. No register and no byte changes. The forms of the messages are the model's: those of notes/assumptions/92.md, and of notes/assumptions/60.md
the header bytes, the request codes and that a request that finds no leaf is answered with an error. -/
def Obligations.SpdmEvents : Prop :=
  ∀ (s : State) (path : SpdmPath),
    let m := s.mmc
    let mine := freeBytes s.draws 32
    let mute : Prop := m.recovery = true ∨ s.lifecycle = 7
    let quiet (t : State) : Prop := s.sameBytes t ∧ s.sameRegisters t ∧ (mute → t.mmc = m)
    let answers (i : Instr) (old request response : List Byte) : Prop := ∃ t, exec i s = .next t ∧ quiet t ∧
      (¬mute → t.mmc.response = response ∧ t.mmc.transcript = old ++ request ++ response)
    let fails (i : Instr) (request : List Byte) : Prop := answers i m.transcript request [0x13, 0x7F, 0, 0]
    let signs (i : Instr) (request body : List Byte) : Prop :=
      (m.leafIndex < 2 ^ 40 → ∃ t, exec i s = .next t ∧ quiet t ∧ (¬mute → t.mmc.leafIndex = m.leafIndex + 1 ∧ t.mmc.transcript = [] ∧
        t.mmc.response = body ++ identitySign m.leafIndex (sha3_512 (m.transcript ++ request ++ body)))) ∧
      (2 ^ 40 ≤ m.leafIndex → fails i request)
    answers (.getVersion path) [] [0x13, 0x84, 0, 0] ([0x13, 0x04, 0, 0] ++ versionBody) ∧
    answers (.getCapabilities path) m.transcript ([0x13, 0xE1, 0, 0] ++ freeBytes s.draws 16) ([0x13, 0x61, 0, 0] ++ capabilitiesBody) ∧
    answers (.negotiateAlgorithms path) m.transcript ([0x13, 0xE3, 0, 0] ++ freeBytes s.draws 28) ([0x13, 0x63, 0, 0] ++ algorithmsBody) ∧
    answers (.getDigests path) m.transcript [0x13, 0x81, 0, 0] ([0x13, 0x01, 0, 1] ++ sha3_512 Config.certificateChain) ∧
    (∀ offset length, let part := (Config.certificateChain.drop offset).take length
      answers (.getCertificate path 0 offset length) m.transcript ([0x13, 0x82, 0, 0] ++ (leBytes 2 offset ++ leBytes 2 length))
        ([0x13, 0x02, 0, 0] ++ (leBytes 2 part.length ++ leBytes 2 (Config.certificateChain.length - offset - part.length) ++ part))) ∧
    (∀ k offset length, k ≠ 0 → fails (.getCertificate path k offset length)
      ([0x13, 0x82, BitVec.ofNat 8 k, 0] ++ (leBytes 2 offset ++ leBytes 2 length))) ∧
    (∀ nonce, signs (.challenge path nonce) ([0x13, 0x83, 0, 0] ++ nonce) ([0x13, 0x03, 0, 1] ++ (sha3_512 Config.certificateChain ++ mine))) ∧
    (∀ nonce index v, index ≠ 0xFF → s.measurement index = some v → signs (.getMeasurements path index nonce)
      ([0x13, 0xE0, 1, BitVec.ofNat 8 index] ++ nonce) ([0x13, 0x60, 0, 0] ++ (1 :: (BitVec.ofNat 8 index :: leBytes 2 v.length ++ v) ++ mine))) ∧
    (∀ nonce index, index ≠ 0xFF → s.measurement index = none →
      fails (.getMeasurements path index nonce) ([0x13, 0xE0, 1, BitVec.ofNat 8 index] ++ nonce)) ∧
    ∀ nonce, signs (.getMeasurements path 0xFF nonce) ([0x13, 0xE0, 1, 0xFF] ++ nonce) ([0x13, 0x60, 0, 0] ++
      (38 :: (measurementIndices.flatMap fun i => measurementBlock i ((s.measurement i).getD [])) ++ mine))

/-- Resets, boot, the archive and the module's health (spec/22 R387, R389, R394, R395, R396, R400, R401, spec/23 R402, R405, spec/20 R367): a reset
cancels what the die's domains hold; a core reset
of a quiet die clears its tiles and memories and boots it, an uncore reset also clears its launch units and leaves it away for at most 2 000 000 ticks
(the model's reading of 20 ms, notes/assumptions/95.md), that of die 0 every die's, a busy one's comes again in the next tick. That the accession
registers stay, that a busy reset is tried again, and that a die that starts anew leaves its partition are the model's choices
(notes/assumptions/61.md), the domain of reduced service and when it starts and ends those of notes/assumptions/64.md, the number of a link that of
notes/assumptions/10.md. Boot places its images and ends with the
map compared; each entry written stands in the ring; a hot stack freezes its domain 40 cycles on; retraining, scrubbed words and reduced service leave
what they are said to. -/
def Obligations.ResetEvents : Prop :=
  ∀ s : State,
    let up : Prop := s.mmc.recovery = false
    (∀ die, 8 ≤ die ∨ ¬up → exec (.coreReset die) s = .next s ∧ exec (.uncoreReset die) s = .next s ∧ exec (.bootStateEntry die) s = .next s) ∧
    (∀ die < 8,
      let cleared (t : State) : Prop := ∀ k, siteDie k = die → t.tile k = Tile.reset ∧ (∀ off < 2 ^ 20, t.byte (sramAddr k off) = 0) ∧
        ∀ off < 2 ^ 17, t.byte (istoreAddr k off) = 0
      -- a reset first cancels what the die's domains hold (spec/15 R295)
      let cancelled (dies : List Nat) : State := (s.slotsOn fun i => dies.contains (i / 2)).foldl State.cancelSlot s
      let resets (i : Instr) (p : State → Prop) : Prop := ∃ t, exec i s = .next t ∧ cleared t ∧ (∀ k, siteDie k ≠ die → t.tile k = s.tile k) ∧
        (∀ k ∈ s.slotsOn fun i => i / 2 == die, t.hasDomain k = false) ∧ (t.die die).available = false ∧ (t.die die).booting = false ∧
        (∀ k ∈ s.slotsOn fun i => i / 2 == die, ∀ tag, (s.entry k tag).state ≠ .running → (t.entry k tag).state = .free) ∧
        t.partitionOfIsland (2 * die) = none ∧ t.partitionOfIsland (2 * die + 1) = none ∧ p t
      (up → s.diesQuiet [die] = true →
        resets (.coreReset die) (fun t => t.agenda = ⟨0, 16 + die, Origin.none, .bootStateEntry die⟩ :: s.agenda) ∧
        (die ≠ 0 → resets (.uncoreReset die) fun t => t.agenda = s.agenda ∧ 0 < (t.die die).away ∧ (t.die die).away ≤ 2000000 ∧
          ∀ k ∈ [2 * die, 2 * die + 1], t.unit k = { LaunchUnit.reset with accU := (s.unit k).accU, accS := (s.unit k).accS })) ∧
      (up → (cancelled [die]).diesQuiet [die] = false → ∃ t, exec (.coreReset die) s = .next t ∧ ⟨s.tick + 1, .coreReset die⟩ ∈ t.inputs) ∧
      (let dies := if die = 0 then List.range 8 else [die]
       up → (cancelled dies).diesQuiet dies = false → ∃ t, exec (.uncoreReset die) s = .next t ∧ ⟨s.tick + 1, .uncoreReset die⟩ ∈ t.inputs) ∧
      (3 ∉ s.mmc.booted → exec (.bootStateEntry die) s = .next s) ∧
      (up → 3 ∈ s.mmc.booted → ∃ t, exec (.bootStateEntry die) s = .next t ∧ (t.die die).booting = true ∧ (t.domain (16 + die)).boot = true ∧
        (t.domain (16 + die)).throttle = 16 ∧ (∀ k ∈ s.slotsOn fun i => i / 2 == die, t.hasDomain k = false) ∧
        t.partitionOfIsland (2 * die) = none ∧ t.partitionOfIsland (2 * die + 1) = none ∧
        (s.memoryCanonical → ∀ k ∈ t.domainSites (16 + die), t.readBytes (istoreAddr k (14 * 8192)) bootImage.length = bootImage) ∧
        ∀ k ∈ t.domainSites (16 + die), t.tile k = Tile.enterBoot (k == siteOf die 0 0) ∧
          (t.tile k).inSup = true ∧ (t.tile k).sup.pc = 960 ∧ (t.tile k).z[0] = if k = siteOf die 0 0 then 1 else 0) ∧
      (s.bootDone die = false → exec (.bootStateEnd die) s = .next s) ∧
      (s.bootDone die = true →
        let found (y : Nat) : Nat := s.readNat (sramAddr (siteOf die 0 0) (0x7FC00 + 4 * y)) 4
        ∃ t, exec (.bootStateEnd die) s = .next t ∧ s.sameBytes t ∧ s.sameRegisters t ∧ (t.die die).booting = false ∧
          ((t.die die).available = true ↔ ∀ y < 32, s.fusedCol die y = found y) ∧ t.hasDomain (16 + die) = false ∧
          ∀ y < 32, (t.die die).leftOut.getD y 32 = found y)) ∧
    (up → s.diesQuiet (List.range 8) = true → ∃ t, exec (.uncoreReset 0) s = .next t ∧ t.pool = [] ∧
      ∀ k < 8448, t.tile k = Tile.reset ∧ ∀ off < 2 ^ 20, t.byte (sramAddr k off) = 0) ∧
    (∀ die, exec (.standbyPowerRemoval die) s =
        .next (s.setDie die { s.die die with ring := [], written := 0, queue := [], dropped := 0 }) ∧
      ((s.die die).queue = [] → exec (.archiveEntryWrite die) s = .next (s.setDie die (s.die die))) ∧
      ∀ e rest, (s.die die).queue = e :: rest → ∃ t, exec (.archiveEntryWrite die) s = .next t ∧ s.sameBytes t ∧ s.sameRegisters t ∧
        (t.die die).written = (s.die die).written + 1 ∧ Table.find (t.die die).ring ((s.die die).written % 4096) =
          some ⟨BitVec.ofNat 64 e.dcc, e.word1 (s.die die).written, e.w2, e.w3⟩ ∧
        ((s.die die).dropped = 0 → (t.die die).queue = rest)) ∧
    (∀ k temperature,
      ((s.stack k).critical = true → exec (.thermalCritical k temperature) s = .next s) ∧
      ((s.stack k).critical = false → ∃ t, exec (.thermalCritical k temperature) s = .next t ∧ s.sameBytes t ∧ s.sameRegisters t ∧
        (t.stack k).critical = true ∧ (t.stack k).temperature = temperature ∧
        ∀ slot ∈ s.slotsOn fun i => i == k / 2, (s.domain slot).spec.cls ≠ .multi → (s.domain slot).plan = none → (s.domain slot).frozen = false →
          t.domain slot = { s.domain slot with plan := some ⟨(s.domain slot).dcc, (s.domain slot).dcc + 40, 0, 0, 0, .thermal k⟩ }) ∧
      ((s.stack k).critical = false → exec (.thermalRecovery k temperature) s = .next s) ∧
      ((s.stack k).critical = true → ∃ t, exec (.thermalRecovery k temperature) s = .next t ∧ s.sameBytes t ∧ s.sameRegisters t ∧
        t.stack k = { s.stack k with critical := false, temperature := temperature })) ∧
    (∀ link latency, ∃ t, exec (.linkRetrain link (some latency)) s = .next t ∧ s.sameBytes t ∧ (∀ k, t.tile k = s.tile k) ∧
      (∀ k, t.domain k = s.domain k) ∧ ∀ n, link = .port n → (t.port n).trained = true ∧ (t.port n).latency = some latency) ∧
    (∀ n, ∃ t, exec (.linkRetrain (.port n) none) s = .next t ∧ s.sameBytes t ∧ s.sameRegisters t ∧ (t.port n).trained = false) ∧
    (∀ link slot site, (∀ n, link ≠ .port n) → s.linkSlots link = [slot] → s.siteOfFlat slot 0 = some site → (s.domain slot).boot = false →
      (s.domain slot).frozen = false → (s.domain slot).draining = none → (s.tile site).event = none →
      ∃ t, exec (.linkRetrain link none) s = .next t ∧
        (t.tile site).event.map (fun e => (e.cause, e.detail)) = some (0x5006, BitVec.ofNat 64 link.number)) ∧
    (∀ die kind address, ∃ t, exec (.patrolScrub die kind address) s = .next t ∧ s.sameBytes t ∧ s.sameRegisters t ∧
      (kind.code < 3 → (t.die die).corrected.getD kind.code 0 = (s.die die).corrected.getD kind.code 0 + 1) ∧
      (kind = .hbm → let c := locChannel address
        c < 64 → (t.stack (address / 2 ^ 36)).correctedCount.getD c 0 = (s.stack (address / 2 ^ 36)).correctedCount.getD c 0 + 1)) ∧
    (s.reduced = true ∨ s.hasDomain 0 = true → exec .reducedServiceStart s = .next s) ∧
    (s.reduced = false → s.hasDomain 0 = false → (s.die 0).available = false ∨ (s.die 0).booting = true → exec .reducedServiceStart s =
      .next { s with inputs := s.inputs ++ [⟨s.tick + 1, .reducedServiceStart⟩] }) ∧
    (s.reduced = false → s.hasDomain 0 = false → (s.die 0).available = true → (s.die 0).booting = false → ∃ t, exec .reducedServiceStart s = .next t ∧ s.sameBytes t ∧ s.sameRegisters t ∧
      t.reduced = true ∧ DomainSpec.shapeOk (t.domain 0).spec = true ∧ (t.domain 0).spec.islands = [0] ∧ (t.domain 0).throttle = 16 ∧
      (t.domain 0).dcc = 0) ∧
    (s.reduced = false → exec .reducedServiceEnd s = .next s) ∧
    (s.reduced = true → s.quiet 0 = true → ∃ t, exec .reducedServiceEnd s = .next t ∧ s.sameBytes t ∧ s.sameRegisters t ∧ t.reduced = false ∧
      t.hasDomain 0 = false ∧ (t.unit 0).userRange = .replicate 64 (0, 0) ∧ ∀ p ∈ (t.unit 0).entries, p.2.state = .free) ∧
    (s.reduced = true → s.quiet 0 = false → exec .reducedServiceEnd s =
      .next { s with trained := true, inputs := s.inputs ++ [⟨s.tick + 1, .reducedServiceEnd⟩] })

/-- Loading and forming (spec/03 R62, R65, R66, spec/17 R330, spec/01 R13): an object whose header or a record fails writes nothing and leaves its
error; a native one without records stands in each of its tiles with its folios and its data image, is measured once, and nothing else changes; that folio
15 sets the supervisor context's profile mask and the others the user context's is the model's choice (notes/assumptions/66.md); a domain that may be formed
starts at DCC 0 in a legal shape, and one that may not changes nothing. A boot domain and a domain of a legal shape list each of their sites once
(spec/01 R8, R11, R12), which statements about a whole domain's tiles take as a premise. -/
def Obligations.LoadAndForm : Prop :=
  (∀ (s : State) (slot : Nat), (s.domain slot).boot = true ∨ DomainSpec.shapeOk (s.domain slot).spec = true → (s.domainSites slot).Nodup) ∧
  (∀ (s : State) (slot : Nat) (place : Placement) (file : List Byte),
    let h := readHeader file
    let c : LoadContext := ⟨file, h, place⟩
    let sites := place.site :: place.others
    (∀ cause, s.loadCause slot place file = some cause → ∃ t, exec (.objectLoad slot place file) s = .next t ∧ s.sameBytes t ∧
      s.sameRegisters t ∧ t.host.loadError = some (errorRecord (2 ^ 32 - 1) 0 cause 0)) ∧
    (s.loadCause slot place file = none → ∀ e, c.relocError = some e → ∃ t, exec (.objectLoad slot place file) s = .next t ∧
      s.sameBytes t ∧ s.sameRegisters t ∧ t.host.loadError = some e) ∧
    (s.loadCause slot place file = none → h.relocs = 0 → h.rosnil = 0 → s.memoryCanonical →
      c.folioBytes.length = 8192 * h.folios → c.dataBytes.length = h.z → (∀ k ∈ sites, k < 8448) → place.folio + h.folios ≤ 16 → place.data + h.z ≤ 2 ^ 20 →
      let code (k : Nat) := istoreAddr k (8192 * place.folio)
      let data (k : Nat) := sramAddr k place.data
      ∃ t, exec (.objectLoad slot place file) s = .next t ∧ s.sameRegisters t ∧ t.host.loadError = none ∧
        (∀ k ∈ sites, t.readBytes (code k) (8192 * h.folios) = (file.drop h.folioAt).take (8192 * h.folios) ∧
          t.readBytes (data k) h.z = (file.drop h.dataAt).take h.z) ∧
        (∀ a, (∀ k ∈ sites, (a < code k ∨ code k + 8192 * h.folios ≤ a) ∧ (a < data k ∨ data k + h.z ≤ a)) → t.byte a = s.byte a) ∧
        ((∀ k ∈ h.kernelList file, k.flags % 2 = 0) → (t.unit slot).accU = extendAccession (s.unit slot).accU (shake256 file) ∧
          (t.unit slot).accS = (s.unit slot).accS) ∧
        (place.folio + h.folios ≤ 15 → 0 < h.folios → (t.unit slot).profile = h.mask ∧ (t.unit slot).supProfile = (s.unit slot).supProfile) ∧
        (place.folio = 15 → h.folios = 1 → (t.unit slot).profile = (s.unit slot).profile ∧ (t.unit slot).supProfile = h.mask))) ∧
  ∀ (s : State) (slot : Nat) (spec : DomainSpec),
    (s.formable slot spec = false → exec (.domainFormation slot spec) s = .next s) ∧
    (s.formable slot spec = true → ∃ t, exec (.domainFormation slot spec) s = .next t ∧ s.sameBytes t ∧ s.sameRegisters t ∧
      (t.domain slot).spec = spec ∧ DomainSpec.shapeOk spec = true ∧ (t.domain slot).dcc = 0 ∧ (t.domain slot).throttle = spec.throttle ∧
      (t.domain slot).launch = none ∧ (∀ k, k ≠ slot → t.domain k = s.domain k) ∧
      (∀ k < 32, spec.owns k = true → (t.stack k).used = true) ∧ ∀ k, s.partitionOfIsland (spec.islands.headD slot) = some k → k ∉ t.mmc.forming)
end

