-- ==== Sys2Proof/Laws/State.lean ====
section
/-!
SUPPORT. What an update of the state leaves: for each update and each field that it does not write, and each reading that rests on
other fields, one equation.
-/
namespace Sys2Proof.Machine

/-! `setTile` -/

@[simp] theorem State.setTile_mem (s : State) (site : Nat) (t : Tile) : (s.setTile site t).mem = s.mem := rfl
@[simp] theorem State.setTile_badWords (s : State) (site : Nat) (t : Tile) : (s.setTile site t).badWords = s.badWords := rfl
@[simp] theorem State.setTile_badRegs (s : State) (site : Nat) (t : Tile) : (s.setTile site t).badRegs = s.badRegs := rfl
@[simp] theorem State.setTile_domains (s : State) (site : Nat) (t : Tile) : (s.setTile site t).domains = s.domains := rfl
@[simp] theorem State.setTile_units (s : State) (site : Nat) (t : Tile) : (s.setTile site t).units = s.units := rfl
@[simp] theorem State.setTile_dies (s : State) (site : Nat) (t : Tile) : (s.setTile site t).dies = s.dies := rfl
@[simp] theorem State.setTile_hbmStacks (s : State) (site : Nat) (t : Tile) : (s.setTile site t).hbmStacks = s.hbmStacks := rfl
@[simp] theorem State.setTile_pool (s : State) (site : Nat) (t : Tile) : (s.setTile site t).pool = s.pool := rfl
@[simp] theorem State.setTile_messages (s : State) (site : Nat) (t : Tile) : (s.setTile site t).messages = s.messages := rfl
@[simp] theorem State.setTile_requests (s : State) (site : Nat) (t : Tile) : (s.setTile site t).requests = s.requests := rfl
@[simp] theorem State.setTile_owed (s : State) (site : Nat) (t : Tile) : (s.setTile site t).owed = s.owed := rfl
@[simp] theorem State.setTile_barriers (s : State) (site : Nat) (t : Tile) : (s.setTile site t).barriers = s.barriers := rfl
@[simp] theorem State.setTile_taken (s : State) (site : Nat) (t : Tile) : (s.setTile site t).taken = s.taken := rfl
@[simp] theorem State.setTile_arriving (s : State) (site : Nat) (t : Tile) : (s.setTile site t).arriving = s.arriving := rfl
@[simp] theorem State.setTile_mmc (s : State) (site : Nat) (t : Tile) : (s.setTile site t).mmc = s.mmc := rfl
@[simp] theorem State.setTile_ports (s : State) (site : Nat) (t : Tile) : (s.setTile site t).ports = s.ports := rfl
@[simp] theorem State.setTile_collectives (s : State) (site : Nat) (t : Tile) : (s.setTile site t).collectives = s.collectives := rfl
@[simp] theorem State.setTile_host (s : State) (site : Nat) (t : Tile) : (s.setTile site t).host = s.host := rfl
@[simp] theorem State.setTile_reduced (s : State) (site : Nat) (t : Tile) : (s.setTile site t).reduced = s.reduced := rfl
@[simp] theorem State.setTile_trained (s : State) (site : Nat) (t : Tile) : (s.setTile site t).trained = s.trained := rfl
@[simp] theorem State.setTile_portable (s : State) (site : Nat) (t : Tile) : (s.setTile site t).portable = s.portable := rfl
@[simp] theorem State.setTile_tick (s : State) (site : Nat) (t : Tile) : (s.setTile site t).tick = s.tick := rfl
@[simp] theorem State.setTile_phase (s : State) (site : Nat) (t : Tile) : (s.setTile site t).phase = s.phase := rfl
@[simp] theorem State.setTile_pulsing (s : State) (site : Nat) (t : Tile) : (s.setTile site t).pulsing = s.pulsing := rfl
@[simp] theorem State.setTile_losers (s : State) (site : Nat) (t : Tile) : (s.setTile site t).losers = s.losers := rfl
@[simp] theorem State.setTile_agenda (s : State) (site : Nat) (t : Tile) : (s.setTile site t).agenda = s.agenda := rfl
@[simp] theorem State.setTile_cur (s : State) (site : Nat) (t : Tile) : (s.setTile site t).cur = s.cur := rfl
@[simp] theorem State.setTile_inputs (s : State) (site : Nat) (t : Tile) : (s.setTile site t).inputs = s.inputs := rfl
@[simp] theorem State.setTile_nextId (s : State) (site : Nat) (t : Tile) : (s.setTile site t).nextId = s.nextId := rfl
@[simp] theorem State.setTile_draws (s : State) (site : Nat) (t : Tile) : (s.setTile site t).draws = s.draws := rfl
@[simp] theorem State.setTile_domain (s : State) (site : Nat) (t : Tile) (i : Nat) : (s.setTile site t).domain i = s.domain i := rfl
@[simp] theorem State.setTile_unit (s : State) (site : Nat) (t : Tile) (i : Nat) : (s.setTile site t).unit i = s.unit i := rfl
@[simp] theorem State.setTile_die (s : State) (site : Nat) (t : Tile) (i : Nat) : (s.setTile site t).die i = s.die i := rfl
@[simp] theorem State.setTile_stack (s : State) (site : Nat) (t : Tile) (i : Nat) : (s.setTile site t).stack i = s.stack i := rfl
@[simp] theorem State.setTile_port (s : State) (site : Nat) (t : Tile) (i : Nat) : (s.setTile site t).port i = s.port i := rfl
@[simp] theorem State.setTile_byte (s : State) (site : Nat) (t : Tile) (i : Nat) : (s.setTile site t).byte i = s.byte i := rfl
@[simp] theorem State.setTile_readBytes (s : State) (site : Nat) (t : Tile) (i j : Nat) : (s.setTile site t).readBytes i j = s.readBytes i j := rfl
@[simp] theorem State.setTile_hasDomain (s : State) (site : Nat) (t : Tile) (i : Nat) : (s.setTile site t).hasDomain i = s.hasDomain i := rfl
@[simp] theorem State.setTile_slotOf (s : State) (site : Nat) (t : Tile) (i : Nat) : (s.setTile site t).slotOf i = s.slotOf i := rfl
@[simp] theorem State.setTile_domainSites (s : State) (site : Nat) (t : Tile) (i : Nat) : (s.setTile site t).domainSites i = s.domainSites i := rfl
@[simp] theorem State.setTile_flat (s : State) (site : Nat) (t : Tile) (i j : Nat) : (s.setTile site t).flat i j = s.flat i j := rfl
@[simp] theorem State.setTile_flatLocal (s : State) (site : Nat) (t : Tile) (i j : Nat) : (s.setTile site t).flatLocal i j = s.flatLocal i j := rfl
@[simp] theorem State.setTile_siteOfFlat (s : State) (site : Nat) (t : Tile) (i j : Nat) : (s.setTile site t).siteOfFlat i j = s.siteOfFlat i j := rfl

/-! `mapTile` -/

@[simp] theorem State.mapTile_mem (s : State) (site : Nat) (f : Tile → Tile) : (s.mapTile site f).mem = s.mem := rfl
@[simp] theorem State.mapTile_badWords (s : State) (site : Nat) (f : Tile → Tile) : (s.mapTile site f).badWords = s.badWords := rfl
@[simp] theorem State.mapTile_badRegs (s : State) (site : Nat) (f : Tile → Tile) : (s.mapTile site f).badRegs = s.badRegs := rfl
@[simp] theorem State.mapTile_domains (s : State) (site : Nat) (f : Tile → Tile) : (s.mapTile site f).domains = s.domains := rfl
@[simp] theorem State.mapTile_units (s : State) (site : Nat) (f : Tile → Tile) : (s.mapTile site f).units = s.units := rfl
@[simp] theorem State.mapTile_dies (s : State) (site : Nat) (f : Tile → Tile) : (s.mapTile site f).dies = s.dies := rfl
@[simp] theorem State.mapTile_hbmStacks (s : State) (site : Nat) (f : Tile → Tile) : (s.mapTile site f).hbmStacks = s.hbmStacks := rfl
@[simp] theorem State.mapTile_pool (s : State) (site : Nat) (f : Tile → Tile) : (s.mapTile site f).pool = s.pool := rfl
@[simp] theorem State.mapTile_messages (s : State) (site : Nat) (f : Tile → Tile) : (s.mapTile site f).messages = s.messages := rfl
@[simp] theorem State.mapTile_requests (s : State) (site : Nat) (f : Tile → Tile) : (s.mapTile site f).requests = s.requests := rfl
@[simp] theorem State.mapTile_owed (s : State) (site : Nat) (f : Tile → Tile) : (s.mapTile site f).owed = s.owed := rfl
@[simp] theorem State.mapTile_barriers (s : State) (site : Nat) (f : Tile → Tile) : (s.mapTile site f).barriers = s.barriers := rfl
@[simp] theorem State.mapTile_taken (s : State) (site : Nat) (f : Tile → Tile) : (s.mapTile site f).taken = s.taken := rfl
@[simp] theorem State.mapTile_arriving (s : State) (site : Nat) (f : Tile → Tile) : (s.mapTile site f).arriving = s.arriving := rfl
@[simp] theorem State.mapTile_mmc (s : State) (site : Nat) (f : Tile → Tile) : (s.mapTile site f).mmc = s.mmc := rfl
@[simp] theorem State.mapTile_ports (s : State) (site : Nat) (f : Tile → Tile) : (s.mapTile site f).ports = s.ports := rfl
@[simp] theorem State.mapTile_collectives (s : State) (site : Nat) (f : Tile → Tile) : (s.mapTile site f).collectives = s.collectives := rfl
@[simp] theorem State.mapTile_host (s : State) (site : Nat) (f : Tile → Tile) : (s.mapTile site f).host = s.host := rfl
@[simp] theorem State.mapTile_reduced (s : State) (site : Nat) (f : Tile → Tile) : (s.mapTile site f).reduced = s.reduced := rfl
@[simp] theorem State.mapTile_trained (s : State) (site : Nat) (f : Tile → Tile) : (s.mapTile site f).trained = s.trained := rfl
@[simp] theorem State.mapTile_portable (s : State) (site : Nat) (f : Tile → Tile) : (s.mapTile site f).portable = s.portable := rfl
@[simp] theorem State.mapTile_tick (s : State) (site : Nat) (f : Tile → Tile) : (s.mapTile site f).tick = s.tick := rfl
@[simp] theorem State.mapTile_phase (s : State) (site : Nat) (f : Tile → Tile) : (s.mapTile site f).phase = s.phase := rfl
@[simp] theorem State.mapTile_pulsing (s : State) (site : Nat) (f : Tile → Tile) : (s.mapTile site f).pulsing = s.pulsing := rfl
@[simp] theorem State.mapTile_losers (s : State) (site : Nat) (f : Tile → Tile) : (s.mapTile site f).losers = s.losers := rfl
@[simp] theorem State.mapTile_agenda (s : State) (site : Nat) (f : Tile → Tile) : (s.mapTile site f).agenda = s.agenda := rfl
@[simp] theorem State.mapTile_cur (s : State) (site : Nat) (f : Tile → Tile) : (s.mapTile site f).cur = s.cur := rfl
@[simp] theorem State.mapTile_inputs (s : State) (site : Nat) (f : Tile → Tile) : (s.mapTile site f).inputs = s.inputs := rfl
@[simp] theorem State.mapTile_nextId (s : State) (site : Nat) (f : Tile → Tile) : (s.mapTile site f).nextId = s.nextId := rfl
@[simp] theorem State.mapTile_draws (s : State) (site : Nat) (f : Tile → Tile) : (s.mapTile site f).draws = s.draws := rfl
@[simp] theorem State.mapTile_domain (s : State) (site : Nat) (f : Tile → Tile) (i : Nat) : (s.mapTile site f).domain i = s.domain i := rfl
@[simp] theorem State.mapTile_unit (s : State) (site : Nat) (f : Tile → Tile) (i : Nat) : (s.mapTile site f).unit i = s.unit i := rfl
@[simp] theorem State.mapTile_die (s : State) (site : Nat) (f : Tile → Tile) (i : Nat) : (s.mapTile site f).die i = s.die i := rfl
@[simp] theorem State.mapTile_stack (s : State) (site : Nat) (f : Tile → Tile) (i : Nat) : (s.mapTile site f).stack i = s.stack i := rfl
@[simp] theorem State.mapTile_port (s : State) (site : Nat) (f : Tile → Tile) (i : Nat) : (s.mapTile site f).port i = s.port i := rfl
@[simp] theorem State.mapTile_byte (s : State) (site : Nat) (f : Tile → Tile) (i : Nat) : (s.mapTile site f).byte i = s.byte i := rfl
@[simp] theorem State.mapTile_readBytes (s : State) (site : Nat) (f : Tile → Tile) (i j : Nat) : (s.mapTile site f).readBytes i j = s.readBytes i j := rfl
@[simp] theorem State.mapTile_hasDomain (s : State) (site : Nat) (f : Tile → Tile) (i : Nat) : (s.mapTile site f).hasDomain i = s.hasDomain i := rfl
@[simp] theorem State.mapTile_slotOf (s : State) (site : Nat) (f : Tile → Tile) (i : Nat) : (s.mapTile site f).slotOf i = s.slotOf i := rfl
@[simp] theorem State.mapTile_domainSites (s : State) (site : Nat) (f : Tile → Tile) (i : Nat) : (s.mapTile site f).domainSites i = s.domainSites i := rfl
@[simp] theorem State.mapTile_flat (s : State) (site : Nat) (f : Tile → Tile) (i j : Nat) : (s.mapTile site f).flat i j = s.flat i j := rfl
@[simp] theorem State.mapTile_flatLocal (s : State) (site : Nat) (f : Tile → Tile) (i j : Nat) : (s.mapTile site f).flatLocal i j = s.flatLocal i j := rfl
@[simp] theorem State.mapTile_siteOfFlat (s : State) (site : Nat) (f : Tile → Tile) (i j : Nat) : (s.mapTile site f).siteOfFlat i j = s.siteOfFlat i j := rfl

/-! `setDomain` -/

@[simp] theorem State.setDomain_mem (s : State) (slot : Nat) (d : Domain) : (s.setDomain slot d).mem = s.mem := rfl
@[simp] theorem State.setDomain_badWords (s : State) (slot : Nat) (d : Domain) : (s.setDomain slot d).badWords = s.badWords := rfl
@[simp] theorem State.setDomain_badRegs (s : State) (slot : Nat) (d : Domain) : (s.setDomain slot d).badRegs = s.badRegs := rfl
@[simp] theorem State.setDomain_tiles (s : State) (slot : Nat) (d : Domain) : (s.setDomain slot d).tiles = s.tiles := rfl
@[simp] theorem State.setDomain_units (s : State) (slot : Nat) (d : Domain) : (s.setDomain slot d).units = s.units := rfl
@[simp] theorem State.setDomain_dies (s : State) (slot : Nat) (d : Domain) : (s.setDomain slot d).dies = s.dies := rfl
@[simp] theorem State.setDomain_hbmStacks (s : State) (slot : Nat) (d : Domain) : (s.setDomain slot d).hbmStacks = s.hbmStacks := rfl
@[simp] theorem State.setDomain_pool (s : State) (slot : Nat) (d : Domain) : (s.setDomain slot d).pool = s.pool := rfl
@[simp] theorem State.setDomain_messages (s : State) (slot : Nat) (d : Domain) : (s.setDomain slot d).messages = s.messages := rfl
@[simp] theorem State.setDomain_requests (s : State) (slot : Nat) (d : Domain) : (s.setDomain slot d).requests = s.requests := rfl
@[simp] theorem State.setDomain_owed (s : State) (slot : Nat) (d : Domain) : (s.setDomain slot d).owed = s.owed := rfl
@[simp] theorem State.setDomain_barriers (s : State) (slot : Nat) (d : Domain) : (s.setDomain slot d).barriers = s.barriers := rfl
@[simp] theorem State.setDomain_taken (s : State) (slot : Nat) (d : Domain) : (s.setDomain slot d).taken = s.taken := rfl
@[simp] theorem State.setDomain_arriving (s : State) (slot : Nat) (d : Domain) : (s.setDomain slot d).arriving = s.arriving := rfl
@[simp] theorem State.setDomain_mmc (s : State) (slot : Nat) (d : Domain) : (s.setDomain slot d).mmc = s.mmc := rfl
@[simp] theorem State.setDomain_ports (s : State) (slot : Nat) (d : Domain) : (s.setDomain slot d).ports = s.ports := rfl
@[simp] theorem State.setDomain_collectives (s : State) (slot : Nat) (d : Domain) : (s.setDomain slot d).collectives = s.collectives := rfl
@[simp] theorem State.setDomain_host (s : State) (slot : Nat) (d : Domain) : (s.setDomain slot d).host = s.host := rfl
@[simp] theorem State.setDomain_reduced (s : State) (slot : Nat) (d : Domain) : (s.setDomain slot d).reduced = s.reduced := rfl
@[simp] theorem State.setDomain_trained (s : State) (slot : Nat) (d : Domain) : (s.setDomain slot d).trained = s.trained := rfl
@[simp] theorem State.setDomain_portable (s : State) (slot : Nat) (d : Domain) : (s.setDomain slot d).portable = s.portable := rfl
@[simp] theorem State.setDomain_tick (s : State) (slot : Nat) (d : Domain) : (s.setDomain slot d).tick = s.tick := rfl
@[simp] theorem State.setDomain_phase (s : State) (slot : Nat) (d : Domain) : (s.setDomain slot d).phase = s.phase := rfl
@[simp] theorem State.setDomain_pulsing (s : State) (slot : Nat) (d : Domain) : (s.setDomain slot d).pulsing = s.pulsing := rfl
@[simp] theorem State.setDomain_losers (s : State) (slot : Nat) (d : Domain) : (s.setDomain slot d).losers = s.losers := rfl
@[simp] theorem State.setDomain_agenda (s : State) (slot : Nat) (d : Domain) : (s.setDomain slot d).agenda = s.agenda := rfl
@[simp] theorem State.setDomain_cur (s : State) (slot : Nat) (d : Domain) : (s.setDomain slot d).cur = s.cur := rfl
@[simp] theorem State.setDomain_inputs (s : State) (slot : Nat) (d : Domain) : (s.setDomain slot d).inputs = s.inputs := rfl
@[simp] theorem State.setDomain_nextId (s : State) (slot : Nat) (d : Domain) : (s.setDomain slot d).nextId = s.nextId := rfl
@[simp] theorem State.setDomain_draws (s : State) (slot : Nat) (d : Domain) : (s.setDomain slot d).draws = s.draws := rfl
@[simp] theorem State.setDomain_tile (s : State) (slot : Nat) (d : Domain) (i : Nat) : (s.setDomain slot d).tile i = s.tile i := rfl
@[simp] theorem State.setDomain_unit (s : State) (slot : Nat) (d : Domain) (i : Nat) : (s.setDomain slot d).unit i = s.unit i := rfl
@[simp] theorem State.setDomain_die (s : State) (slot : Nat) (d : Domain) (i : Nat) : (s.setDomain slot d).die i = s.die i := rfl
@[simp] theorem State.setDomain_stack (s : State) (slot : Nat) (d : Domain) (i : Nat) : (s.setDomain slot d).stack i = s.stack i := rfl
@[simp] theorem State.setDomain_port (s : State) (slot : Nat) (d : Domain) (i : Nat) : (s.setDomain slot d).port i = s.port i := rfl
@[simp] theorem State.setDomain_byte (s : State) (slot : Nat) (d : Domain) (i : Nat) : (s.setDomain slot d).byte i = s.byte i := rfl
@[simp] theorem State.setDomain_readBytes (s : State) (slot : Nat) (d : Domain) (i j : Nat) : (s.setDomain slot d).readBytes i j = s.readBytes i j := rfl

/-! `mapDomain` -/

@[simp] theorem State.mapDomain_mem (s : State) (slot : Nat) (f : Domain → Domain) : (s.mapDomain slot f).mem = s.mem := rfl
@[simp] theorem State.mapDomain_badWords (s : State) (slot : Nat) (f : Domain → Domain) : (s.mapDomain slot f).badWords = s.badWords := rfl
@[simp] theorem State.mapDomain_badRegs (s : State) (slot : Nat) (f : Domain → Domain) : (s.mapDomain slot f).badRegs = s.badRegs := rfl
@[simp] theorem State.mapDomain_tiles (s : State) (slot : Nat) (f : Domain → Domain) : (s.mapDomain slot f).tiles = s.tiles := rfl
@[simp] theorem State.mapDomain_units (s : State) (slot : Nat) (f : Domain → Domain) : (s.mapDomain slot f).units = s.units := rfl
@[simp] theorem State.mapDomain_dies (s : State) (slot : Nat) (f : Domain → Domain) : (s.mapDomain slot f).dies = s.dies := rfl
@[simp] theorem State.mapDomain_hbmStacks (s : State) (slot : Nat) (f : Domain → Domain) : (s.mapDomain slot f).hbmStacks = s.hbmStacks := rfl
@[simp] theorem State.mapDomain_pool (s : State) (slot : Nat) (f : Domain → Domain) : (s.mapDomain slot f).pool = s.pool := rfl
@[simp] theorem State.mapDomain_messages (s : State) (slot : Nat) (f : Domain → Domain) : (s.mapDomain slot f).messages = s.messages := rfl
@[simp] theorem State.mapDomain_requests (s : State) (slot : Nat) (f : Domain → Domain) : (s.mapDomain slot f).requests = s.requests := rfl
@[simp] theorem State.mapDomain_owed (s : State) (slot : Nat) (f : Domain → Domain) : (s.mapDomain slot f).owed = s.owed := rfl
@[simp] theorem State.mapDomain_barriers (s : State) (slot : Nat) (f : Domain → Domain) : (s.mapDomain slot f).barriers = s.barriers := rfl
@[simp] theorem State.mapDomain_taken (s : State) (slot : Nat) (f : Domain → Domain) : (s.mapDomain slot f).taken = s.taken := rfl
@[simp] theorem State.mapDomain_arriving (s : State) (slot : Nat) (f : Domain → Domain) : (s.mapDomain slot f).arriving = s.arriving := rfl
@[simp] theorem State.mapDomain_mmc (s : State) (slot : Nat) (f : Domain → Domain) : (s.mapDomain slot f).mmc = s.mmc := rfl
@[simp] theorem State.mapDomain_ports (s : State) (slot : Nat) (f : Domain → Domain) : (s.mapDomain slot f).ports = s.ports := rfl
@[simp] theorem State.mapDomain_collectives (s : State) (slot : Nat) (f : Domain → Domain) : (s.mapDomain slot f).collectives = s.collectives := rfl
@[simp] theorem State.mapDomain_host (s : State) (slot : Nat) (f : Domain → Domain) : (s.mapDomain slot f).host = s.host := rfl
@[simp] theorem State.mapDomain_reduced (s : State) (slot : Nat) (f : Domain → Domain) : (s.mapDomain slot f).reduced = s.reduced := rfl
@[simp] theorem State.mapDomain_trained (s : State) (slot : Nat) (f : Domain → Domain) : (s.mapDomain slot f).trained = s.trained := rfl
@[simp] theorem State.mapDomain_portable (s : State) (slot : Nat) (f : Domain → Domain) : (s.mapDomain slot f).portable = s.portable := rfl
@[simp] theorem State.mapDomain_tick (s : State) (slot : Nat) (f : Domain → Domain) : (s.mapDomain slot f).tick = s.tick := rfl
@[simp] theorem State.mapDomain_phase (s : State) (slot : Nat) (f : Domain → Domain) : (s.mapDomain slot f).phase = s.phase := rfl
@[simp] theorem State.mapDomain_pulsing (s : State) (slot : Nat) (f : Domain → Domain) : (s.mapDomain slot f).pulsing = s.pulsing := rfl
@[simp] theorem State.mapDomain_losers (s : State) (slot : Nat) (f : Domain → Domain) : (s.mapDomain slot f).losers = s.losers := rfl
@[simp] theorem State.mapDomain_agenda (s : State) (slot : Nat) (f : Domain → Domain) : (s.mapDomain slot f).agenda = s.agenda := rfl
@[simp] theorem State.mapDomain_cur (s : State) (slot : Nat) (f : Domain → Domain) : (s.mapDomain slot f).cur = s.cur := rfl
@[simp] theorem State.mapDomain_inputs (s : State) (slot : Nat) (f : Domain → Domain) : (s.mapDomain slot f).inputs = s.inputs := rfl
@[simp] theorem State.mapDomain_nextId (s : State) (slot : Nat) (f : Domain → Domain) : (s.mapDomain slot f).nextId = s.nextId := rfl
@[simp] theorem State.mapDomain_draws (s : State) (slot : Nat) (f : Domain → Domain) : (s.mapDomain slot f).draws = s.draws := rfl
@[simp] theorem State.mapDomain_tile (s : State) (slot : Nat) (f : Domain → Domain) (i : Nat) : (s.mapDomain slot f).tile i = s.tile i := rfl
@[simp] theorem State.mapDomain_unit (s : State) (slot : Nat) (f : Domain → Domain) (i : Nat) : (s.mapDomain slot f).unit i = s.unit i := rfl
@[simp] theorem State.mapDomain_die (s : State) (slot : Nat) (f : Domain → Domain) (i : Nat) : (s.mapDomain slot f).die i = s.die i := rfl
@[simp] theorem State.mapDomain_stack (s : State) (slot : Nat) (f : Domain → Domain) (i : Nat) : (s.mapDomain slot f).stack i = s.stack i := rfl
@[simp] theorem State.mapDomain_port (s : State) (slot : Nat) (f : Domain → Domain) (i : Nat) : (s.mapDomain slot f).port i = s.port i := rfl
@[simp] theorem State.mapDomain_byte (s : State) (slot : Nat) (f : Domain → Domain) (i : Nat) : (s.mapDomain slot f).byte i = s.byte i := rfl
@[simp] theorem State.mapDomain_readBytes (s : State) (slot : Nat) (f : Domain → Domain) (i j : Nat) : (s.mapDomain slot f).readBytes i j = s.readBytes i j := rfl

/-! `setUnit` -/

@[simp] theorem State.setUnit_mem (s : State) (slot : Nat) (u : LaunchUnit) : (s.setUnit slot u).mem = s.mem := rfl
@[simp] theorem State.setUnit_badWords (s : State) (slot : Nat) (u : LaunchUnit) : (s.setUnit slot u).badWords = s.badWords := rfl
@[simp] theorem State.setUnit_badRegs (s : State) (slot : Nat) (u : LaunchUnit) : (s.setUnit slot u).badRegs = s.badRegs := rfl
@[simp] theorem State.setUnit_tiles (s : State) (slot : Nat) (u : LaunchUnit) : (s.setUnit slot u).tiles = s.tiles := rfl
@[simp] theorem State.setUnit_domains (s : State) (slot : Nat) (u : LaunchUnit) : (s.setUnit slot u).domains = s.domains := rfl
@[simp] theorem State.setUnit_dies (s : State) (slot : Nat) (u : LaunchUnit) : (s.setUnit slot u).dies = s.dies := rfl
@[simp] theorem State.setUnit_hbmStacks (s : State) (slot : Nat) (u : LaunchUnit) : (s.setUnit slot u).hbmStacks = s.hbmStacks := rfl
@[simp] theorem State.setUnit_pool (s : State) (slot : Nat) (u : LaunchUnit) : (s.setUnit slot u).pool = s.pool := rfl
@[simp] theorem State.setUnit_messages (s : State) (slot : Nat) (u : LaunchUnit) : (s.setUnit slot u).messages = s.messages := rfl
@[simp] theorem State.setUnit_requests (s : State) (slot : Nat) (u : LaunchUnit) : (s.setUnit slot u).requests = s.requests := rfl
@[simp] theorem State.setUnit_owed (s : State) (slot : Nat) (u : LaunchUnit) : (s.setUnit slot u).owed = s.owed := rfl
@[simp] theorem State.setUnit_barriers (s : State) (slot : Nat) (u : LaunchUnit) : (s.setUnit slot u).barriers = s.barriers := rfl
@[simp] theorem State.setUnit_taken (s : State) (slot : Nat) (u : LaunchUnit) : (s.setUnit slot u).taken = s.taken := rfl
@[simp] theorem State.setUnit_arriving (s : State) (slot : Nat) (u : LaunchUnit) : (s.setUnit slot u).arriving = s.arriving := rfl
@[simp] theorem State.setUnit_mmc (s : State) (slot : Nat) (u : LaunchUnit) : (s.setUnit slot u).mmc = s.mmc := rfl
@[simp] theorem State.setUnit_ports (s : State) (slot : Nat) (u : LaunchUnit) : (s.setUnit slot u).ports = s.ports := rfl
@[simp] theorem State.setUnit_collectives (s : State) (slot : Nat) (u : LaunchUnit) : (s.setUnit slot u).collectives = s.collectives := rfl
@[simp] theorem State.setUnit_host (s : State) (slot : Nat) (u : LaunchUnit) : (s.setUnit slot u).host = s.host := rfl
@[simp] theorem State.setUnit_reduced (s : State) (slot : Nat) (u : LaunchUnit) : (s.setUnit slot u).reduced = s.reduced := rfl
@[simp] theorem State.setUnit_trained (s : State) (slot : Nat) (u : LaunchUnit) : (s.setUnit slot u).trained = s.trained := rfl
@[simp] theorem State.setUnit_portable (s : State) (slot : Nat) (u : LaunchUnit) : (s.setUnit slot u).portable = s.portable := rfl
@[simp] theorem State.setUnit_tick (s : State) (slot : Nat) (u : LaunchUnit) : (s.setUnit slot u).tick = s.tick := rfl
@[simp] theorem State.setUnit_phase (s : State) (slot : Nat) (u : LaunchUnit) : (s.setUnit slot u).phase = s.phase := rfl
@[simp] theorem State.setUnit_pulsing (s : State) (slot : Nat) (u : LaunchUnit) : (s.setUnit slot u).pulsing = s.pulsing := rfl
@[simp] theorem State.setUnit_losers (s : State) (slot : Nat) (u : LaunchUnit) : (s.setUnit slot u).losers = s.losers := rfl
@[simp] theorem State.setUnit_agenda (s : State) (slot : Nat) (u : LaunchUnit) : (s.setUnit slot u).agenda = s.agenda := rfl
@[simp] theorem State.setUnit_cur (s : State) (slot : Nat) (u : LaunchUnit) : (s.setUnit slot u).cur = s.cur := rfl
@[simp] theorem State.setUnit_inputs (s : State) (slot : Nat) (u : LaunchUnit) : (s.setUnit slot u).inputs = s.inputs := rfl
@[simp] theorem State.setUnit_nextId (s : State) (slot : Nat) (u : LaunchUnit) : (s.setUnit slot u).nextId = s.nextId := rfl
@[simp] theorem State.setUnit_draws (s : State) (slot : Nat) (u : LaunchUnit) : (s.setUnit slot u).draws = s.draws := rfl
@[simp] theorem State.setUnit_tile (s : State) (slot : Nat) (u : LaunchUnit) (i : Nat) : (s.setUnit slot u).tile i = s.tile i := rfl
@[simp] theorem State.setUnit_domain (s : State) (slot : Nat) (u : LaunchUnit) (i : Nat) : (s.setUnit slot u).domain i = s.domain i := rfl
@[simp] theorem State.setUnit_die (s : State) (slot : Nat) (u : LaunchUnit) (i : Nat) : (s.setUnit slot u).die i = s.die i := rfl
@[simp] theorem State.setUnit_stack (s : State) (slot : Nat) (u : LaunchUnit) (i : Nat) : (s.setUnit slot u).stack i = s.stack i := rfl
@[simp] theorem State.setUnit_port (s : State) (slot : Nat) (u : LaunchUnit) (i : Nat) : (s.setUnit slot u).port i = s.port i := rfl
@[simp] theorem State.setUnit_byte (s : State) (slot : Nat) (u : LaunchUnit) (i : Nat) : (s.setUnit slot u).byte i = s.byte i := rfl
@[simp] theorem State.setUnit_readBytes (s : State) (slot : Nat) (u : LaunchUnit) (i j : Nat) : (s.setUnit slot u).readBytes i j = s.readBytes i j := rfl
@[simp] theorem State.setUnit_hasDomain (s : State) (slot : Nat) (u : LaunchUnit) (i : Nat) : (s.setUnit slot u).hasDomain i = s.hasDomain i := rfl
@[simp] theorem State.setUnit_slotOf (s : State) (slot : Nat) (u : LaunchUnit) (i : Nat) : (s.setUnit slot u).slotOf i = s.slotOf i := rfl
@[simp] theorem State.setUnit_domainSites (s : State) (slot : Nat) (u : LaunchUnit) (i : Nat) : (s.setUnit slot u).domainSites i = s.domainSites i := rfl
@[simp] theorem State.setUnit_flat (s : State) (slot : Nat) (u : LaunchUnit) (i j : Nat) : (s.setUnit slot u).flat i j = s.flat i j := rfl
@[simp] theorem State.setUnit_flatLocal (s : State) (slot : Nat) (u : LaunchUnit) (i j : Nat) : (s.setUnit slot u).flatLocal i j = s.flatLocal i j := rfl
@[simp] theorem State.setUnit_siteOfFlat (s : State) (slot : Nat) (u : LaunchUnit) (i j : Nat) : (s.setUnit slot u).siteOfFlat i j = s.siteOfFlat i j := rfl

/-! `setDie` -/

@[simp] theorem State.setDie_mem (s : State) (die : Nat) (d : Die) : (s.setDie die d).mem = s.mem := rfl
@[simp] theorem State.setDie_badWords (s : State) (die : Nat) (d : Die) : (s.setDie die d).badWords = s.badWords := rfl
@[simp] theorem State.setDie_badRegs (s : State) (die : Nat) (d : Die) : (s.setDie die d).badRegs = s.badRegs := rfl
@[simp] theorem State.setDie_tiles (s : State) (die : Nat) (d : Die) : (s.setDie die d).tiles = s.tiles := rfl
@[simp] theorem State.setDie_domains (s : State) (die : Nat) (d : Die) : (s.setDie die d).domains = s.domains := rfl
@[simp] theorem State.setDie_units (s : State) (die : Nat) (d : Die) : (s.setDie die d).units = s.units := rfl
@[simp] theorem State.setDie_hbmStacks (s : State) (die : Nat) (d : Die) : (s.setDie die d).hbmStacks = s.hbmStacks := rfl
@[simp] theorem State.setDie_pool (s : State) (die : Nat) (d : Die) : (s.setDie die d).pool = s.pool := rfl
@[simp] theorem State.setDie_messages (s : State) (die : Nat) (d : Die) : (s.setDie die d).messages = s.messages := rfl
@[simp] theorem State.setDie_requests (s : State) (die : Nat) (d : Die) : (s.setDie die d).requests = s.requests := rfl
@[simp] theorem State.setDie_owed (s : State) (die : Nat) (d : Die) : (s.setDie die d).owed = s.owed := rfl
@[simp] theorem State.setDie_barriers (s : State) (die : Nat) (d : Die) : (s.setDie die d).barriers = s.barriers := rfl
@[simp] theorem State.setDie_taken (s : State) (die : Nat) (d : Die) : (s.setDie die d).taken = s.taken := rfl
@[simp] theorem State.setDie_arriving (s : State) (die : Nat) (d : Die) : (s.setDie die d).arriving = s.arriving := rfl
@[simp] theorem State.setDie_mmc (s : State) (die : Nat) (d : Die) : (s.setDie die d).mmc = s.mmc := rfl
@[simp] theorem State.setDie_ports (s : State) (die : Nat) (d : Die) : (s.setDie die d).ports = s.ports := rfl
@[simp] theorem State.setDie_collectives (s : State) (die : Nat) (d : Die) : (s.setDie die d).collectives = s.collectives := rfl
@[simp] theorem State.setDie_host (s : State) (die : Nat) (d : Die) : (s.setDie die d).host = s.host := rfl
@[simp] theorem State.setDie_reduced (s : State) (die : Nat) (d : Die) : (s.setDie die d).reduced = s.reduced := rfl
@[simp] theorem State.setDie_trained (s : State) (die : Nat) (d : Die) : (s.setDie die d).trained = s.trained := rfl
@[simp] theorem State.setDie_portable (s : State) (die : Nat) (d : Die) : (s.setDie die d).portable = s.portable := rfl
@[simp] theorem State.setDie_tick (s : State) (die : Nat) (d : Die) : (s.setDie die d).tick = s.tick := rfl
@[simp] theorem State.setDie_phase (s : State) (die : Nat) (d : Die) : (s.setDie die d).phase = s.phase := rfl
@[simp] theorem State.setDie_pulsing (s : State) (die : Nat) (d : Die) : (s.setDie die d).pulsing = s.pulsing := rfl
@[simp] theorem State.setDie_losers (s : State) (die : Nat) (d : Die) : (s.setDie die d).losers = s.losers := rfl
@[simp] theorem State.setDie_agenda (s : State) (die : Nat) (d : Die) : (s.setDie die d).agenda = s.agenda := rfl
@[simp] theorem State.setDie_cur (s : State) (die : Nat) (d : Die) : (s.setDie die d).cur = s.cur := rfl
@[simp] theorem State.setDie_inputs (s : State) (die : Nat) (d : Die) : (s.setDie die d).inputs = s.inputs := rfl
@[simp] theorem State.setDie_nextId (s : State) (die : Nat) (d : Die) : (s.setDie die d).nextId = s.nextId := rfl
@[simp] theorem State.setDie_draws (s : State) (die : Nat) (d : Die) : (s.setDie die d).draws = s.draws := rfl
@[simp] theorem State.setDie_tile (s : State) (die : Nat) (d : Die) (i : Nat) : (s.setDie die d).tile i = s.tile i := rfl
@[simp] theorem State.setDie_domain (s : State) (die : Nat) (d : Die) (i : Nat) : (s.setDie die d).domain i = s.domain i := rfl
@[simp] theorem State.setDie_unit (s : State) (die : Nat) (d : Die) (i : Nat) : (s.setDie die d).unit i = s.unit i := rfl
@[simp] theorem State.setDie_stack (s : State) (die : Nat) (d : Die) (i : Nat) : (s.setDie die d).stack i = s.stack i := rfl
@[simp] theorem State.setDie_port (s : State) (die : Nat) (d : Die) (i : Nat) : (s.setDie die d).port i = s.port i := rfl
@[simp] theorem State.setDie_byte (s : State) (die : Nat) (d : Die) (i : Nat) : (s.setDie die d).byte i = s.byte i := rfl
@[simp] theorem State.setDie_readBytes (s : State) (die : Nat) (d : Die) (i j : Nat) : (s.setDie die d).readBytes i j = s.readBytes i j := rfl
@[simp] theorem State.setDie_hasDomain (s : State) (die : Nat) (d : Die) (i : Nat) : (s.setDie die d).hasDomain i = s.hasDomain i := rfl

/-! `setStack` -/

@[simp] theorem State.setStack_mem (s : State) (k : Nat) (x : Stack) : (s.setStack k x).mem = s.mem := rfl
@[simp] theorem State.setStack_badWords (s : State) (k : Nat) (x : Stack) : (s.setStack k x).badWords = s.badWords := rfl
@[simp] theorem State.setStack_badRegs (s : State) (k : Nat) (x : Stack) : (s.setStack k x).badRegs = s.badRegs := rfl
@[simp] theorem State.setStack_tiles (s : State) (k : Nat) (x : Stack) : (s.setStack k x).tiles = s.tiles := rfl
@[simp] theorem State.setStack_domains (s : State) (k : Nat) (x : Stack) : (s.setStack k x).domains = s.domains := rfl
@[simp] theorem State.setStack_units (s : State) (k : Nat) (x : Stack) : (s.setStack k x).units = s.units := rfl
@[simp] theorem State.setStack_dies (s : State) (k : Nat) (x : Stack) : (s.setStack k x).dies = s.dies := rfl
@[simp] theorem State.setStack_pool (s : State) (k : Nat) (x : Stack) : (s.setStack k x).pool = s.pool := rfl
@[simp] theorem State.setStack_messages (s : State) (k : Nat) (x : Stack) : (s.setStack k x).messages = s.messages := rfl
@[simp] theorem State.setStack_requests (s : State) (k : Nat) (x : Stack) : (s.setStack k x).requests = s.requests := rfl
@[simp] theorem State.setStack_owed (s : State) (k : Nat) (x : Stack) : (s.setStack k x).owed = s.owed := rfl
@[simp] theorem State.setStack_barriers (s : State) (k : Nat) (x : Stack) : (s.setStack k x).barriers = s.barriers := rfl
@[simp] theorem State.setStack_taken (s : State) (k : Nat) (x : Stack) : (s.setStack k x).taken = s.taken := rfl
@[simp] theorem State.setStack_arriving (s : State) (k : Nat) (x : Stack) : (s.setStack k x).arriving = s.arriving := rfl
@[simp] theorem State.setStack_mmc (s : State) (k : Nat) (x : Stack) : (s.setStack k x).mmc = s.mmc := rfl
@[simp] theorem State.setStack_ports (s : State) (k : Nat) (x : Stack) : (s.setStack k x).ports = s.ports := rfl
@[simp] theorem State.setStack_collectives (s : State) (k : Nat) (x : Stack) : (s.setStack k x).collectives = s.collectives := rfl
@[simp] theorem State.setStack_host (s : State) (k : Nat) (x : Stack) : (s.setStack k x).host = s.host := rfl
@[simp] theorem State.setStack_reduced (s : State) (k : Nat) (x : Stack) : (s.setStack k x).reduced = s.reduced := rfl
@[simp] theorem State.setStack_trained (s : State) (k : Nat) (x : Stack) : (s.setStack k x).trained = s.trained := rfl
@[simp] theorem State.setStack_portable (s : State) (k : Nat) (x : Stack) : (s.setStack k x).portable = s.portable := rfl
@[simp] theorem State.setStack_tick (s : State) (k : Nat) (x : Stack) : (s.setStack k x).tick = s.tick := rfl
@[simp] theorem State.setStack_phase (s : State) (k : Nat) (x : Stack) : (s.setStack k x).phase = s.phase := rfl
@[simp] theorem State.setStack_pulsing (s : State) (k : Nat) (x : Stack) : (s.setStack k x).pulsing = s.pulsing := rfl
@[simp] theorem State.setStack_losers (s : State) (k : Nat) (x : Stack) : (s.setStack k x).losers = s.losers := rfl
@[simp] theorem State.setStack_agenda (s : State) (k : Nat) (x : Stack) : (s.setStack k x).agenda = s.agenda := rfl
@[simp] theorem State.setStack_cur (s : State) (k : Nat) (x : Stack) : (s.setStack k x).cur = s.cur := rfl
@[simp] theorem State.setStack_inputs (s : State) (k : Nat) (x : Stack) : (s.setStack k x).inputs = s.inputs := rfl
@[simp] theorem State.setStack_nextId (s : State) (k : Nat) (x : Stack) : (s.setStack k x).nextId = s.nextId := rfl
@[simp] theorem State.setStack_draws (s : State) (k : Nat) (x : Stack) : (s.setStack k x).draws = s.draws := rfl
@[simp] theorem State.setStack_tile (s : State) (k : Nat) (x : Stack) (i : Nat) : (s.setStack k x).tile i = s.tile i := rfl
@[simp] theorem State.setStack_domain (s : State) (k : Nat) (x : Stack) (i : Nat) : (s.setStack k x).domain i = s.domain i := rfl
@[simp] theorem State.setStack_unit (s : State) (k : Nat) (x : Stack) (i : Nat) : (s.setStack k x).unit i = s.unit i := rfl
@[simp] theorem State.setStack_die (s : State) (k : Nat) (x : Stack) (i : Nat) : (s.setStack k x).die i = s.die i := rfl
@[simp] theorem State.setStack_port (s : State) (k : Nat) (x : Stack) (i : Nat) : (s.setStack k x).port i = s.port i := rfl
@[simp] theorem State.setStack_byte (s : State) (k : Nat) (x : Stack) (i : Nat) : (s.setStack k x).byte i = s.byte i := rfl
@[simp] theorem State.setStack_readBytes (s : State) (k : Nat) (x : Stack) (i j : Nat) : (s.setStack k x).readBytes i j = s.readBytes i j := rfl
@[simp] theorem State.setStack_hasDomain (s : State) (k : Nat) (x : Stack) (i : Nat) : (s.setStack k x).hasDomain i = s.hasDomain i := rfl
@[simp] theorem State.setStack_slotOf (s : State) (k : Nat) (x : Stack) (i : Nat) : (s.setStack k x).slotOf i = s.slotOf i := rfl
@[simp] theorem State.setStack_domainSites (s : State) (k : Nat) (x : Stack) (i : Nat) : (s.setStack k x).domainSites i = s.domainSites i := rfl
@[simp] theorem State.setStack_flat (s : State) (k : Nat) (x : Stack) (i j : Nat) : (s.setStack k x).flat i j = s.flat i j := rfl
@[simp] theorem State.setStack_flatLocal (s : State) (k : Nat) (x : Stack) (i j : Nat) : (s.setStack k x).flatLocal i j = s.flatLocal i j := rfl
@[simp] theorem State.setStack_siteOfFlat (s : State) (k : Nat) (x : Stack) (i j : Nat) : (s.setStack k x).siteOfFlat i j = s.siteOfFlat i j := rfl

/-! `setPort` -/

@[simp] theorem State.setPort_mem (s : State) (k : Nat) (x : Port) : (s.setPort k x).mem = s.mem := rfl
@[simp] theorem State.setPort_badWords (s : State) (k : Nat) (x : Port) : (s.setPort k x).badWords = s.badWords := rfl
@[simp] theorem State.setPort_badRegs (s : State) (k : Nat) (x : Port) : (s.setPort k x).badRegs = s.badRegs := rfl
@[simp] theorem State.setPort_tiles (s : State) (k : Nat) (x : Port) : (s.setPort k x).tiles = s.tiles := rfl
@[simp] theorem State.setPort_domains (s : State) (k : Nat) (x : Port) : (s.setPort k x).domains = s.domains := rfl
@[simp] theorem State.setPort_units (s : State) (k : Nat) (x : Port) : (s.setPort k x).units = s.units := rfl
@[simp] theorem State.setPort_dies (s : State) (k : Nat) (x : Port) : (s.setPort k x).dies = s.dies := rfl
@[simp] theorem State.setPort_hbmStacks (s : State) (k : Nat) (x : Port) : (s.setPort k x).hbmStacks = s.hbmStacks := rfl
@[simp] theorem State.setPort_pool (s : State) (k : Nat) (x : Port) : (s.setPort k x).pool = s.pool := rfl
@[simp] theorem State.setPort_messages (s : State) (k : Nat) (x : Port) : (s.setPort k x).messages = s.messages := rfl
@[simp] theorem State.setPort_requests (s : State) (k : Nat) (x : Port) : (s.setPort k x).requests = s.requests := rfl
@[simp] theorem State.setPort_owed (s : State) (k : Nat) (x : Port) : (s.setPort k x).owed = s.owed := rfl
@[simp] theorem State.setPort_barriers (s : State) (k : Nat) (x : Port) : (s.setPort k x).barriers = s.barriers := rfl
@[simp] theorem State.setPort_taken (s : State) (k : Nat) (x : Port) : (s.setPort k x).taken = s.taken := rfl
@[simp] theorem State.setPort_arriving (s : State) (k : Nat) (x : Port) : (s.setPort k x).arriving = s.arriving := rfl
@[simp] theorem State.setPort_mmc (s : State) (k : Nat) (x : Port) : (s.setPort k x).mmc = s.mmc := rfl
@[simp] theorem State.setPort_collectives (s : State) (k : Nat) (x : Port) : (s.setPort k x).collectives = s.collectives := rfl
@[simp] theorem State.setPort_host (s : State) (k : Nat) (x : Port) : (s.setPort k x).host = s.host := rfl
@[simp] theorem State.setPort_reduced (s : State) (k : Nat) (x : Port) : (s.setPort k x).reduced = s.reduced := rfl
@[simp] theorem State.setPort_trained (s : State) (k : Nat) (x : Port) : (s.setPort k x).trained = s.trained := rfl
@[simp] theorem State.setPort_portable (s : State) (k : Nat) (x : Port) : (s.setPort k x).portable = s.portable := rfl
@[simp] theorem State.setPort_tick (s : State) (k : Nat) (x : Port) : (s.setPort k x).tick = s.tick := rfl
@[simp] theorem State.setPort_phase (s : State) (k : Nat) (x : Port) : (s.setPort k x).phase = s.phase := rfl
@[simp] theorem State.setPort_pulsing (s : State) (k : Nat) (x : Port) : (s.setPort k x).pulsing = s.pulsing := rfl
@[simp] theorem State.setPort_losers (s : State) (k : Nat) (x : Port) : (s.setPort k x).losers = s.losers := rfl
@[simp] theorem State.setPort_agenda (s : State) (k : Nat) (x : Port) : (s.setPort k x).agenda = s.agenda := rfl
@[simp] theorem State.setPort_cur (s : State) (k : Nat) (x : Port) : (s.setPort k x).cur = s.cur := rfl
@[simp] theorem State.setPort_inputs (s : State) (k : Nat) (x : Port) : (s.setPort k x).inputs = s.inputs := rfl
@[simp] theorem State.setPort_nextId (s : State) (k : Nat) (x : Port) : (s.setPort k x).nextId = s.nextId := rfl
@[simp] theorem State.setPort_draws (s : State) (k : Nat) (x : Port) : (s.setPort k x).draws = s.draws := rfl
@[simp] theorem State.setPort_tile (s : State) (k : Nat) (x : Port) (i : Nat) : (s.setPort k x).tile i = s.tile i := rfl
@[simp] theorem State.setPort_domain (s : State) (k : Nat) (x : Port) (i : Nat) : (s.setPort k x).domain i = s.domain i := rfl
@[simp] theorem State.setPort_unit (s : State) (k : Nat) (x : Port) (i : Nat) : (s.setPort k x).unit i = s.unit i := rfl
@[simp] theorem State.setPort_die (s : State) (k : Nat) (x : Port) (i : Nat) : (s.setPort k x).die i = s.die i := rfl
@[simp] theorem State.setPort_stack (s : State) (k : Nat) (x : Port) (i : Nat) : (s.setPort k x).stack i = s.stack i := rfl
@[simp] theorem State.setPort_byte (s : State) (k : Nat) (x : Port) (i : Nat) : (s.setPort k x).byte i = s.byte i := rfl
@[simp] theorem State.setPort_readBytes (s : State) (k : Nat) (x : Port) (i j : Nat) : (s.setPort k x).readBytes i j = s.readBytes i j := rfl
@[simp] theorem State.setPort_hasDomain (s : State) (k : Nat) (x : Port) (i : Nat) : (s.setPort k x).hasDomain i = s.hasDomain i := rfl
@[simp] theorem State.setPort_slotOf (s : State) (k : Nat) (x : Port) (i : Nat) : (s.setPort k x).slotOf i = s.slotOf i := rfl
@[simp] theorem State.setPort_domainSites (s : State) (k : Nat) (x : Port) (i : Nat) : (s.setPort k x).domainSites i = s.domainSites i := rfl
@[simp] theorem State.setPort_flat (s : State) (k : Nat) (x : Port) (i j : Nat) : (s.setPort k x).flat i j = s.flat i j := rfl
@[simp] theorem State.setPort_flatLocal (s : State) (k : Nat) (x : Port) (i j : Nat) : (s.setPort k x).flatLocal i j = s.flatLocal i j := rfl
@[simp] theorem State.setPort_siteOfFlat (s : State) (k : Nat) (x : Port) (i j : Nat) : (s.setPort k x).siteOfFlat i j = s.siteOfFlat i j := rfl

/-! `writeBytes` -/

@[simp] theorem State.writeBytes_badWords (s : State) (a : Nat) (bs : List Byte) : (s.writeBytes a bs).badWords = s.badWords := rfl
@[simp] theorem State.writeBytes_badRegs (s : State) (a : Nat) (bs : List Byte) : (s.writeBytes a bs).badRegs = s.badRegs := rfl
@[simp] theorem State.writeBytes_tiles (s : State) (a : Nat) (bs : List Byte) : (s.writeBytes a bs).tiles = s.tiles := rfl
@[simp] theorem State.writeBytes_domains (s : State) (a : Nat) (bs : List Byte) : (s.writeBytes a bs).domains = s.domains := rfl
@[simp] theorem State.writeBytes_units (s : State) (a : Nat) (bs : List Byte) : (s.writeBytes a bs).units = s.units := rfl
@[simp] theorem State.writeBytes_dies (s : State) (a : Nat) (bs : List Byte) : (s.writeBytes a bs).dies = s.dies := rfl
@[simp] theorem State.writeBytes_hbmStacks (s : State) (a : Nat) (bs : List Byte) : (s.writeBytes a bs).hbmStacks = s.hbmStacks := rfl
@[simp] theorem State.writeBytes_pool (s : State) (a : Nat) (bs : List Byte) : (s.writeBytes a bs).pool = s.pool := rfl
@[simp] theorem State.writeBytes_messages (s : State) (a : Nat) (bs : List Byte) : (s.writeBytes a bs).messages = s.messages := rfl
@[simp] theorem State.writeBytes_requests (s : State) (a : Nat) (bs : List Byte) : (s.writeBytes a bs).requests = s.requests := rfl
@[simp] theorem State.writeBytes_owed (s : State) (a : Nat) (bs : List Byte) : (s.writeBytes a bs).owed = s.owed := rfl
@[simp] theorem State.writeBytes_barriers (s : State) (a : Nat) (bs : List Byte) : (s.writeBytes a bs).barriers = s.barriers := rfl
@[simp] theorem State.writeBytes_taken (s : State) (a : Nat) (bs : List Byte) : (s.writeBytes a bs).taken = s.taken := rfl
@[simp] theorem State.writeBytes_arriving (s : State) (a : Nat) (bs : List Byte) : (s.writeBytes a bs).arriving = s.arriving := rfl
@[simp] theorem State.writeBytes_mmc (s : State) (a : Nat) (bs : List Byte) : (s.writeBytes a bs).mmc = s.mmc := rfl
@[simp] theorem State.writeBytes_ports (s : State) (a : Nat) (bs : List Byte) : (s.writeBytes a bs).ports = s.ports := rfl
@[simp] theorem State.writeBytes_collectives (s : State) (a : Nat) (bs : List Byte) : (s.writeBytes a bs).collectives = s.collectives := rfl
@[simp] theorem State.writeBytes_host (s : State) (a : Nat) (bs : List Byte) : (s.writeBytes a bs).host = s.host := rfl
@[simp] theorem State.writeBytes_reduced (s : State) (a : Nat) (bs : List Byte) : (s.writeBytes a bs).reduced = s.reduced := rfl
@[simp] theorem State.writeBytes_trained (s : State) (a : Nat) (bs : List Byte) : (s.writeBytes a bs).trained = s.trained := rfl
@[simp] theorem State.writeBytes_portable (s : State) (a : Nat) (bs : List Byte) : (s.writeBytes a bs).portable = s.portable := rfl
@[simp] theorem State.writeBytes_tick (s : State) (a : Nat) (bs : List Byte) : (s.writeBytes a bs).tick = s.tick := rfl
@[simp] theorem State.writeBytes_phase (s : State) (a : Nat) (bs : List Byte) : (s.writeBytes a bs).phase = s.phase := rfl
@[simp] theorem State.writeBytes_pulsing (s : State) (a : Nat) (bs : List Byte) : (s.writeBytes a bs).pulsing = s.pulsing := rfl
@[simp] theorem State.writeBytes_losers (s : State) (a : Nat) (bs : List Byte) : (s.writeBytes a bs).losers = s.losers := rfl
@[simp] theorem State.writeBytes_agenda (s : State) (a : Nat) (bs : List Byte) : (s.writeBytes a bs).agenda = s.agenda := rfl
@[simp] theorem State.writeBytes_cur (s : State) (a : Nat) (bs : List Byte) : (s.writeBytes a bs).cur = s.cur := rfl
@[simp] theorem State.writeBytes_inputs (s : State) (a : Nat) (bs : List Byte) : (s.writeBytes a bs).inputs = s.inputs := rfl
@[simp] theorem State.writeBytes_nextId (s : State) (a : Nat) (bs : List Byte) : (s.writeBytes a bs).nextId = s.nextId := rfl
@[simp] theorem State.writeBytes_draws (s : State) (a : Nat) (bs : List Byte) : (s.writeBytes a bs).draws = s.draws := rfl
@[simp] theorem State.writeBytes_tile (s : State) (a : Nat) (bs : List Byte) (i : Nat) : (s.writeBytes a bs).tile i = s.tile i := rfl
@[simp] theorem State.writeBytes_domain (s : State) (a : Nat) (bs : List Byte) (i : Nat) : (s.writeBytes a bs).domain i = s.domain i := rfl
@[simp] theorem State.writeBytes_unit (s : State) (a : Nat) (bs : List Byte) (i : Nat) : (s.writeBytes a bs).unit i = s.unit i := rfl
@[simp] theorem State.writeBytes_die (s : State) (a : Nat) (bs : List Byte) (i : Nat) : (s.writeBytes a bs).die i = s.die i := rfl
@[simp] theorem State.writeBytes_stack (s : State) (a : Nat) (bs : List Byte) (i : Nat) : (s.writeBytes a bs).stack i = s.stack i := rfl
@[simp] theorem State.writeBytes_port (s : State) (a : Nat) (bs : List Byte) (i : Nat) : (s.writeBytes a bs).port i = s.port i := rfl
@[simp] theorem State.writeBytes_hasDomain (s : State) (a : Nat) (bs : List Byte) (i : Nat) : (s.writeBytes a bs).hasDomain i = s.hasDomain i := rfl
@[simp] theorem State.writeBytes_slotOf (s : State) (a : Nat) (bs : List Byte) (i : Nat) : (s.writeBytes a bs).slotOf i = s.slotOf i := rfl
@[simp] theorem State.writeBytes_domainSites (s : State) (a : Nat) (bs : List Byte) (i : Nat) : (s.writeBytes a bs).domainSites i = s.domainSites i := rfl
@[simp] theorem State.writeBytes_flat (s : State) (a : Nat) (bs : List Byte) (i j : Nat) : (s.writeBytes a bs).flat i j = s.flat i j := rfl
@[simp] theorem State.writeBytes_flatLocal (s : State) (a : Nat) (bs : List Byte) (i j : Nat) : (s.writeBytes a bs).flatLocal i j = s.flatLocal i j := rfl
@[simp] theorem State.writeBytes_siteOfFlat (s : State) (a : Nat) (bs : List Byte) (i j : Nat) : (s.writeBytes a bs).siteOfFlat i j = s.siteOfFlat i j := rfl

/-! `write64` -/

@[simp] theorem State.write64_badWords (s : State) (a : Nat) (w : Word) : (s.write64 a w).badWords = s.badWords := rfl
@[simp] theorem State.write64_badRegs (s : State) (a : Nat) (w : Word) : (s.write64 a w).badRegs = s.badRegs := rfl
@[simp] theorem State.write64_tiles (s : State) (a : Nat) (w : Word) : (s.write64 a w).tiles = s.tiles := rfl
@[simp] theorem State.write64_domains (s : State) (a : Nat) (w : Word) : (s.write64 a w).domains = s.domains := rfl
@[simp] theorem State.write64_units (s : State) (a : Nat) (w : Word) : (s.write64 a w).units = s.units := rfl
@[simp] theorem State.write64_dies (s : State) (a : Nat) (w : Word) : (s.write64 a w).dies = s.dies := rfl
@[simp] theorem State.write64_hbmStacks (s : State) (a : Nat) (w : Word) : (s.write64 a w).hbmStacks = s.hbmStacks := rfl
@[simp] theorem State.write64_pool (s : State) (a : Nat) (w : Word) : (s.write64 a w).pool = s.pool := rfl
@[simp] theorem State.write64_messages (s : State) (a : Nat) (w : Word) : (s.write64 a w).messages = s.messages := rfl
@[simp] theorem State.write64_requests (s : State) (a : Nat) (w : Word) : (s.write64 a w).requests = s.requests := rfl
@[simp] theorem State.write64_owed (s : State) (a : Nat) (w : Word) : (s.write64 a w).owed = s.owed := rfl
@[simp] theorem State.write64_barriers (s : State) (a : Nat) (w : Word) : (s.write64 a w).barriers = s.barriers := rfl
@[simp] theorem State.write64_taken (s : State) (a : Nat) (w : Word) : (s.write64 a w).taken = s.taken := rfl
@[simp] theorem State.write64_arriving (s : State) (a : Nat) (w : Word) : (s.write64 a w).arriving = s.arriving := rfl
@[simp] theorem State.write64_mmc (s : State) (a : Nat) (w : Word) : (s.write64 a w).mmc = s.mmc := rfl
@[simp] theorem State.write64_ports (s : State) (a : Nat) (w : Word) : (s.write64 a w).ports = s.ports := rfl
@[simp] theorem State.write64_collectives (s : State) (a : Nat) (w : Word) : (s.write64 a w).collectives = s.collectives := rfl
@[simp] theorem State.write64_host (s : State) (a : Nat) (w : Word) : (s.write64 a w).host = s.host := rfl
@[simp] theorem State.write64_reduced (s : State) (a : Nat) (w : Word) : (s.write64 a w).reduced = s.reduced := rfl
@[simp] theorem State.write64_trained (s : State) (a : Nat) (w : Word) : (s.write64 a w).trained = s.trained := rfl
@[simp] theorem State.write64_portable (s : State) (a : Nat) (w : Word) : (s.write64 a w).portable = s.portable := rfl
@[simp] theorem State.write64_tick (s : State) (a : Nat) (w : Word) : (s.write64 a w).tick = s.tick := rfl
@[simp] theorem State.write64_phase (s : State) (a : Nat) (w : Word) : (s.write64 a w).phase = s.phase := rfl
@[simp] theorem State.write64_pulsing (s : State) (a : Nat) (w : Word) : (s.write64 a w).pulsing = s.pulsing := rfl
@[simp] theorem State.write64_losers (s : State) (a : Nat) (w : Word) : (s.write64 a w).losers = s.losers := rfl
@[simp] theorem State.write64_agenda (s : State) (a : Nat) (w : Word) : (s.write64 a w).agenda = s.agenda := rfl
@[simp] theorem State.write64_cur (s : State) (a : Nat) (w : Word) : (s.write64 a w).cur = s.cur := rfl
@[simp] theorem State.write64_inputs (s : State) (a : Nat) (w : Word) : (s.write64 a w).inputs = s.inputs := rfl
@[simp] theorem State.write64_nextId (s : State) (a : Nat) (w : Word) : (s.write64 a w).nextId = s.nextId := rfl
@[simp] theorem State.write64_draws (s : State) (a : Nat) (w : Word) : (s.write64 a w).draws = s.draws := rfl
@[simp] theorem State.write64_tile (s : State) (a : Nat) (w : Word) (i : Nat) : (s.write64 a w).tile i = s.tile i := rfl
@[simp] theorem State.write64_domain (s : State) (a : Nat) (w : Word) (i : Nat) : (s.write64 a w).domain i = s.domain i := rfl
@[simp] theorem State.write64_unit (s : State) (a : Nat) (w : Word) (i : Nat) : (s.write64 a w).unit i = s.unit i := rfl
@[simp] theorem State.write64_die (s : State) (a : Nat) (w : Word) (i : Nat) : (s.write64 a w).die i = s.die i := rfl
@[simp] theorem State.write64_stack (s : State) (a : Nat) (w : Word) (i : Nat) : (s.write64 a w).stack i = s.stack i := rfl
@[simp] theorem State.write64_port (s : State) (a : Nat) (w : Word) (i : Nat) : (s.write64 a w).port i = s.port i := rfl
@[simp] theorem State.write64_hasDomain (s : State) (a : Nat) (w : Word) (i : Nat) : (s.write64 a w).hasDomain i = s.hasDomain i := rfl
@[simp] theorem State.write64_slotOf (s : State) (a : Nat) (w : Word) (i : Nat) : (s.write64 a w).slotOf i = s.slotOf i := rfl
@[simp] theorem State.write64_domainSites (s : State) (a : Nat) (w : Word) (i : Nat) : (s.write64 a w).domainSites i = s.domainSites i := rfl
@[simp] theorem State.write64_flat (s : State) (a : Nat) (w : Word) (i j : Nat) : (s.write64 a w).flat i j = s.flat i j := rfl
@[simp] theorem State.write64_flatLocal (s : State) (a : Nat) (w : Word) (i j : Nat) : (s.write64 a w).flatLocal i j = s.flatLocal i j := rfl
@[simp] theorem State.write64_siteOfFlat (s : State) (a : Nat) (w : Word) (i j : Nat) : (s.write64 a w).siteOfFlat i j = s.siteOfFlat i j := rfl

/-! `clearBytes` -/

@[simp] theorem State.clearBytes_badWords (s : State) (a n : Nat) : (s.clearBytes a n).badWords = s.badWords := rfl
@[simp] theorem State.clearBytes_badRegs (s : State) (a n : Nat) : (s.clearBytes a n).badRegs = s.badRegs := rfl
@[simp] theorem State.clearBytes_tiles (s : State) (a n : Nat) : (s.clearBytes a n).tiles = s.tiles := rfl
@[simp] theorem State.clearBytes_domains (s : State) (a n : Nat) : (s.clearBytes a n).domains = s.domains := rfl
@[simp] theorem State.clearBytes_units (s : State) (a n : Nat) : (s.clearBytes a n).units = s.units := rfl
@[simp] theorem State.clearBytes_dies (s : State) (a n : Nat) : (s.clearBytes a n).dies = s.dies := rfl
@[simp] theorem State.clearBytes_hbmStacks (s : State) (a n : Nat) : (s.clearBytes a n).hbmStacks = s.hbmStacks := rfl
@[simp] theorem State.clearBytes_pool (s : State) (a n : Nat) : (s.clearBytes a n).pool = s.pool := rfl
@[simp] theorem State.clearBytes_messages (s : State) (a n : Nat) : (s.clearBytes a n).messages = s.messages := rfl
@[simp] theorem State.clearBytes_requests (s : State) (a n : Nat) : (s.clearBytes a n).requests = s.requests := rfl
@[simp] theorem State.clearBytes_owed (s : State) (a n : Nat) : (s.clearBytes a n).owed = s.owed := rfl
@[simp] theorem State.clearBytes_barriers (s : State) (a n : Nat) : (s.clearBytes a n).barriers = s.barriers := rfl
@[simp] theorem State.clearBytes_taken (s : State) (a n : Nat) : (s.clearBytes a n).taken = s.taken := rfl
@[simp] theorem State.clearBytes_arriving (s : State) (a n : Nat) : (s.clearBytes a n).arriving = s.arriving := rfl
@[simp] theorem State.clearBytes_mmc (s : State) (a n : Nat) : (s.clearBytes a n).mmc = s.mmc := rfl
@[simp] theorem State.clearBytes_ports (s : State) (a n : Nat) : (s.clearBytes a n).ports = s.ports := rfl
@[simp] theorem State.clearBytes_collectives (s : State) (a n : Nat) : (s.clearBytes a n).collectives = s.collectives := rfl
@[simp] theorem State.clearBytes_host (s : State) (a n : Nat) : (s.clearBytes a n).host = s.host := rfl
@[simp] theorem State.clearBytes_reduced (s : State) (a n : Nat) : (s.clearBytes a n).reduced = s.reduced := rfl
@[simp] theorem State.clearBytes_trained (s : State) (a n : Nat) : (s.clearBytes a n).trained = s.trained := rfl
@[simp] theorem State.clearBytes_portable (s : State) (a n : Nat) : (s.clearBytes a n).portable = s.portable := rfl
@[simp] theorem State.clearBytes_tick (s : State) (a n : Nat) : (s.clearBytes a n).tick = s.tick := rfl
@[simp] theorem State.clearBytes_phase (s : State) (a n : Nat) : (s.clearBytes a n).phase = s.phase := rfl
@[simp] theorem State.clearBytes_pulsing (s : State) (a n : Nat) : (s.clearBytes a n).pulsing = s.pulsing := rfl
@[simp] theorem State.clearBytes_losers (s : State) (a n : Nat) : (s.clearBytes a n).losers = s.losers := rfl
@[simp] theorem State.clearBytes_agenda (s : State) (a n : Nat) : (s.clearBytes a n).agenda = s.agenda := rfl
@[simp] theorem State.clearBytes_cur (s : State) (a n : Nat) : (s.clearBytes a n).cur = s.cur := rfl
@[simp] theorem State.clearBytes_inputs (s : State) (a n : Nat) : (s.clearBytes a n).inputs = s.inputs := rfl
@[simp] theorem State.clearBytes_nextId (s : State) (a n : Nat) : (s.clearBytes a n).nextId = s.nextId := rfl
@[simp] theorem State.clearBytes_draws (s : State) (a n : Nat) : (s.clearBytes a n).draws = s.draws := rfl
@[simp] theorem State.clearBytes_tile (s : State) (a n : Nat) (i : Nat) : (s.clearBytes a n).tile i = s.tile i := rfl
@[simp] theorem State.clearBytes_domain (s : State) (a n : Nat) (i : Nat) : (s.clearBytes a n).domain i = s.domain i := rfl
@[simp] theorem State.clearBytes_unit (s : State) (a n : Nat) (i : Nat) : (s.clearBytes a n).unit i = s.unit i := rfl
@[simp] theorem State.clearBytes_die (s : State) (a n : Nat) (i : Nat) : (s.clearBytes a n).die i = s.die i := rfl
@[simp] theorem State.clearBytes_stack (s : State) (a n : Nat) (i : Nat) : (s.clearBytes a n).stack i = s.stack i := rfl
@[simp] theorem State.clearBytes_port (s : State) (a n : Nat) (i : Nat) : (s.clearBytes a n).port i = s.port i := rfl
@[simp] theorem State.clearBytes_hasDomain (s : State) (a n : Nat) (i : Nat) : (s.clearBytes a n).hasDomain i = s.hasDomain i := rfl
@[simp] theorem State.clearBytes_slotOf (s : State) (a n : Nat) (i : Nat) : (s.clearBytes a n).slotOf i = s.slotOf i := rfl
@[simp] theorem State.clearBytes_domainSites (s : State) (a n : Nat) (i : Nat) : (s.clearBytes a n).domainSites i = s.domainSites i := rfl
@[simp] theorem State.clearBytes_flat (s : State) (a n : Nat) (i j : Nat) : (s.clearBytes a n).flat i j = s.flat i j := rfl
@[simp] theorem State.clearBytes_flatLocal (s : State) (a n : Nat) (i j : Nat) : (s.clearBytes a n).flatLocal i j = s.flatLocal i j := rfl
@[simp] theorem State.clearBytes_siteOfFlat (s : State) (a n : Nat) (i j : Nat) : (s.clearBytes a n).siteOfFlat i j = s.siteOfFlat i j := rfl

/-! `sramWrite` -/

@[simp] theorem State.sramWrite_badRegs (s : State) (site off : Nat) (bs : List Byte) : (s.sramWrite site off bs).badRegs = s.badRegs := rfl
@[simp] theorem State.sramWrite_tiles (s : State) (site off : Nat) (bs : List Byte) : (s.sramWrite site off bs).tiles = s.tiles := rfl
@[simp] theorem State.sramWrite_domains (s : State) (site off : Nat) (bs : List Byte) : (s.sramWrite site off bs).domains = s.domains := rfl
@[simp] theorem State.sramWrite_units (s : State) (site off : Nat) (bs : List Byte) : (s.sramWrite site off bs).units = s.units := rfl
@[simp] theorem State.sramWrite_dies (s : State) (site off : Nat) (bs : List Byte) : (s.sramWrite site off bs).dies = s.dies := rfl
@[simp] theorem State.sramWrite_hbmStacks (s : State) (site off : Nat) (bs : List Byte) : (s.sramWrite site off bs).hbmStacks = s.hbmStacks := rfl
@[simp] theorem State.sramWrite_pool (s : State) (site off : Nat) (bs : List Byte) : (s.sramWrite site off bs).pool = s.pool := rfl
@[simp] theorem State.sramWrite_messages (s : State) (site off : Nat) (bs : List Byte) : (s.sramWrite site off bs).messages = s.messages := rfl
@[simp] theorem State.sramWrite_requests (s : State) (site off : Nat) (bs : List Byte) : (s.sramWrite site off bs).requests = s.requests := rfl
@[simp] theorem State.sramWrite_owed (s : State) (site off : Nat) (bs : List Byte) : (s.sramWrite site off bs).owed = s.owed := rfl
@[simp] theorem State.sramWrite_barriers (s : State) (site off : Nat) (bs : List Byte) : (s.sramWrite site off bs).barriers = s.barriers := rfl
@[simp] theorem State.sramWrite_taken (s : State) (site off : Nat) (bs : List Byte) : (s.sramWrite site off bs).taken = s.taken := rfl
@[simp] theorem State.sramWrite_arriving (s : State) (site off : Nat) (bs : List Byte) : (s.sramWrite site off bs).arriving = s.arriving := rfl
@[simp] theorem State.sramWrite_mmc (s : State) (site off : Nat) (bs : List Byte) : (s.sramWrite site off bs).mmc = s.mmc := rfl
@[simp] theorem State.sramWrite_ports (s : State) (site off : Nat) (bs : List Byte) : (s.sramWrite site off bs).ports = s.ports := rfl
@[simp] theorem State.sramWrite_collectives (s : State) (site off : Nat) (bs : List Byte) : (s.sramWrite site off bs).collectives = s.collectives := rfl
@[simp] theorem State.sramWrite_host (s : State) (site off : Nat) (bs : List Byte) : (s.sramWrite site off bs).host = s.host := rfl
@[simp] theorem State.sramWrite_reduced (s : State) (site off : Nat) (bs : List Byte) : (s.sramWrite site off bs).reduced = s.reduced := rfl
@[simp] theorem State.sramWrite_trained (s : State) (site off : Nat) (bs : List Byte) : (s.sramWrite site off bs).trained = s.trained := rfl
@[simp] theorem State.sramWrite_portable (s : State) (site off : Nat) (bs : List Byte) : (s.sramWrite site off bs).portable = s.portable := rfl
@[simp] theorem State.sramWrite_tick (s : State) (site off : Nat) (bs : List Byte) : (s.sramWrite site off bs).tick = s.tick := rfl
@[simp] theorem State.sramWrite_phase (s : State) (site off : Nat) (bs : List Byte) : (s.sramWrite site off bs).phase = s.phase := rfl
@[simp] theorem State.sramWrite_pulsing (s : State) (site off : Nat) (bs : List Byte) : (s.sramWrite site off bs).pulsing = s.pulsing := rfl
@[simp] theorem State.sramWrite_losers (s : State) (site off : Nat) (bs : List Byte) : (s.sramWrite site off bs).losers = s.losers := rfl
@[simp] theorem State.sramWrite_agenda (s : State) (site off : Nat) (bs : List Byte) : (s.sramWrite site off bs).agenda = s.agenda := rfl
@[simp] theorem State.sramWrite_cur (s : State) (site off : Nat) (bs : List Byte) : (s.sramWrite site off bs).cur = s.cur := rfl
@[simp] theorem State.sramWrite_inputs (s : State) (site off : Nat) (bs : List Byte) : (s.sramWrite site off bs).inputs = s.inputs := rfl
@[simp] theorem State.sramWrite_nextId (s : State) (site off : Nat) (bs : List Byte) : (s.sramWrite site off bs).nextId = s.nextId := rfl
@[simp] theorem State.sramWrite_draws (s : State) (site off : Nat) (bs : List Byte) : (s.sramWrite site off bs).draws = s.draws := rfl
@[simp] theorem State.sramWrite_tile (s : State) (site off : Nat) (bs : List Byte) (i : Nat) : (s.sramWrite site off bs).tile i = s.tile i := rfl
@[simp] theorem State.sramWrite_domain (s : State) (site off : Nat) (bs : List Byte) (i : Nat) : (s.sramWrite site off bs).domain i = s.domain i := rfl
@[simp] theorem State.sramWrite_unit (s : State) (site off : Nat) (bs : List Byte) (i : Nat) : (s.sramWrite site off bs).unit i = s.unit i := rfl
@[simp] theorem State.sramWrite_die (s : State) (site off : Nat) (bs : List Byte) (i : Nat) : (s.sramWrite site off bs).die i = s.die i := rfl
@[simp] theorem State.sramWrite_stack (s : State) (site off : Nat) (bs : List Byte) (i : Nat) : (s.sramWrite site off bs).stack i = s.stack i := rfl
@[simp] theorem State.sramWrite_port (s : State) (site off : Nat) (bs : List Byte) (i : Nat) : (s.sramWrite site off bs).port i = s.port i := rfl
@[simp] theorem State.sramWrite_hasDomain (s : State) (site off : Nat) (bs : List Byte) (i : Nat) : (s.sramWrite site off bs).hasDomain i = s.hasDomain i := rfl
@[simp] theorem State.sramWrite_slotOf (s : State) (site off : Nat) (bs : List Byte) (i : Nat) : (s.sramWrite site off bs).slotOf i = s.slotOf i := rfl
@[simp] theorem State.sramWrite_domainSites (s : State) (site off : Nat) (bs : List Byte) (i : Nat) : (s.sramWrite site off bs).domainSites i = s.domainSites i := rfl
@[simp] theorem State.sramWrite_flat (s : State) (site off : Nat) (bs : List Byte) (i j : Nat) : (s.sramWrite site off bs).flat i j = s.flat i j := rfl
@[simp] theorem State.sramWrite_flatLocal (s : State) (site off : Nat) (bs : List Byte) (i j : Nat) : (s.sramWrite site off bs).flatLocal i j = s.flatLocal i j := rfl
@[simp] theorem State.sramWrite_siteOfFlat (s : State) (site off : Nat) (bs : List Byte) (i j : Nat) : (s.sramWrite site off bs).siteOfFlat i j = s.siteOfFlat i j := rfl

/-! `istoreWrite` -/

@[simp] theorem State.istoreWrite_badRegs (s : State) (site off : Nat) (bs : List Byte) : (s.istoreWrite site off bs).badRegs = s.badRegs := rfl
@[simp] theorem State.istoreWrite_tiles (s : State) (site off : Nat) (bs : List Byte) : (s.istoreWrite site off bs).tiles = s.tiles := rfl
@[simp] theorem State.istoreWrite_domains (s : State) (site off : Nat) (bs : List Byte) : (s.istoreWrite site off bs).domains = s.domains := rfl
@[simp] theorem State.istoreWrite_units (s : State) (site off : Nat) (bs : List Byte) : (s.istoreWrite site off bs).units = s.units := rfl
@[simp] theorem State.istoreWrite_dies (s : State) (site off : Nat) (bs : List Byte) : (s.istoreWrite site off bs).dies = s.dies := rfl
@[simp] theorem State.istoreWrite_hbmStacks (s : State) (site off : Nat) (bs : List Byte) : (s.istoreWrite site off bs).hbmStacks = s.hbmStacks := rfl
@[simp] theorem State.istoreWrite_pool (s : State) (site off : Nat) (bs : List Byte) : (s.istoreWrite site off bs).pool = s.pool := rfl
@[simp] theorem State.istoreWrite_messages (s : State) (site off : Nat) (bs : List Byte) : (s.istoreWrite site off bs).messages = s.messages := rfl
@[simp] theorem State.istoreWrite_requests (s : State) (site off : Nat) (bs : List Byte) : (s.istoreWrite site off bs).requests = s.requests := rfl
@[simp] theorem State.istoreWrite_owed (s : State) (site off : Nat) (bs : List Byte) : (s.istoreWrite site off bs).owed = s.owed := rfl
@[simp] theorem State.istoreWrite_barriers (s : State) (site off : Nat) (bs : List Byte) : (s.istoreWrite site off bs).barriers = s.barriers := rfl
@[simp] theorem State.istoreWrite_taken (s : State) (site off : Nat) (bs : List Byte) : (s.istoreWrite site off bs).taken = s.taken := rfl
@[simp] theorem State.istoreWrite_arriving (s : State) (site off : Nat) (bs : List Byte) : (s.istoreWrite site off bs).arriving = s.arriving := rfl
@[simp] theorem State.istoreWrite_mmc (s : State) (site off : Nat) (bs : List Byte) : (s.istoreWrite site off bs).mmc = s.mmc := rfl
@[simp] theorem State.istoreWrite_ports (s : State) (site off : Nat) (bs : List Byte) : (s.istoreWrite site off bs).ports = s.ports := rfl
@[simp] theorem State.istoreWrite_collectives (s : State) (site off : Nat) (bs : List Byte) : (s.istoreWrite site off bs).collectives = s.collectives := rfl
@[simp] theorem State.istoreWrite_host (s : State) (site off : Nat) (bs : List Byte) : (s.istoreWrite site off bs).host = s.host := rfl
@[simp] theorem State.istoreWrite_reduced (s : State) (site off : Nat) (bs : List Byte) : (s.istoreWrite site off bs).reduced = s.reduced := rfl
@[simp] theorem State.istoreWrite_trained (s : State) (site off : Nat) (bs : List Byte) : (s.istoreWrite site off bs).trained = s.trained := rfl
@[simp] theorem State.istoreWrite_portable (s : State) (site off : Nat) (bs : List Byte) : (s.istoreWrite site off bs).portable = s.portable := rfl
@[simp] theorem State.istoreWrite_tick (s : State) (site off : Nat) (bs : List Byte) : (s.istoreWrite site off bs).tick = s.tick := rfl
@[simp] theorem State.istoreWrite_phase (s : State) (site off : Nat) (bs : List Byte) : (s.istoreWrite site off bs).phase = s.phase := rfl
@[simp] theorem State.istoreWrite_pulsing (s : State) (site off : Nat) (bs : List Byte) : (s.istoreWrite site off bs).pulsing = s.pulsing := rfl
@[simp] theorem State.istoreWrite_losers (s : State) (site off : Nat) (bs : List Byte) : (s.istoreWrite site off bs).losers = s.losers := rfl
@[simp] theorem State.istoreWrite_agenda (s : State) (site off : Nat) (bs : List Byte) : (s.istoreWrite site off bs).agenda = s.agenda := rfl
@[simp] theorem State.istoreWrite_cur (s : State) (site off : Nat) (bs : List Byte) : (s.istoreWrite site off bs).cur = s.cur := rfl
@[simp] theorem State.istoreWrite_inputs (s : State) (site off : Nat) (bs : List Byte) : (s.istoreWrite site off bs).inputs = s.inputs := rfl
@[simp] theorem State.istoreWrite_nextId (s : State) (site off : Nat) (bs : List Byte) : (s.istoreWrite site off bs).nextId = s.nextId := rfl
@[simp] theorem State.istoreWrite_draws (s : State) (site off : Nat) (bs : List Byte) : (s.istoreWrite site off bs).draws = s.draws := rfl
@[simp] theorem State.istoreWrite_tile (s : State) (site off : Nat) (bs : List Byte) (i : Nat) : (s.istoreWrite site off bs).tile i = s.tile i := rfl
@[simp] theorem State.istoreWrite_domain (s : State) (site off : Nat) (bs : List Byte) (i : Nat) : (s.istoreWrite site off bs).domain i = s.domain i := rfl
@[simp] theorem State.istoreWrite_unit (s : State) (site off : Nat) (bs : List Byte) (i : Nat) : (s.istoreWrite site off bs).unit i = s.unit i := rfl
@[simp] theorem State.istoreWrite_die (s : State) (site off : Nat) (bs : List Byte) (i : Nat) : (s.istoreWrite site off bs).die i = s.die i := rfl
@[simp] theorem State.istoreWrite_stack (s : State) (site off : Nat) (bs : List Byte) (i : Nat) : (s.istoreWrite site off bs).stack i = s.stack i := rfl
@[simp] theorem State.istoreWrite_port (s : State) (site off : Nat) (bs : List Byte) (i : Nat) : (s.istoreWrite site off bs).port i = s.port i := rfl
@[simp] theorem State.istoreWrite_hasDomain (s : State) (site off : Nat) (bs : List Byte) (i : Nat) : (s.istoreWrite site off bs).hasDomain i = s.hasDomain i := rfl
@[simp] theorem State.istoreWrite_slotOf (s : State) (site off : Nat) (bs : List Byte) (i : Nat) : (s.istoreWrite site off bs).slotOf i = s.slotOf i := rfl
@[simp] theorem State.istoreWrite_domainSites (s : State) (site off : Nat) (bs : List Byte) (i : Nat) : (s.istoreWrite site off bs).domainSites i = s.domainSites i := rfl
@[simp] theorem State.istoreWrite_flat (s : State) (site off : Nat) (bs : List Byte) (i j : Nat) : (s.istoreWrite site off bs).flat i j = s.flat i j := rfl
@[simp] theorem State.istoreWrite_flatLocal (s : State) (site off : Nat) (bs : List Byte) (i j : Nat) : (s.istoreWrite site off bs).flatLocal i j = s.flatLocal i j := rfl
@[simp] theorem State.istoreWrite_siteOfFlat (s : State) (site off : Nat) (bs : List Byte) (i j : Nat) : (s.istoreWrite site off bs).siteOfFlat i j = s.siteOfFlat i j := rfl

/-! `drawn` -/

@[simp] theorem State.drawn_mem (s : State) : (s.drawn).mem = s.mem := rfl
@[simp] theorem State.drawn_badWords (s : State) : (s.drawn).badWords = s.badWords := rfl
@[simp] theorem State.drawn_badRegs (s : State) : (s.drawn).badRegs = s.badRegs := rfl
@[simp] theorem State.drawn_tiles (s : State) : (s.drawn).tiles = s.tiles := rfl
@[simp] theorem State.drawn_domains (s : State) : (s.drawn).domains = s.domains := rfl
@[simp] theorem State.drawn_units (s : State) : (s.drawn).units = s.units := rfl
@[simp] theorem State.drawn_dies (s : State) : (s.drawn).dies = s.dies := rfl
@[simp] theorem State.drawn_hbmStacks (s : State) : (s.drawn).hbmStacks = s.hbmStacks := rfl
@[simp] theorem State.drawn_pool (s : State) : (s.drawn).pool = s.pool := rfl
@[simp] theorem State.drawn_messages (s : State) : (s.drawn).messages = s.messages := rfl
@[simp] theorem State.drawn_requests (s : State) : (s.drawn).requests = s.requests := rfl
@[simp] theorem State.drawn_owed (s : State) : (s.drawn).owed = s.owed := rfl
@[simp] theorem State.drawn_barriers (s : State) : (s.drawn).barriers = s.barriers := rfl
@[simp] theorem State.drawn_taken (s : State) : (s.drawn).taken = s.taken := rfl
@[simp] theorem State.drawn_arriving (s : State) : (s.drawn).arriving = s.arriving := rfl
@[simp] theorem State.drawn_mmc (s : State) : (s.drawn).mmc = s.mmc := rfl
@[simp] theorem State.drawn_ports (s : State) : (s.drawn).ports = s.ports := rfl
@[simp] theorem State.drawn_collectives (s : State) : (s.drawn).collectives = s.collectives := rfl
@[simp] theorem State.drawn_host (s : State) : (s.drawn).host = s.host := rfl
@[simp] theorem State.drawn_reduced (s : State) : (s.drawn).reduced = s.reduced := rfl
@[simp] theorem State.drawn_trained (s : State) : (s.drawn).trained = s.trained := rfl
@[simp] theorem State.drawn_portable (s : State) : (s.drawn).portable = s.portable := rfl
@[simp] theorem State.drawn_tick (s : State) : (s.drawn).tick = s.tick := rfl
@[simp] theorem State.drawn_phase (s : State) : (s.drawn).phase = s.phase := rfl
@[simp] theorem State.drawn_pulsing (s : State) : (s.drawn).pulsing = s.pulsing := rfl
@[simp] theorem State.drawn_losers (s : State) : (s.drawn).losers = s.losers := rfl
@[simp] theorem State.drawn_agenda (s : State) : (s.drawn).agenda = s.agenda := rfl
@[simp] theorem State.drawn_cur (s : State) : (s.drawn).cur = s.cur := rfl
@[simp] theorem State.drawn_inputs (s : State) : (s.drawn).inputs = s.inputs := rfl
@[simp] theorem State.drawn_nextId (s : State) : (s.drawn).nextId = s.nextId := rfl
@[simp] theorem State.drawn_tile (s : State) (i : Nat) : (s.drawn).tile i = s.tile i := rfl
@[simp] theorem State.drawn_domain (s : State) (i : Nat) : (s.drawn).domain i = s.domain i := rfl
@[simp] theorem State.drawn_unit (s : State) (i : Nat) : (s.drawn).unit i = s.unit i := rfl
@[simp] theorem State.drawn_die (s : State) (i : Nat) : (s.drawn).die i = s.die i := rfl
@[simp] theorem State.drawn_stack (s : State) (i : Nat) : (s.drawn).stack i = s.stack i := rfl
@[simp] theorem State.drawn_port (s : State) (i : Nat) : (s.drawn).port i = s.port i := rfl
@[simp] theorem State.drawn_byte (s : State) (i : Nat) : (s.drawn).byte i = s.byte i := rfl
@[simp] theorem State.drawn_readBytes (s : State) (i j : Nat) : (s.drawn).readBytes i j = s.readBytes i j := rfl
@[simp] theorem State.drawn_hasDomain (s : State) (i : Nat) : (s.drawn).hasDomain i = s.hasDomain i := rfl
@[simp] theorem State.drawn_slotOf (s : State) (i : Nat) : (s.drawn).slotOf i = s.slotOf i := rfl
@[simp] theorem State.drawn_domainSites (s : State) (i : Nat) : (s.drawn).domainSites i = s.domainSites i := rfl
@[simp] theorem State.drawn_flat (s : State) (i j : Nat) : (s.drawn).flat i j = s.flat i j := rfl
@[simp] theorem State.drawn_flatLocal (s : State) (i j : Nat) : (s.drawn).flatLocal i j = s.flatLocal i j := rfl
@[simp] theorem State.drawn_siteOfFlat (s : State) (i j : Nat) : (s.drawn).siteOfFlat i j = s.siteOfFlat i j := rfl

/-! `fresh` -/

@[simp] theorem State.fresh_mem (s : State) : (s.fresh).mem = s.mem := rfl
@[simp] theorem State.fresh_badWords (s : State) : (s.fresh).badWords = s.badWords := rfl
@[simp] theorem State.fresh_badRegs (s : State) : (s.fresh).badRegs = s.badRegs := rfl
@[simp] theorem State.fresh_tiles (s : State) : (s.fresh).tiles = s.tiles := rfl
@[simp] theorem State.fresh_domains (s : State) : (s.fresh).domains = s.domains := rfl
@[simp] theorem State.fresh_units (s : State) : (s.fresh).units = s.units := rfl
@[simp] theorem State.fresh_dies (s : State) : (s.fresh).dies = s.dies := rfl
@[simp] theorem State.fresh_hbmStacks (s : State) : (s.fresh).hbmStacks = s.hbmStacks := rfl
@[simp] theorem State.fresh_pool (s : State) : (s.fresh).pool = s.pool := rfl
@[simp] theorem State.fresh_messages (s : State) : (s.fresh).messages = s.messages := rfl
@[simp] theorem State.fresh_requests (s : State) : (s.fresh).requests = s.requests := rfl
@[simp] theorem State.fresh_owed (s : State) : (s.fresh).owed = s.owed := rfl
@[simp] theorem State.fresh_barriers (s : State) : (s.fresh).barriers = s.barriers := rfl
@[simp] theorem State.fresh_taken (s : State) : (s.fresh).taken = s.taken := rfl
@[simp] theorem State.fresh_arriving (s : State) : (s.fresh).arriving = s.arriving := rfl
@[simp] theorem State.fresh_mmc (s : State) : (s.fresh).mmc = s.mmc := rfl
@[simp] theorem State.fresh_ports (s : State) : (s.fresh).ports = s.ports := rfl
@[simp] theorem State.fresh_collectives (s : State) : (s.fresh).collectives = s.collectives := rfl
@[simp] theorem State.fresh_host (s : State) : (s.fresh).host = s.host := rfl
@[simp] theorem State.fresh_reduced (s : State) : (s.fresh).reduced = s.reduced := rfl
@[simp] theorem State.fresh_trained (s : State) : (s.fresh).trained = s.trained := rfl
@[simp] theorem State.fresh_portable (s : State) : (s.fresh).portable = s.portable := rfl
@[simp] theorem State.fresh_tick (s : State) : (s.fresh).tick = s.tick := rfl
@[simp] theorem State.fresh_phase (s : State) : (s.fresh).phase = s.phase := rfl
@[simp] theorem State.fresh_pulsing (s : State) : (s.fresh).pulsing = s.pulsing := rfl
@[simp] theorem State.fresh_losers (s : State) : (s.fresh).losers = s.losers := rfl
@[simp] theorem State.fresh_agenda (s : State) : (s.fresh).agenda = s.agenda := rfl
@[simp] theorem State.fresh_cur (s : State) : (s.fresh).cur = s.cur := rfl
@[simp] theorem State.fresh_inputs (s : State) : (s.fresh).inputs = s.inputs := rfl
@[simp] theorem State.fresh_draws (s : State) : (s.fresh).draws = s.draws := rfl
@[simp] theorem State.fresh_tile (s : State) (i : Nat) : (s.fresh).tile i = s.tile i := rfl
@[simp] theorem State.fresh_domain (s : State) (i : Nat) : (s.fresh).domain i = s.domain i := rfl
@[simp] theorem State.fresh_unit (s : State) (i : Nat) : (s.fresh).unit i = s.unit i := rfl
@[simp] theorem State.fresh_die (s : State) (i : Nat) : (s.fresh).die i = s.die i := rfl
@[simp] theorem State.fresh_stack (s : State) (i : Nat) : (s.fresh).stack i = s.stack i := rfl
@[simp] theorem State.fresh_port (s : State) (i : Nat) : (s.fresh).port i = s.port i := rfl
@[simp] theorem State.fresh_byte (s : State) (i : Nat) : (s.fresh).byte i = s.byte i := rfl
@[simp] theorem State.fresh_readBytes (s : State) (i j : Nat) : (s.fresh).readBytes i j = s.readBytes i j := rfl
@[simp] theorem State.fresh_hasDomain (s : State) (i : Nat) : (s.fresh).hasDomain i = s.hasDomain i := rfl
@[simp] theorem State.fresh_slotOf (s : State) (i : Nat) : (s.fresh).slotOf i = s.slotOf i := rfl
@[simp] theorem State.fresh_domainSites (s : State) (i : Nat) : (s.fresh).domainSites i = s.domainSites i := rfl
@[simp] theorem State.fresh_flat (s : State) (i j : Nat) : (s.fresh).flat i j = s.flat i j := rfl
@[simp] theorem State.fresh_flatLocal (s : State) (i j : Nat) : (s.fresh).flatLocal i j = s.flatLocal i j := rfl
@[simp] theorem State.fresh_siteOfFlat (s : State) (i j : Nat) : (s.fresh).siteOfFlat i j = s.siteOfFlat i j := rfl

/-! `addMessage` -/

@[simp] theorem State.addMessage_mem (s : State) (m : Message) : (s.addMessage m).mem = s.mem := rfl
@[simp] theorem State.addMessage_badWords (s : State) (m : Message) : (s.addMessage m).badWords = s.badWords := rfl
@[simp] theorem State.addMessage_badRegs (s : State) (m : Message) : (s.addMessage m).badRegs = s.badRegs := rfl
@[simp] theorem State.addMessage_tiles (s : State) (m : Message) : (s.addMessage m).tiles = s.tiles := rfl
@[simp] theorem State.addMessage_domains (s : State) (m : Message) : (s.addMessage m).domains = s.domains := rfl
@[simp] theorem State.addMessage_units (s : State) (m : Message) : (s.addMessage m).units = s.units := rfl
@[simp] theorem State.addMessage_dies (s : State) (m : Message) : (s.addMessage m).dies = s.dies := rfl
@[simp] theorem State.addMessage_hbmStacks (s : State) (m : Message) : (s.addMessage m).hbmStacks = s.hbmStacks := rfl
@[simp] theorem State.addMessage_pool (s : State) (m : Message) : (s.addMessage m).pool = s.pool := rfl
@[simp] theorem State.addMessage_requests (s : State) (m : Message) : (s.addMessage m).requests = s.requests := rfl
@[simp] theorem State.addMessage_owed (s : State) (m : Message) : (s.addMessage m).owed = s.owed := rfl
@[simp] theorem State.addMessage_barriers (s : State) (m : Message) : (s.addMessage m).barriers = s.barriers := rfl
@[simp] theorem State.addMessage_taken (s : State) (m : Message) : (s.addMessage m).taken = s.taken := rfl
@[simp] theorem State.addMessage_arriving (s : State) (m : Message) : (s.addMessage m).arriving = s.arriving := rfl
@[simp] theorem State.addMessage_mmc (s : State) (m : Message) : (s.addMessage m).mmc = s.mmc := rfl
@[simp] theorem State.addMessage_ports (s : State) (m : Message) : (s.addMessage m).ports = s.ports := rfl
@[simp] theorem State.addMessage_collectives (s : State) (m : Message) : (s.addMessage m).collectives = s.collectives := rfl
@[simp] theorem State.addMessage_host (s : State) (m : Message) : (s.addMessage m).host = s.host := rfl
@[simp] theorem State.addMessage_reduced (s : State) (m : Message) : (s.addMessage m).reduced = s.reduced := rfl
@[simp] theorem State.addMessage_trained (s : State) (m : Message) : (s.addMessage m).trained = s.trained := rfl
@[simp] theorem State.addMessage_portable (s : State) (m : Message) : (s.addMessage m).portable = s.portable := rfl
@[simp] theorem State.addMessage_tick (s : State) (m : Message) : (s.addMessage m).tick = s.tick := rfl
@[simp] theorem State.addMessage_phase (s : State) (m : Message) : (s.addMessage m).phase = s.phase := rfl
@[simp] theorem State.addMessage_pulsing (s : State) (m : Message) : (s.addMessage m).pulsing = s.pulsing := rfl
@[simp] theorem State.addMessage_losers (s : State) (m : Message) : (s.addMessage m).losers = s.losers := rfl
@[simp] theorem State.addMessage_agenda (s : State) (m : Message) : (s.addMessage m).agenda = s.agenda := rfl
@[simp] theorem State.addMessage_cur (s : State) (m : Message) : (s.addMessage m).cur = s.cur := rfl
@[simp] theorem State.addMessage_inputs (s : State) (m : Message) : (s.addMessage m).inputs = s.inputs := rfl
@[simp] theorem State.addMessage_tile (s : State) (m : Message) (i : Nat) : (s.addMessage m).tile i = s.tile i := rfl
@[simp] theorem State.addMessage_domain (s : State) (m : Message) (i : Nat) : (s.addMessage m).domain i = s.domain i := rfl
@[simp] theorem State.addMessage_unit (s : State) (m : Message) (i : Nat) : (s.addMessage m).unit i = s.unit i := rfl
@[simp] theorem State.addMessage_die (s : State) (m : Message) (i : Nat) : (s.addMessage m).die i = s.die i := rfl
@[simp] theorem State.addMessage_stack (s : State) (m : Message) (i : Nat) : (s.addMessage m).stack i = s.stack i := rfl
@[simp] theorem State.addMessage_port (s : State) (m : Message) (i : Nat) : (s.addMessage m).port i = s.port i := rfl
@[simp] theorem State.addMessage_byte (s : State) (m : Message) (i : Nat) : (s.addMessage m).byte i = s.byte i := rfl
@[simp] theorem State.addMessage_readBytes (s : State) (m : Message) (i j : Nat) : (s.addMessage m).readBytes i j = s.readBytes i j := rfl
@[simp] theorem State.addMessage_hasDomain (s : State) (m : Message) (i : Nat) : (s.addMessage m).hasDomain i = s.hasDomain i := rfl
@[simp] theorem State.addMessage_slotOf (s : State) (m : Message) (i : Nat) : (s.addMessage m).slotOf i = s.slotOf i := rfl
@[simp] theorem State.addMessage_domainSites (s : State) (m : Message) (i : Nat) : (s.addMessage m).domainSites i = s.domainSites i := rfl
@[simp] theorem State.addMessage_flat (s : State) (m : Message) (i j : Nat) : (s.addMessage m).flat i j = s.flat i j := rfl
@[simp] theorem State.addMessage_flatLocal (s : State) (m : Message) (i j : Nat) : (s.addMessage m).flatLocal i j = s.flatLocal i j := rfl
@[simp] theorem State.addMessage_siteOfFlat (s : State) (m : Message) (i j : Nat) : (s.addMessage m).siteOfFlat i j = s.siteOfFlat i j := rfl

/-! `putMessage` -/

@[simp] theorem State.putMessage_mem (s : State) (m : Message) : (s.putMessage m).mem = s.mem := rfl
@[simp] theorem State.putMessage_badWords (s : State) (m : Message) : (s.putMessage m).badWords = s.badWords := rfl
@[simp] theorem State.putMessage_badRegs (s : State) (m : Message) : (s.putMessage m).badRegs = s.badRegs := rfl
@[simp] theorem State.putMessage_tiles (s : State) (m : Message) : (s.putMessage m).tiles = s.tiles := rfl
@[simp] theorem State.putMessage_domains (s : State) (m : Message) : (s.putMessage m).domains = s.domains := rfl
@[simp] theorem State.putMessage_units (s : State) (m : Message) : (s.putMessage m).units = s.units := rfl
@[simp] theorem State.putMessage_dies (s : State) (m : Message) : (s.putMessage m).dies = s.dies := rfl
@[simp] theorem State.putMessage_hbmStacks (s : State) (m : Message) : (s.putMessage m).hbmStacks = s.hbmStacks := rfl
@[simp] theorem State.putMessage_pool (s : State) (m : Message) : (s.putMessage m).pool = s.pool := rfl
@[simp] theorem State.putMessage_requests (s : State) (m : Message) : (s.putMessage m).requests = s.requests := rfl
@[simp] theorem State.putMessage_owed (s : State) (m : Message) : (s.putMessage m).owed = s.owed := rfl
@[simp] theorem State.putMessage_barriers (s : State) (m : Message) : (s.putMessage m).barriers = s.barriers := rfl
@[simp] theorem State.putMessage_taken (s : State) (m : Message) : (s.putMessage m).taken = s.taken := rfl
@[simp] theorem State.putMessage_arriving (s : State) (m : Message) : (s.putMessage m).arriving = s.arriving := rfl
@[simp] theorem State.putMessage_mmc (s : State) (m : Message) : (s.putMessage m).mmc = s.mmc := rfl
@[simp] theorem State.putMessage_ports (s : State) (m : Message) : (s.putMessage m).ports = s.ports := rfl
@[simp] theorem State.putMessage_collectives (s : State) (m : Message) : (s.putMessage m).collectives = s.collectives := rfl
@[simp] theorem State.putMessage_host (s : State) (m : Message) : (s.putMessage m).host = s.host := rfl
@[simp] theorem State.putMessage_reduced (s : State) (m : Message) : (s.putMessage m).reduced = s.reduced := rfl
@[simp] theorem State.putMessage_trained (s : State) (m : Message) : (s.putMessage m).trained = s.trained := rfl
@[simp] theorem State.putMessage_portable (s : State) (m : Message) : (s.putMessage m).portable = s.portable := rfl
@[simp] theorem State.putMessage_tick (s : State) (m : Message) : (s.putMessage m).tick = s.tick := rfl
@[simp] theorem State.putMessage_phase (s : State) (m : Message) : (s.putMessage m).phase = s.phase := rfl
@[simp] theorem State.putMessage_pulsing (s : State) (m : Message) : (s.putMessage m).pulsing = s.pulsing := rfl
@[simp] theorem State.putMessage_losers (s : State) (m : Message) : (s.putMessage m).losers = s.losers := rfl
@[simp] theorem State.putMessage_agenda (s : State) (m : Message) : (s.putMessage m).agenda = s.agenda := rfl
@[simp] theorem State.putMessage_cur (s : State) (m : Message) : (s.putMessage m).cur = s.cur := rfl
@[simp] theorem State.putMessage_inputs (s : State) (m : Message) : (s.putMessage m).inputs = s.inputs := rfl
@[simp] theorem State.putMessage_nextId (s : State) (m : Message) : (s.putMessage m).nextId = s.nextId := rfl
@[simp] theorem State.putMessage_draws (s : State) (m : Message) : (s.putMessage m).draws = s.draws := rfl
@[simp] theorem State.putMessage_tile (s : State) (m : Message) (i : Nat) : (s.putMessage m).tile i = s.tile i := rfl
@[simp] theorem State.putMessage_domain (s : State) (m : Message) (i : Nat) : (s.putMessage m).domain i = s.domain i := rfl
@[simp] theorem State.putMessage_unit (s : State) (m : Message) (i : Nat) : (s.putMessage m).unit i = s.unit i := rfl
@[simp] theorem State.putMessage_die (s : State) (m : Message) (i : Nat) : (s.putMessage m).die i = s.die i := rfl
@[simp] theorem State.putMessage_stack (s : State) (m : Message) (i : Nat) : (s.putMessage m).stack i = s.stack i := rfl
@[simp] theorem State.putMessage_port (s : State) (m : Message) (i : Nat) : (s.putMessage m).port i = s.port i := rfl
@[simp] theorem State.putMessage_byte (s : State) (m : Message) (i : Nat) : (s.putMessage m).byte i = s.byte i := rfl
@[simp] theorem State.putMessage_readBytes (s : State) (m : Message) (i j : Nat) : (s.putMessage m).readBytes i j = s.readBytes i j := rfl
@[simp] theorem State.putMessage_hasDomain (s : State) (m : Message) (i : Nat) : (s.putMessage m).hasDomain i = s.hasDomain i := rfl
@[simp] theorem State.putMessage_slotOf (s : State) (m : Message) (i : Nat) : (s.putMessage m).slotOf i = s.slotOf i := rfl
@[simp] theorem State.putMessage_domainSites (s : State) (m : Message) (i : Nat) : (s.putMessage m).domainSites i = s.domainSites i := rfl
@[simp] theorem State.putMessage_flat (s : State) (m : Message) (i j : Nat) : (s.putMessage m).flat i j = s.flat i j := rfl
@[simp] theorem State.putMessage_flatLocal (s : State) (m : Message) (i j : Nat) : (s.putMessage m).flatLocal i j = s.flatLocal i j := rfl
@[simp] theorem State.putMessage_siteOfFlat (s : State) (m : Message) (i j : Nat) : (s.putMessage m).siteOfFlat i j = s.siteOfFlat i j := rfl

/-! `dropMessage` -/

@[simp] theorem State.dropMessage_mem (s : State) (id : Nat) : (s.dropMessage id).mem = s.mem := rfl
@[simp] theorem State.dropMessage_badWords (s : State) (id : Nat) : (s.dropMessage id).badWords = s.badWords := rfl
@[simp] theorem State.dropMessage_badRegs (s : State) (id : Nat) : (s.dropMessage id).badRegs = s.badRegs := rfl
@[simp] theorem State.dropMessage_tiles (s : State) (id : Nat) : (s.dropMessage id).tiles = s.tiles := rfl
@[simp] theorem State.dropMessage_domains (s : State) (id : Nat) : (s.dropMessage id).domains = s.domains := rfl
@[simp] theorem State.dropMessage_units (s : State) (id : Nat) : (s.dropMessage id).units = s.units := rfl
@[simp] theorem State.dropMessage_dies (s : State) (id : Nat) : (s.dropMessage id).dies = s.dies := rfl
@[simp] theorem State.dropMessage_hbmStacks (s : State) (id : Nat) : (s.dropMessage id).hbmStacks = s.hbmStacks := rfl
@[simp] theorem State.dropMessage_pool (s : State) (id : Nat) : (s.dropMessage id).pool = s.pool := rfl
@[simp] theorem State.dropMessage_requests (s : State) (id : Nat) : (s.dropMessage id).requests = s.requests := rfl
@[simp] theorem State.dropMessage_owed (s : State) (id : Nat) : (s.dropMessage id).owed = s.owed := rfl
@[simp] theorem State.dropMessage_barriers (s : State) (id : Nat) : (s.dropMessage id).barriers = s.barriers := rfl
@[simp] theorem State.dropMessage_taken (s : State) (id : Nat) : (s.dropMessage id).taken = s.taken := rfl
@[simp] theorem State.dropMessage_arriving (s : State) (id : Nat) : (s.dropMessage id).arriving = s.arriving := rfl
@[simp] theorem State.dropMessage_mmc (s : State) (id : Nat) : (s.dropMessage id).mmc = s.mmc := rfl
@[simp] theorem State.dropMessage_ports (s : State) (id : Nat) : (s.dropMessage id).ports = s.ports := rfl
@[simp] theorem State.dropMessage_collectives (s : State) (id : Nat) : (s.dropMessage id).collectives = s.collectives := rfl
@[simp] theorem State.dropMessage_host (s : State) (id : Nat) : (s.dropMessage id).host = s.host := rfl
@[simp] theorem State.dropMessage_reduced (s : State) (id : Nat) : (s.dropMessage id).reduced = s.reduced := rfl
@[simp] theorem State.dropMessage_trained (s : State) (id : Nat) : (s.dropMessage id).trained = s.trained := rfl
@[simp] theorem State.dropMessage_portable (s : State) (id : Nat) : (s.dropMessage id).portable = s.portable := rfl
@[simp] theorem State.dropMessage_tick (s : State) (id : Nat) : (s.dropMessage id).tick = s.tick := rfl
@[simp] theorem State.dropMessage_phase (s : State) (id : Nat) : (s.dropMessage id).phase = s.phase := rfl
@[simp] theorem State.dropMessage_pulsing (s : State) (id : Nat) : (s.dropMessage id).pulsing = s.pulsing := rfl
@[simp] theorem State.dropMessage_losers (s : State) (id : Nat) : (s.dropMessage id).losers = s.losers := rfl
@[simp] theorem State.dropMessage_agenda (s : State) (id : Nat) : (s.dropMessage id).agenda = s.agenda := rfl
@[simp] theorem State.dropMessage_cur (s : State) (id : Nat) : (s.dropMessage id).cur = s.cur := rfl
@[simp] theorem State.dropMessage_inputs (s : State) (id : Nat) : (s.dropMessage id).inputs = s.inputs := rfl
@[simp] theorem State.dropMessage_nextId (s : State) (id : Nat) : (s.dropMessage id).nextId = s.nextId := rfl
@[simp] theorem State.dropMessage_draws (s : State) (id : Nat) : (s.dropMessage id).draws = s.draws := rfl
@[simp] theorem State.dropMessage_tile (s : State) (id : Nat) (i : Nat) : (s.dropMessage id).tile i = s.tile i := rfl
@[simp] theorem State.dropMessage_domain (s : State) (id : Nat) (i : Nat) : (s.dropMessage id).domain i = s.domain i := rfl
@[simp] theorem State.dropMessage_unit (s : State) (id : Nat) (i : Nat) : (s.dropMessage id).unit i = s.unit i := rfl
@[simp] theorem State.dropMessage_die (s : State) (id : Nat) (i : Nat) : (s.dropMessage id).die i = s.die i := rfl
@[simp] theorem State.dropMessage_stack (s : State) (id : Nat) (i : Nat) : (s.dropMessage id).stack i = s.stack i := rfl
@[simp] theorem State.dropMessage_port (s : State) (id : Nat) (i : Nat) : (s.dropMessage id).port i = s.port i := rfl
@[simp] theorem State.dropMessage_byte (s : State) (id : Nat) (i : Nat) : (s.dropMessage id).byte i = s.byte i := rfl
@[simp] theorem State.dropMessage_readBytes (s : State) (id : Nat) (i j : Nat) : (s.dropMessage id).readBytes i j = s.readBytes i j := rfl
@[simp] theorem State.dropMessage_hasDomain (s : State) (id : Nat) (i : Nat) : (s.dropMessage id).hasDomain i = s.hasDomain i := rfl
@[simp] theorem State.dropMessage_slotOf (s : State) (id : Nat) (i : Nat) : (s.dropMessage id).slotOf i = s.slotOf i := rfl
@[simp] theorem State.dropMessage_domainSites (s : State) (id : Nat) (i : Nat) : (s.dropMessage id).domainSites i = s.domainSites i := rfl
@[simp] theorem State.dropMessage_flat (s : State) (id : Nat) (i j : Nat) : (s.dropMessage id).flat i j = s.flat i j := rfl
@[simp] theorem State.dropMessage_flatLocal (s : State) (id : Nat) (i j : Nat) : (s.dropMessage id).flatLocal i j = s.flatLocal i j := rfl
@[simp] theorem State.dropMessage_siteOfFlat (s : State) (id : Nat) (i j : Nat) : (s.dropMessage id).siteOfFlat i j = s.siteOfFlat i j := rfl

/-! `putCommand` -/

@[simp] theorem State.putCommand_mem (s : State) (slot : Nat) (c : Command) : (s.putCommand slot c).mem = s.mem := rfl
@[simp] theorem State.putCommand_badWords (s : State) (slot : Nat) (c : Command) : (s.putCommand slot c).badWords = s.badWords := rfl
@[simp] theorem State.putCommand_badRegs (s : State) (slot : Nat) (c : Command) : (s.putCommand slot c).badRegs = s.badRegs := rfl
@[simp] theorem State.putCommand_tiles (s : State) (slot : Nat) (c : Command) : (s.putCommand slot c).tiles = s.tiles := rfl
@[simp] theorem State.putCommand_units (s : State) (slot : Nat) (c : Command) : (s.putCommand slot c).units = s.units := rfl
@[simp] theorem State.putCommand_dies (s : State) (slot : Nat) (c : Command) : (s.putCommand slot c).dies = s.dies := rfl
@[simp] theorem State.putCommand_hbmStacks (s : State) (slot : Nat) (c : Command) : (s.putCommand slot c).hbmStacks = s.hbmStacks := rfl
@[simp] theorem State.putCommand_pool (s : State) (slot : Nat) (c : Command) : (s.putCommand slot c).pool = s.pool := rfl
@[simp] theorem State.putCommand_messages (s : State) (slot : Nat) (c : Command) : (s.putCommand slot c).messages = s.messages := rfl
@[simp] theorem State.putCommand_requests (s : State) (slot : Nat) (c : Command) : (s.putCommand slot c).requests = s.requests := rfl
@[simp] theorem State.putCommand_owed (s : State) (slot : Nat) (c : Command) : (s.putCommand slot c).owed = s.owed := rfl
@[simp] theorem State.putCommand_barriers (s : State) (slot : Nat) (c : Command) : (s.putCommand slot c).barriers = s.barriers := rfl
@[simp] theorem State.putCommand_taken (s : State) (slot : Nat) (c : Command) : (s.putCommand slot c).taken = s.taken := rfl
@[simp] theorem State.putCommand_arriving (s : State) (slot : Nat) (c : Command) : (s.putCommand slot c).arriving = s.arriving := rfl
@[simp] theorem State.putCommand_mmc (s : State) (slot : Nat) (c : Command) : (s.putCommand slot c).mmc = s.mmc := rfl
@[simp] theorem State.putCommand_ports (s : State) (slot : Nat) (c : Command) : (s.putCommand slot c).ports = s.ports := rfl
@[simp] theorem State.putCommand_collectives (s : State) (slot : Nat) (c : Command) : (s.putCommand slot c).collectives = s.collectives := rfl
@[simp] theorem State.putCommand_host (s : State) (slot : Nat) (c : Command) : (s.putCommand slot c).host = s.host := rfl
@[simp] theorem State.putCommand_reduced (s : State) (slot : Nat) (c : Command) : (s.putCommand slot c).reduced = s.reduced := rfl
@[simp] theorem State.putCommand_trained (s : State) (slot : Nat) (c : Command) : (s.putCommand slot c).trained = s.trained := rfl
@[simp] theorem State.putCommand_portable (s : State) (slot : Nat) (c : Command) : (s.putCommand slot c).portable = s.portable := rfl
@[simp] theorem State.putCommand_tick (s : State) (slot : Nat) (c : Command) : (s.putCommand slot c).tick = s.tick := rfl
@[simp] theorem State.putCommand_phase (s : State) (slot : Nat) (c : Command) : (s.putCommand slot c).phase = s.phase := rfl
@[simp] theorem State.putCommand_pulsing (s : State) (slot : Nat) (c : Command) : (s.putCommand slot c).pulsing = s.pulsing := rfl
@[simp] theorem State.putCommand_losers (s : State) (slot : Nat) (c : Command) : (s.putCommand slot c).losers = s.losers := rfl
@[simp] theorem State.putCommand_agenda (s : State) (slot : Nat) (c : Command) : (s.putCommand slot c).agenda = s.agenda := rfl
@[simp] theorem State.putCommand_cur (s : State) (slot : Nat) (c : Command) : (s.putCommand slot c).cur = s.cur := rfl
@[simp] theorem State.putCommand_inputs (s : State) (slot : Nat) (c : Command) : (s.putCommand slot c).inputs = s.inputs := rfl
@[simp] theorem State.putCommand_nextId (s : State) (slot : Nat) (c : Command) : (s.putCommand slot c).nextId = s.nextId := rfl
@[simp] theorem State.putCommand_draws (s : State) (slot : Nat) (c : Command) : (s.putCommand slot c).draws = s.draws := rfl
@[simp] theorem State.putCommand_tile (s : State) (slot : Nat) (c : Command) (i : Nat) : (s.putCommand slot c).tile i = s.tile i := rfl
@[simp] theorem State.putCommand_unit (s : State) (slot : Nat) (c : Command) (i : Nat) : (s.putCommand slot c).unit i = s.unit i := rfl
@[simp] theorem State.putCommand_die (s : State) (slot : Nat) (c : Command) (i : Nat) : (s.putCommand slot c).die i = s.die i := rfl
@[simp] theorem State.putCommand_stack (s : State) (slot : Nat) (c : Command) (i : Nat) : (s.putCommand slot c).stack i = s.stack i := rfl
@[simp] theorem State.putCommand_port (s : State) (slot : Nat) (c : Command) (i : Nat) : (s.putCommand slot c).port i = s.port i := rfl
@[simp] theorem State.putCommand_byte (s : State) (slot : Nat) (c : Command) (i : Nat) : (s.putCommand slot c).byte i = s.byte i := rfl
@[simp] theorem State.putCommand_readBytes (s : State) (slot : Nat) (c : Command) (i j : Nat) : (s.putCommand slot c).readBytes i j = s.readBytes i j := rfl

/-! `dropCommand` -/

@[simp] theorem State.dropCommand_mem (s : State) (slot id : Nat) : (s.dropCommand slot id).mem = s.mem := rfl
@[simp] theorem State.dropCommand_badWords (s : State) (slot id : Nat) : (s.dropCommand slot id).badWords = s.badWords := rfl
@[simp] theorem State.dropCommand_badRegs (s : State) (slot id : Nat) : (s.dropCommand slot id).badRegs = s.badRegs := rfl
@[simp] theorem State.dropCommand_tiles (s : State) (slot id : Nat) : (s.dropCommand slot id).tiles = s.tiles := rfl
@[simp] theorem State.dropCommand_units (s : State) (slot id : Nat) : (s.dropCommand slot id).units = s.units := rfl
@[simp] theorem State.dropCommand_dies (s : State) (slot id : Nat) : (s.dropCommand slot id).dies = s.dies := rfl
@[simp] theorem State.dropCommand_hbmStacks (s : State) (slot id : Nat) : (s.dropCommand slot id).hbmStacks = s.hbmStacks := rfl
@[simp] theorem State.dropCommand_pool (s : State) (slot id : Nat) : (s.dropCommand slot id).pool = s.pool := rfl
@[simp] theorem State.dropCommand_messages (s : State) (slot id : Nat) : (s.dropCommand slot id).messages = s.messages := rfl
@[simp] theorem State.dropCommand_requests (s : State) (slot id : Nat) : (s.dropCommand slot id).requests = s.requests := rfl
@[simp] theorem State.dropCommand_owed (s : State) (slot id : Nat) : (s.dropCommand slot id).owed = s.owed := rfl
@[simp] theorem State.dropCommand_barriers (s : State) (slot id : Nat) : (s.dropCommand slot id).barriers = s.barriers := rfl
@[simp] theorem State.dropCommand_taken (s : State) (slot id : Nat) : (s.dropCommand slot id).taken = s.taken := rfl
@[simp] theorem State.dropCommand_arriving (s : State) (slot id : Nat) : (s.dropCommand slot id).arriving = s.arriving := rfl
@[simp] theorem State.dropCommand_mmc (s : State) (slot id : Nat) : (s.dropCommand slot id).mmc = s.mmc := rfl
@[simp] theorem State.dropCommand_ports (s : State) (slot id : Nat) : (s.dropCommand slot id).ports = s.ports := rfl
@[simp] theorem State.dropCommand_collectives (s : State) (slot id : Nat) : (s.dropCommand slot id).collectives = s.collectives := rfl
@[simp] theorem State.dropCommand_host (s : State) (slot id : Nat) : (s.dropCommand slot id).host = s.host := rfl
@[simp] theorem State.dropCommand_reduced (s : State) (slot id : Nat) : (s.dropCommand slot id).reduced = s.reduced := rfl
@[simp] theorem State.dropCommand_trained (s : State) (slot id : Nat) : (s.dropCommand slot id).trained = s.trained := rfl
@[simp] theorem State.dropCommand_portable (s : State) (slot id : Nat) : (s.dropCommand slot id).portable = s.portable := rfl
@[simp] theorem State.dropCommand_tick (s : State) (slot id : Nat) : (s.dropCommand slot id).tick = s.tick := rfl
@[simp] theorem State.dropCommand_phase (s : State) (slot id : Nat) : (s.dropCommand slot id).phase = s.phase := rfl
@[simp] theorem State.dropCommand_pulsing (s : State) (slot id : Nat) : (s.dropCommand slot id).pulsing = s.pulsing := rfl
@[simp] theorem State.dropCommand_losers (s : State) (slot id : Nat) : (s.dropCommand slot id).losers = s.losers := rfl
@[simp] theorem State.dropCommand_agenda (s : State) (slot id : Nat) : (s.dropCommand slot id).agenda = s.agenda := rfl
@[simp] theorem State.dropCommand_cur (s : State) (slot id : Nat) : (s.dropCommand slot id).cur = s.cur := rfl
@[simp] theorem State.dropCommand_inputs (s : State) (slot id : Nat) : (s.dropCommand slot id).inputs = s.inputs := rfl
@[simp] theorem State.dropCommand_nextId (s : State) (slot id : Nat) : (s.dropCommand slot id).nextId = s.nextId := rfl
@[simp] theorem State.dropCommand_draws (s : State) (slot id : Nat) : (s.dropCommand slot id).draws = s.draws := rfl
@[simp] theorem State.dropCommand_tile (s : State) (slot id : Nat) (i : Nat) : (s.dropCommand slot id).tile i = s.tile i := rfl
@[simp] theorem State.dropCommand_unit (s : State) (slot id : Nat) (i : Nat) : (s.dropCommand slot id).unit i = s.unit i := rfl
@[simp] theorem State.dropCommand_die (s : State) (slot id : Nat) (i : Nat) : (s.dropCommand slot id).die i = s.die i := rfl
@[simp] theorem State.dropCommand_stack (s : State) (slot id : Nat) (i : Nat) : (s.dropCommand slot id).stack i = s.stack i := rfl
@[simp] theorem State.dropCommand_port (s : State) (slot id : Nat) (i : Nat) : (s.dropCommand slot id).port i = s.port i := rfl
@[simp] theorem State.dropCommand_byte (s : State) (slot id : Nat) (i : Nat) : (s.dropCommand slot id).byte i = s.byte i := rfl
@[simp] theorem State.dropCommand_readBytes (s : State) (slot id : Nat) (i j : Nat) : (s.dropCommand slot id).readBytes i j = s.readBytes i j := rfl

/-! `setEntry` -/

@[simp] theorem State.setEntry_mem (s : State) (slot tag : Nat) (e : ArmEntry) : (s.setEntry slot tag e).mem = s.mem := rfl
@[simp] theorem State.setEntry_badWords (s : State) (slot tag : Nat) (e : ArmEntry) : (s.setEntry slot tag e).badWords = s.badWords := rfl
@[simp] theorem State.setEntry_badRegs (s : State) (slot tag : Nat) (e : ArmEntry) : (s.setEntry slot tag e).badRegs = s.badRegs := rfl
@[simp] theorem State.setEntry_tiles (s : State) (slot tag : Nat) (e : ArmEntry) : (s.setEntry slot tag e).tiles = s.tiles := rfl
@[simp] theorem State.setEntry_domains (s : State) (slot tag : Nat) (e : ArmEntry) : (s.setEntry slot tag e).domains = s.domains := rfl
@[simp] theorem State.setEntry_dies (s : State) (slot tag : Nat) (e : ArmEntry) : (s.setEntry slot tag e).dies = s.dies := rfl
@[simp] theorem State.setEntry_hbmStacks (s : State) (slot tag : Nat) (e : ArmEntry) : (s.setEntry slot tag e).hbmStacks = s.hbmStacks := rfl
@[simp] theorem State.setEntry_pool (s : State) (slot tag : Nat) (e : ArmEntry) : (s.setEntry slot tag e).pool = s.pool := rfl
@[simp] theorem State.setEntry_messages (s : State) (slot tag : Nat) (e : ArmEntry) : (s.setEntry slot tag e).messages = s.messages := rfl
@[simp] theorem State.setEntry_requests (s : State) (slot tag : Nat) (e : ArmEntry) : (s.setEntry slot tag e).requests = s.requests := rfl
@[simp] theorem State.setEntry_owed (s : State) (slot tag : Nat) (e : ArmEntry) : (s.setEntry slot tag e).owed = s.owed := rfl
@[simp] theorem State.setEntry_barriers (s : State) (slot tag : Nat) (e : ArmEntry) : (s.setEntry slot tag e).barriers = s.barriers := rfl
@[simp] theorem State.setEntry_taken (s : State) (slot tag : Nat) (e : ArmEntry) : (s.setEntry slot tag e).taken = s.taken := rfl
@[simp] theorem State.setEntry_arriving (s : State) (slot tag : Nat) (e : ArmEntry) : (s.setEntry slot tag e).arriving = s.arriving := rfl
@[simp] theorem State.setEntry_mmc (s : State) (slot tag : Nat) (e : ArmEntry) : (s.setEntry slot tag e).mmc = s.mmc := rfl
@[simp] theorem State.setEntry_ports (s : State) (slot tag : Nat) (e : ArmEntry) : (s.setEntry slot tag e).ports = s.ports := rfl
@[simp] theorem State.setEntry_collectives (s : State) (slot tag : Nat) (e : ArmEntry) : (s.setEntry slot tag e).collectives = s.collectives := rfl
@[simp] theorem State.setEntry_host (s : State) (slot tag : Nat) (e : ArmEntry) : (s.setEntry slot tag e).host = s.host := rfl
@[simp] theorem State.setEntry_reduced (s : State) (slot tag : Nat) (e : ArmEntry) : (s.setEntry slot tag e).reduced = s.reduced := rfl
@[simp] theorem State.setEntry_trained (s : State) (slot tag : Nat) (e : ArmEntry) : (s.setEntry slot tag e).trained = s.trained := rfl
@[simp] theorem State.setEntry_portable (s : State) (slot tag : Nat) (e : ArmEntry) : (s.setEntry slot tag e).portable = s.portable := rfl
@[simp] theorem State.setEntry_tick (s : State) (slot tag : Nat) (e : ArmEntry) : (s.setEntry slot tag e).tick = s.tick := rfl
@[simp] theorem State.setEntry_phase (s : State) (slot tag : Nat) (e : ArmEntry) : (s.setEntry slot tag e).phase = s.phase := rfl
@[simp] theorem State.setEntry_pulsing (s : State) (slot tag : Nat) (e : ArmEntry) : (s.setEntry slot tag e).pulsing = s.pulsing := rfl
@[simp] theorem State.setEntry_losers (s : State) (slot tag : Nat) (e : ArmEntry) : (s.setEntry slot tag e).losers = s.losers := rfl
@[simp] theorem State.setEntry_agenda (s : State) (slot tag : Nat) (e : ArmEntry) : (s.setEntry slot tag e).agenda = s.agenda := rfl
@[simp] theorem State.setEntry_cur (s : State) (slot tag : Nat) (e : ArmEntry) : (s.setEntry slot tag e).cur = s.cur := rfl
@[simp] theorem State.setEntry_inputs (s : State) (slot tag : Nat) (e : ArmEntry) : (s.setEntry slot tag e).inputs = s.inputs := rfl
@[simp] theorem State.setEntry_nextId (s : State) (slot tag : Nat) (e : ArmEntry) : (s.setEntry slot tag e).nextId = s.nextId := rfl
@[simp] theorem State.setEntry_draws (s : State) (slot tag : Nat) (e : ArmEntry) : (s.setEntry slot tag e).draws = s.draws := rfl
@[simp] theorem State.setEntry_tile (s : State) (slot tag : Nat) (e : ArmEntry) (i : Nat) : (s.setEntry slot tag e).tile i = s.tile i := rfl
@[simp] theorem State.setEntry_domain (s : State) (slot tag : Nat) (e : ArmEntry) (i : Nat) : (s.setEntry slot tag e).domain i = s.domain i := rfl
@[simp] theorem State.setEntry_die (s : State) (slot tag : Nat) (e : ArmEntry) (i : Nat) : (s.setEntry slot tag e).die i = s.die i := rfl
@[simp] theorem State.setEntry_stack (s : State) (slot tag : Nat) (e : ArmEntry) (i : Nat) : (s.setEntry slot tag e).stack i = s.stack i := rfl
@[simp] theorem State.setEntry_port (s : State) (slot tag : Nat) (e : ArmEntry) (i : Nat) : (s.setEntry slot tag e).port i = s.port i := rfl
@[simp] theorem State.setEntry_byte (s : State) (slot tag : Nat) (e : ArmEntry) (i : Nat) : (s.setEntry slot tag e).byte i = s.byte i := rfl
@[simp] theorem State.setEntry_readBytes (s : State) (slot tag : Nat) (e : ArmEntry) (i j : Nat) : (s.setEntry slot tag e).readBytes i j = s.readBytes i j := rfl
@[simp] theorem State.setEntry_hasDomain (s : State) (slot tag : Nat) (e : ArmEntry) (i : Nat) : (s.setEntry slot tag e).hasDomain i = s.hasDomain i := rfl
@[simp] theorem State.setEntry_slotOf (s : State) (slot tag : Nat) (e : ArmEntry) (i : Nat) : (s.setEntry slot tag e).slotOf i = s.slotOf i := rfl
@[simp] theorem State.setEntry_domainSites (s : State) (slot tag : Nat) (e : ArmEntry) (i : Nat) : (s.setEntry slot tag e).domainSites i = s.domainSites i := rfl
@[simp] theorem State.setEntry_flat (s : State) (slot tag : Nat) (e : ArmEntry) (i j : Nat) : (s.setEntry slot tag e).flat i j = s.flat i j := rfl
@[simp] theorem State.setEntry_flatLocal (s : State) (slot tag : Nat) (e : ArmEntry) (i j : Nat) : (s.setEntry slot tag e).flatLocal i j = s.flatLocal i j := rfl
@[simp] theorem State.setEntry_siteOfFlat (s : State) (slot tag : Nat) (e : ArmEntry) (i j : Nat) : (s.setEntry slot tag e).siteOfFlat i j = s.siteOfFlat i j := rfl

/-! `setCounter` -/

@[simp] theorem State.setCounter_mem (s : State) (h w : Word) : (s.setCounter h w).mem = s.mem := rfl
@[simp] theorem State.setCounter_badWords (s : State) (h w : Word) : (s.setCounter h w).badWords = s.badWords := rfl
@[simp] theorem State.setCounter_badRegs (s : State) (h w : Word) : (s.setCounter h w).badRegs = s.badRegs := rfl
@[simp] theorem State.setCounter_tiles (s : State) (h w : Word) : (s.setCounter h w).tiles = s.tiles := rfl
@[simp] theorem State.setCounter_domains (s : State) (h w : Word) : (s.setCounter h w).domains = s.domains := rfl
@[simp] theorem State.setCounter_dies (s : State) (h w : Word) : (s.setCounter h w).dies = s.dies := rfl
@[simp] theorem State.setCounter_hbmStacks (s : State) (h w : Word) : (s.setCounter h w).hbmStacks = s.hbmStacks := rfl
@[simp] theorem State.setCounter_pool (s : State) (h w : Word) : (s.setCounter h w).pool = s.pool := rfl
@[simp] theorem State.setCounter_messages (s : State) (h w : Word) : (s.setCounter h w).messages = s.messages := rfl
@[simp] theorem State.setCounter_requests (s : State) (h w : Word) : (s.setCounter h w).requests = s.requests := rfl
@[simp] theorem State.setCounter_owed (s : State) (h w : Word) : (s.setCounter h w).owed = s.owed := rfl
@[simp] theorem State.setCounter_barriers (s : State) (h w : Word) : (s.setCounter h w).barriers = s.barriers := rfl
@[simp] theorem State.setCounter_taken (s : State) (h w : Word) : (s.setCounter h w).taken = s.taken := rfl
@[simp] theorem State.setCounter_arriving (s : State) (h w : Word) : (s.setCounter h w).arriving = s.arriving := rfl
@[simp] theorem State.setCounter_mmc (s : State) (h w : Word) : (s.setCounter h w).mmc = s.mmc := rfl
@[simp] theorem State.setCounter_ports (s : State) (h w : Word) : (s.setCounter h w).ports = s.ports := rfl
@[simp] theorem State.setCounter_collectives (s : State) (h w : Word) : (s.setCounter h w).collectives = s.collectives := rfl
@[simp] theorem State.setCounter_host (s : State) (h w : Word) : (s.setCounter h w).host = s.host := rfl
@[simp] theorem State.setCounter_reduced (s : State) (h w : Word) : (s.setCounter h w).reduced = s.reduced := rfl
@[simp] theorem State.setCounter_trained (s : State) (h w : Word) : (s.setCounter h w).trained = s.trained := rfl
@[simp] theorem State.setCounter_portable (s : State) (h w : Word) : (s.setCounter h w).portable = s.portable := rfl
@[simp] theorem State.setCounter_tick (s : State) (h w : Word) : (s.setCounter h w).tick = s.tick := rfl
@[simp] theorem State.setCounter_phase (s : State) (h w : Word) : (s.setCounter h w).phase = s.phase := rfl
@[simp] theorem State.setCounter_pulsing (s : State) (h w : Word) : (s.setCounter h w).pulsing = s.pulsing := rfl
@[simp] theorem State.setCounter_losers (s : State) (h w : Word) : (s.setCounter h w).losers = s.losers := rfl
@[simp] theorem State.setCounter_agenda (s : State) (h w : Word) : (s.setCounter h w).agenda = s.agenda := rfl
@[simp] theorem State.setCounter_cur (s : State) (h w : Word) : (s.setCounter h w).cur = s.cur := rfl
@[simp] theorem State.setCounter_inputs (s : State) (h w : Word) : (s.setCounter h w).inputs = s.inputs := rfl
@[simp] theorem State.setCounter_nextId (s : State) (h w : Word) : (s.setCounter h w).nextId = s.nextId := rfl
@[simp] theorem State.setCounter_draws (s : State) (h w : Word) : (s.setCounter h w).draws = s.draws := rfl
@[simp] theorem State.setCounter_tile (s : State) (h w : Word) (i : Nat) : (s.setCounter h w).tile i = s.tile i := rfl
@[simp] theorem State.setCounter_domain (s : State) (h w : Word) (i : Nat) : (s.setCounter h w).domain i = s.domain i := rfl
@[simp] theorem State.setCounter_die (s : State) (h w : Word) (i : Nat) : (s.setCounter h w).die i = s.die i := rfl
@[simp] theorem State.setCounter_stack (s : State) (h w : Word) (i : Nat) : (s.setCounter h w).stack i = s.stack i := rfl
@[simp] theorem State.setCounter_port (s : State) (h w : Word) (i : Nat) : (s.setCounter h w).port i = s.port i := rfl
@[simp] theorem State.setCounter_byte (s : State) (h w : Word) (i : Nat) : (s.setCounter h w).byte i = s.byte i := rfl
@[simp] theorem State.setCounter_readBytes (s : State) (h w : Word) (i j : Nat) : (s.setCounter h w).readBytes i j = s.readBytes i j := rfl
@[simp] theorem State.setCounter_hasDomain (s : State) (h w : Word) (i : Nat) : (s.setCounter h w).hasDomain i = s.hasDomain i := rfl
@[simp] theorem State.setCounter_slotOf (s : State) (h w : Word) (i : Nat) : (s.setCounter h w).slotOf i = s.slotOf i := rfl
@[simp] theorem State.setCounter_domainSites (s : State) (h w : Word) (i : Nat) : (s.setCounter h w).domainSites i = s.domainSites i := rfl
@[simp] theorem State.setCounter_flat (s : State) (h w : Word) (i j : Nat) : (s.setCounter h w).flat i j = s.flat i j := rfl
@[simp] theorem State.setCounter_flatLocal (s : State) (h w : Word) (i j : Nat) : (s.setCounter h w).flatLocal i j = s.flatLocal i j := rfl
@[simp] theorem State.setCounter_siteOfFlat (s : State) (h w : Word) (i j : Nat) : (s.setCounter h w).siteOfFlat i j = s.siteOfFlat i j := rfl

/-! `putG` -/

@[simp] theorem State.putG_mem (s : State) (d : BitVec 4) (w : Word) : (s.putG d w).mem = s.mem := rfl
@[simp] theorem State.putG_badWords (s : State) (d : BitVec 4) (w : Word) : (s.putG d w).badWords = s.badWords := rfl
@[simp] theorem State.putG_badRegs (s : State) (d : BitVec 4) (w : Word) : (s.putG d w).badRegs = s.badRegs := rfl
@[simp] theorem State.putG_tiles (s : State) (d : BitVec 4) (w : Word) : (s.putG d w).tiles = s.tiles := rfl
@[simp] theorem State.putG_domains (s : State) (d : BitVec 4) (w : Word) : (s.putG d w).domains = s.domains := rfl
@[simp] theorem State.putG_units (s : State) (d : BitVec 4) (w : Word) : (s.putG d w).units = s.units := rfl
@[simp] theorem State.putG_dies (s : State) (d : BitVec 4) (w : Word) : (s.putG d w).dies = s.dies := rfl
@[simp] theorem State.putG_hbmStacks (s : State) (d : BitVec 4) (w : Word) : (s.putG d w).hbmStacks = s.hbmStacks := rfl
@[simp] theorem State.putG_pool (s : State) (d : BitVec 4) (w : Word) : (s.putG d w).pool = s.pool := rfl
@[simp] theorem State.putG_messages (s : State) (d : BitVec 4) (w : Word) : (s.putG d w).messages = s.messages := rfl
@[simp] theorem State.putG_requests (s : State) (d : BitVec 4) (w : Word) : (s.putG d w).requests = s.requests := rfl
@[simp] theorem State.putG_owed (s : State) (d : BitVec 4) (w : Word) : (s.putG d w).owed = s.owed := rfl
@[simp] theorem State.putG_barriers (s : State) (d : BitVec 4) (w : Word) : (s.putG d w).barriers = s.barriers := rfl
@[simp] theorem State.putG_taken (s : State) (d : BitVec 4) (w : Word) : (s.putG d w).taken = s.taken := rfl
@[simp] theorem State.putG_arriving (s : State) (d : BitVec 4) (w : Word) : (s.putG d w).arriving = s.arriving := rfl
@[simp] theorem State.putG_mmc (s : State) (d : BitVec 4) (w : Word) : (s.putG d w).mmc = s.mmc := rfl
@[simp] theorem State.putG_ports (s : State) (d : BitVec 4) (w : Word) : (s.putG d w).ports = s.ports := rfl
@[simp] theorem State.putG_collectives (s : State) (d : BitVec 4) (w : Word) : (s.putG d w).collectives = s.collectives := rfl
@[simp] theorem State.putG_host (s : State) (d : BitVec 4) (w : Word) : (s.putG d w).host = s.host := rfl
@[simp] theorem State.putG_reduced (s : State) (d : BitVec 4) (w : Word) : (s.putG d w).reduced = s.reduced := rfl
@[simp] theorem State.putG_trained (s : State) (d : BitVec 4) (w : Word) : (s.putG d w).trained = s.trained := rfl
@[simp] theorem State.putG_tick (s : State) (d : BitVec 4) (w : Word) : (s.putG d w).tick = s.tick := rfl
@[simp] theorem State.putG_phase (s : State) (d : BitVec 4) (w : Word) : (s.putG d w).phase = s.phase := rfl
@[simp] theorem State.putG_pulsing (s : State) (d : BitVec 4) (w : Word) : (s.putG d w).pulsing = s.pulsing := rfl
@[simp] theorem State.putG_losers (s : State) (d : BitVec 4) (w : Word) : (s.putG d w).losers = s.losers := rfl
@[simp] theorem State.putG_agenda (s : State) (d : BitVec 4) (w : Word) : (s.putG d w).agenda = s.agenda := rfl
@[simp] theorem State.putG_cur (s : State) (d : BitVec 4) (w : Word) : (s.putG d w).cur = s.cur := rfl
@[simp] theorem State.putG_inputs (s : State) (d : BitVec 4) (w : Word) : (s.putG d w).inputs = s.inputs := rfl
@[simp] theorem State.putG_nextId (s : State) (d : BitVec 4) (w : Word) : (s.putG d w).nextId = s.nextId := rfl
@[simp] theorem State.putG_draws (s : State) (d : BitVec 4) (w : Word) : (s.putG d w).draws = s.draws := rfl
@[simp] theorem State.putG_tile (s : State) (d : BitVec 4) (w : Word) (i : Nat) : (s.putG d w).tile i = s.tile i := rfl
@[simp] theorem State.putG_domain (s : State) (d : BitVec 4) (w : Word) (i : Nat) : (s.putG d w).domain i = s.domain i := rfl
@[simp] theorem State.putG_unit (s : State) (d : BitVec 4) (w : Word) (i : Nat) : (s.putG d w).unit i = s.unit i := rfl
@[simp] theorem State.putG_die (s : State) (d : BitVec 4) (w : Word) (i : Nat) : (s.putG d w).die i = s.die i := rfl
@[simp] theorem State.putG_stack (s : State) (d : BitVec 4) (w : Word) (i : Nat) : (s.putG d w).stack i = s.stack i := rfl
@[simp] theorem State.putG_port (s : State) (d : BitVec 4) (w : Word) (i : Nat) : (s.putG d w).port i = s.port i := rfl
@[simp] theorem State.putG_byte (s : State) (d : BitVec 4) (w : Word) (i : Nat) : (s.putG d w).byte i = s.byte i := rfl
@[simp] theorem State.putG_readBytes (s : State) (d : BitVec 4) (w : Word) (i j : Nat) : (s.putG d w).readBytes i j = s.readBytes i j := rfl
@[simp] theorem State.putG_hasDomain (s : State) (d : BitVec 4) (w : Word) (i : Nat) : (s.putG d w).hasDomain i = s.hasDomain i := rfl
@[simp] theorem State.putG_slotOf (s : State) (d : BitVec 4) (w : Word) (i : Nat) : (s.putG d w).slotOf i = s.slotOf i := rfl
@[simp] theorem State.putG_domainSites (s : State) (d : BitVec 4) (w : Word) (i : Nat) : (s.putG d w).domainSites i = s.domainSites i := rfl
@[simp] theorem State.putG_flat (s : State) (d : BitVec 4) (w : Word) (i j : Nat) : (s.putG d w).flat i j = s.flat i j := rfl
@[simp] theorem State.putG_flatLocal (s : State) (d : BitVec 4) (w : Word) (i j : Nat) : (s.putG d w).flatLocal i j = s.flatLocal i j := rfl
@[simp] theorem State.putG_siteOfFlat (s : State) (d : BitVec 4) (w : Word) (i j : Nat) : (s.putG d w).siteOfFlat i j = s.siteOfFlat i j := rfl

end Sys2Proof.Machine
end

