-- ==== Sys2Proof/Laws/Memory.lean ====
section
/-!
SUPPORT. Memory: reading after writing, the canonical form, and little-endian numbers.
-/
namespace Sys2Proof.Machine

/-! ### Canonical form -/

theorem Memory.sortedFrom_mono {a b : Nat} {m : List Host.Cell} (h : Memory.sortedFrom b m = true) (hab : a ≤ b) :
    Memory.sortedFrom a m = true := by
  cases m with
  | nil => rfl
  | cons x t =>
    obtain ⟨k, c⟩ := x
    simp only [Memory.sortedFrom, Bool.and_eq_true, decide_eq_true_eq] at h ⊢
    exact ⟨⟨by omega, h.1.2⟩, h.2⟩

theorem Memory.read_below {m : List Host.Cell} {a lo : Nat} (h : Memory.sortedFrom lo m = true) (ha : a < lo) :
    Memory.read m a = Memory.blank := by
  cases m with
  | nil => rfl
  | cons x t =>
    obtain ⟨k, c⟩ := x
    simp only [Memory.sortedFrom, Bool.and_eq_true, decide_eq_true_eq] at h
    simp only [Memory.read]
    rw [if_neg (by omega), if_pos (by omega)]

theorem Memory.sortedFrom_write {m : List Host.Cell} {lo a : Nat} {b : Byte} (h : Memory.sortedFrom lo m = true) (ha : lo ≤ a) :
    Memory.sortedFrom lo (Memory.write m a b) = true := by
  induction m generalizing lo with
  | nil => simp only [Memory.write]; split <;> simp_all [Memory.sortedFrom]
  | cons x t ih =>
    obtain ⟨k, c⟩ := x
    simp only [Memory.sortedFrom, Bool.and_eq_true, decide_eq_true_eq] at h
    obtain ⟨⟨h1, h2⟩, h3⟩ := h
    simp only [Memory.write]
    split
    · subst_vars
      split
      · exact Memory.sortedFrom_mono h3 (by omega)
      · simp_all [Memory.sortedFrom]
    · split
      · split
        · simp_all [Memory.sortedFrom]
        · simp only [Memory.sortedFrom, Bool.and_eq_true, decide_eq_true_eq]
          exact ⟨⟨ha, by simp_all⟩, ⟨⟨by omega, h2⟩, h3⟩⟩
      · simp only [Memory.sortedFrom, Bool.and_eq_true, decide_eq_true_eq]
        exact ⟨⟨h1, h2⟩, ih h3 (by omega)⟩

/-- A written byte reads back, and every other byte reads as before. -/
theorem Memory.read_write {m : List Host.Cell} {lo : Nat} (a : Nat) (b : Byte) (c : Nat) (h : Memory.sortedFrom lo m = true) :
    Memory.read (Memory.write m a b) c = if c = a then b else Memory.read m c := by
  induction m generalizing lo with
  | nil => simp only [Memory.write, Memory.read]; split <;> simp only [Memory.read] <;> grind
  | cons x t ih =>
    obtain ⟨k, v⟩ := x
    simp only [Memory.sortedFrom, Bool.and_eq_true, decide_eq_true_eq] at h
    obtain ⟨⟨h1, h2⟩, h3⟩ := h
    have hb := fun (a : Nat) (ha : a < k + 1) => Memory.read_below h3 ha
    simp only [Memory.write]
    split
    · subst_vars
      split <;> simp only [Memory.read] <;> grind
    · split
      · split <;> simp only [Memory.read] <;> grind
      · simp only [Memory.read, ih h3]; grind

theorem Memory.wf_write {m : List Host.Cell} (h : Memory.wf m = true) (a : Nat) (b : Byte) : Memory.wf (Memory.write m a b) = true :=
  Memory.sortedFrom_write h (Nat.zero_le a)

theorem Memory.wf_writeBytes {m : List Host.Cell} (h : Memory.wf m = true) (a : Nat) (bs : List Byte) :
    Memory.wf (Memory.writeBytes m a bs) = true := by
  induction bs generalizing m a with
  | nil => exact h
  | cons b bs ih => exact ih (Memory.wf_write h a b) (a + 1)

theorem Memory.sortedFrom_filter {m : List Host.Cell} {lo : Nat} (p : Host.Cell → Bool) (h : Memory.sortedFrom lo m = true) :
    Memory.sortedFrom lo (m.filter p) = true := by
  induction m generalizing lo with
  | nil => rfl
  | cons x t ih =>
    obtain ⟨k, c⟩ := x
    simp only [Memory.sortedFrom, Bool.and_eq_true, decide_eq_true_eq] at h
    simp only [List.filter_cons]
    split
    · simp only [Memory.sortedFrom, Bool.and_eq_true, decide_eq_true_eq]
      exact ⟨h.1, ih h.2⟩
    · exact ih (Memory.sortedFrom_mono h.2 (by omega))

theorem Memory.wf_filter {m : List Host.Cell} (p : Host.Cell → Bool) (h : Memory.wf m = true) : Memory.wf (m.filter p) = true :=
  Memory.sortedFrom_filter p h

theorem State.reset_memoryCanonical : State.reset.memoryCanonical := rfl

theorem State.memoryCanonical_of_mem {s t : State} (h : s.memoryCanonical) (e : t.mem = s.mem) : t.memoryCanonical := by
  unfold State.memoryCanonical at *; rw [e]; exact h

@[simp] theorem State.memoryCanonical_writeBytes {s : State} (h : s.memoryCanonical) (a : Nat) (bs : List Byte) :
    (s.writeBytes a bs).memoryCanonical := Memory.wf_writeBytes h a bs
@[simp] theorem State.memoryCanonical_write64 {s : State} (h : s.memoryCanonical) (a : Nat) (w : Word) : (s.write64 a w).memoryCanonical :=
  Memory.wf_writeBytes h _ _
@[simp] theorem State.memoryCanonical_clearBytes {s : State} (h : s.memoryCanonical) (a n : Nat) : (s.clearBytes a n).memoryCanonical :=
  Memory.wf_filter _ h
@[simp] theorem State.memoryCanonical_sramWrite {s : State} (h : s.memoryCanonical) (k o : Nat) (bs : List Byte) :
    (s.sramWrite k o bs).memoryCanonical := Memory.wf_writeBytes h _ _
@[simp] theorem State.memoryCanonical_istoreWrite {s : State} (h : s.memoryCanonical) (k o : Nat) (bs : List Byte) :
    (s.istoreWrite k o bs).memoryCanonical := Memory.wf_writeBytes h _ _
@[simp] theorem State.memoryCanonical_hbmWrite {s : State} (h : s.memoryCanonical) (a : Nat) (bs : List Byte) :
    (s.hbmWrite a bs).memoryCanonical := by
  unfold State.hbmWrite; dsimp only; split <;> exact Memory.wf_writeBytes h _ _

/-! ### Runs of bytes -/

/-- The bytes of a run read back, and every other byte reads as before. -/
theorem Memory.read_writeBytes {m : List Host.Cell} (h : Memory.wf m = true) (a : Nat) (bs : List Byte) (c : Nat) :
    Memory.read (Memory.writeBytes m a bs) c = if a ≤ c ∧ c < a + bs.length then bs.getD (c - a) 0 else Memory.read m c := by
  induction bs generalizing m a with
  | nil => simp only [Memory.writeBytes, List.length_nil]; rw [if_neg (by omega)]
  | cons b bs ih =>
    simp only [Memory.writeBytes]
    rw [ih (Memory.wf_write h a b), Memory.read_write (lo := 0) a b c h]
    by_cases h1 : c = a
    · subst h1
      rw [if_neg (by omega), if_pos rfl, if_pos (by simp)]
      simp
    · by_cases h2 : a + 1 ≤ c ∧ c < a + 1 + bs.length
      · rw [if_pos h2, if_pos (by simp; omega)]
        obtain ⟨k, hk⟩ : ∃ k, c - a = k + 1 := ⟨c - a - 1, by omega⟩
        have hk' : c - (a + 1) = k := by omega
        rw [hk, hk']; rfl
      · rw [if_neg h2, if_neg h1, if_neg (by simp; omega)]

theorem Memory.readBytes_eq {m n : List Host.Cell} {a b k : Nat} (h : ∀ i < k, Memory.read m (a + i) = Memory.read n (b + i)) :
    Memory.readBytes m a k = Memory.readBytes n b k := by
  induction k generalizing a b with
  | zero => rfl
  | succ k ih =>
    simp only [Memory.readBytes]
    congr 1
    · simpa using h 0 (by omega)
    · exact ih fun i hi => by have := h (i + 1) (by omega); simpa only [Nat.add_assoc, Nat.add_comm 1] using this

theorem Memory.readBytes_length (m : List Host.Cell) (a k : Nat) : (Memory.readBytes m a k).length = k := by
  induction k generalizing a with
  | zero => rfl
  | succ k ih => simp [Memory.readBytes, ih]

theorem Memory.readBytes_getD (m : List Host.Cell) (a k i : Nat) (h : i < k) : (Memory.readBytes m a k).getD i 0 = Memory.read m (a + i) := by
  induction k generalizing a i with
  | zero => omega
  | succ k ih =>
    cases i with
    | zero => simp [Memory.readBytes]
    | succ i =>
      have := ih (a + 1) i (by omega)
      simp only [Memory.readBytes, List.getD_cons_succ, this]
      congr 1; omega

/-- A run that has been written is what its place reads. -/
theorem Memory.readBytes_writeBytes {m : List Host.Cell} (h : Memory.wf m = true) (a : Nat) (bs : List Byte) :
    Memory.readBytes (Memory.writeBytes m a bs) a bs.length = bs := by
  apply List.ext_getElem (Memory.readBytes_length ..)
  intro i h1 h2
  have := Memory.readBytes_getD (Memory.writeBytes m a bs) a bs.length i h2
  rw [Memory.read_writeBytes h, if_pos (by omega)] at this
  have e : a + i - a = i := by omega
  rw [e] at this
  simpa [List.getD_eq_getElem?_getD, h1, h2] using this

theorem Memory.readBytes_writeBytes_other {m : List Host.Cell} (h : Memory.wf m = true) (a : Nat) (bs : List Byte) (b k : Nat)
    (hd : b + k ≤ a ∨ a + bs.length ≤ b) : Memory.readBytes (Memory.writeBytes m a bs) b k = Memory.readBytes m b k := by
  apply Memory.readBytes_eq
  intro i hi
  rw [Memory.read_writeBytes h, if_neg (by omega)]

/-! ### Little-endian numbers (spec/01 R5) -/

@[simp] theorem leBytes_length (n x : Nat) : (leBytes n x).length = n := by
  induction n generalizing x with
  | zero => rfl
  | succ n ih => simp [leBytes, ih]

theorem leNat_lt (bs : List Byte) : leNat bs < 256 ^ bs.length := by
  induction bs with
  | nil => simp [leNat]
  | cons b bs ih =>
    have := b.isLt
    simp only [leNat, List.length_cons, Nat.pow_succ]
    omega

theorem leNat_leBytes (n x : Nat) : leNat (leBytes n x) = x % 256 ^ n := by
  induction n generalizing x with
  | zero => simp [leBytes, leNat, Nat.mod_one]
  | succ n ih =>
    simp only [leBytes, leNat, ih, BitVec.toNat_ofNat, Nat.pow_succ']
    exact (Nat.mod_mul (x := x) (a := 256) (b := 256 ^ n)).symm

theorem leBytes_leNat (bs : List Byte) : leBytes bs.length (leNat bs) = bs := by
  induction bs with
  | nil => rfl
  | cons b bs ih =>
    have h := b.isLt
    simp only [List.length_cons, leBytes, leNat]
    rw [show (b.toNat + 256 * leNat bs) / 256 = leNat bs by omega, ih]
    congr 1
    apply BitVec.eq_of_toNat_eq
    simp only [BitVec.toNat_ofNat]
    omega

end Sys2Proof.Machine
end

