-- ==== Sys2Proof/Laws/Table.lean ====
section
/-!
SUPPORT. Tables read back what was put into them, and with them the tiles, domains, launch units, dies, stacks and ports of a state.
-/
namespace Sys2Proof

theorem Table.find_put {α : Type} (t : Table α) (k : Nat) (a : α) (j : Nat) :
    Table.find (Table.put t k a) j = if k = j then some a else Table.find t j := by
  induction t with
  | nil => simp [Table.put, Table.find]
  | cons x t ih =>
    obtain ⟨i, b⟩ := x
    simp only [Table.put]
    split
    · subst_vars; simp only [Table.find]; split <;> rfl
    · split
      · simp only [Table.find]
      · simp only [Table.find, ih]; grind

theorem Table.find_drop {α : Type} (t : Table α) (k j : Nat) :
    Table.find (Table.drop t k) j = if k = j then none else Table.find t j := by
  induction t with
  | nil => simp [Table.drop, Table.find]
  | cons x t ih =>
    obtain ⟨i, b⟩ := x
    simp only [Table.drop, List.filter_cons] at ih ⊢
    split <;> simp_all [Table.find] <;> grind

theorem Table.find_filter {α : Type} (t : Table α) (p : Nat → Bool) (j : Nat) :
    Table.find (t.filter fun x => p x.1) j = if p j then Table.find t j else none := by
  induction t with
  | nil => simp [Table.find]
  | cons x t ih =>
    obtain ⟨i, b⟩ := x
    simp only [List.filter_cons]
    split <;> simp_all [Table.find] <;> grind

theorem Table.at_put {α : Type} (t : Table α) (k : Nat) (a d : α) (j : Nat) :
    Table.at (Table.put t k a) d j = if k = j then a else Table.at t d j := by
  simp only [Table.at, Table.find_put]; split <;> rfl

end Sys2Proof

namespace Sys2Proof.Machine

theorem State.tile_setTile (s : State) (k : Nat) (t : Tile) (j : Nat) : (s.setTile k t).tile j = if k = j then t else s.tile j :=
  Table.at_put ..
@[simp] theorem State.tile_setTile_same (s : State) (k : Nat) (t : Tile) : (s.setTile k t).tile k = t := by simp [State.tile_setTile]
theorem State.tile_setTile_other (s : State) {k j : Nat} (t : Tile) (h : j ≠ k) : (s.setTile k t).tile j = s.tile j := by
  simp [State.tile_setTile, h.symm]

theorem State.tile_mapTile (s : State) (k : Nat) (f : Tile → Tile) (j : Nat) :
    (s.mapTile k f).tile j = if k = j then f (s.tile j) else s.tile j := by
  simp only [State.mapTile, State.tile_setTile]; split <;> simp_all
@[simp] theorem State.tile_mapTile_same (s : State) (k : Nat) (f : Tile → Tile) : (s.mapTile k f).tile k = f (s.tile k) := by
  simp [State.tile_mapTile]
theorem State.tile_mapTile_other (s : State) {k j : Nat} (f : Tile → Tile) (h : j ≠ k) : (s.mapTile k f).tile j = s.tile j := by
  simp [State.tile_mapTile, h.symm]

theorem State.domain_setDomain (s : State) (k : Nat) (d : Domain) (j : Nat) : (s.setDomain k d).domain j = if k = j then d else s.domain j :=
  Table.at_put ..
@[simp] theorem State.domain_setDomain_same (s : State) (k : Nat) (d : Domain) : (s.setDomain k d).domain k = d := by
  simp [State.domain_setDomain]
theorem State.domain_mapDomain (s : State) (k : Nat) (f : Domain → Domain) (j : Nat) :
    (s.mapDomain k f).domain j = if k = j then f (s.domain j) else s.domain j := by
  simp only [State.mapDomain, State.domain_setDomain]; split <;> simp_all
@[simp] theorem State.domain_mapDomain_same (s : State) (k : Nat) (f : Domain → Domain) : (s.mapDomain k f).domain k = f (s.domain k) := by
  simp [State.domain_mapDomain]

theorem State.unit_setUnit (s : State) (k : Nat) (u : LaunchUnit) (j : Nat) : (s.setUnit k u).unit j = if k = j then u else s.unit j :=
  Table.at_put ..
@[simp] theorem State.unit_setUnit_same (s : State) (k : Nat) (u : LaunchUnit) : (s.setUnit k u).unit k = u := by simp [State.unit_setUnit]

theorem State.die_setDie (s : State) (k : Nat) (d : Die) (j : Nat) : (s.setDie k d).die j = if k = j then d else s.die j := Table.at_put ..
@[simp] theorem State.die_setDie_same (s : State) (k : Nat) (d : Die) : (s.setDie k d).die k = d := by simp [State.die_setDie]

theorem State.stack_setStack (s : State) (k : Nat) (x : Stack) (j : Nat) : (s.setStack k x).stack j = if k = j then x else s.stack j :=
  Table.at_put ..
@[simp] theorem State.stack_setStack_same (s : State) (k : Nat) (x : Stack) : (s.setStack k x).stack k = x := by simp [State.stack_setStack]

theorem State.port_setPort (s : State) (k : Nat) (x : Port) (j : Nat) : (s.setPort k x).port j = if k = j then x else s.port j :=
  Table.at_put ..
@[simp] theorem State.port_setPort_same (s : State) (k : Nat) (x : Port) : (s.setPort k x).port k = x := by simp [State.port_setPort]

/-- One tile's change after another's. -/
theorem State.setTile_setTile (s : State) (k : Nat) (t u : Tile) : (s.setTile k t).setTile k u = s.setTile k u := by
  have h : ∀ l : Table Tile, Table.put (Table.put l k t) k u = Table.put l k u := by
    intro l
    induction l with
    | nil => simp [Table.put]
    | cons x l ih =>
      obtain ⟨j, b⟩ := x
      simp only [Table.put]
      split
      · simp [Table.put]
      · split
        · simp [Table.put]
        · simp [Table.put, *]
  simp [State.setTile, h]

theorem State.mapTile_mapTile (s : State) (k : Nat) (f g : Tile → Tile) : (s.mapTile k f).mapTile k g = s.mapTile k (g ∘ f) := by
  simp [State.mapTile, State.setTile_setTile]

end Sys2Proof.Machine
end

