-- ==== Sys2Proof/Laws/Ops.lean ====
section
/-!
SUPPORT. What the shared operations can do: the issue of a trigger, a firing of a pipelined socket, taking a fault, messages and requests.
-/
namespace Sys2Proof.Machine

/-! ### Triggers -/

/-- A trigger that fires has its own effect. -/
theorem State.trigger_fires {s : State} {own : List Sock} (h : s.firing own) (fire : Trig → State → State) :
    s.trigger own fire = fire (s.trigOf own) s := by
  obtain ⟨h1, h2, h3⟩ := h
  simp [State.trigger, h1, h2, h3]

/-- Everything the issue of a trigger can do: nothing, the fault of R374, a wait, or its own effect. -/
theorem State.trigger_cases (s : State) (own : List Sock) (fire : Trig → State → State) :
    s.trigger own fire = s ∨ s.trigger own fire = (s.trigOf own).forbid s ∨
      (s.trigger own fire = s.mapTile s.cur.site fun t => t.wait (s.curSock own) ⟨s.curSlot.sel.toNat, (s.trigOf own).data, s.cur.from_⟩) ∨
      (s.firing own ∧ s.trigger own fire = fire (s.trigOf own) s) := by
  unfold State.trigger State.firing
  dsimp only
  split
  · exact .inl rfl
  · split
    · exact .inr (.inl rfl)
    · split
      · exact .inr (.inr (.inl rfl))
      · exact .inr (.inr (.inr ⟨⟨by simp_all, by simp_all, by simp_all⟩, rfl⟩))

@[simp] theorem State.trigOf_slot (s : State) (own : List Sock) : (s.trigOf own).slot = s.cur.slot := rfl
@[simp] theorem State.trigOf_site (s : State) (own : List Sock) : (s.trigOf own).site = s.cur.site := rfl
@[simp] theorem State.trigOf_sock (s : State) (own : List Sock) : (s.trigOf own).sock = s.curSock own := rfl
@[simp] theorem State.trigOf_sel (s : State) (own : List Sock) : (s.trigOf own).sel = s.curSlot.sel.toNat := rfl
@[simp] theorem State.trigOf_from (s : State) (own : List Sock) : (s.trigOf own).from_ = s.cur.from_ := rfl
@[simp] theorem State.trigOf_cyc (s : State) (own : List Sock) : (s.trigOf own).cyc = s.sockCycle s.cur.slot s.cur.site (s.curSock own) := rfl

/-- The socket of a trigger is one of those that have the operation. -/
theorem State.curSock_mem (s : State) {own : List Sock} (h : own ≠ []) : s.curSock own ∈ own := by
  have e : own.headD .ct ∈ own := by cases own <;> simp_all
  unfold State.curSock
  split
  · split
    · simp_all
    · exact e
  · exact e

/-- The socket of an operation that one socket has. -/
@[simp] theorem State.curSock_single (s : State) (q : Sock) : s.curSock [q] = q := by simpa using s.curSock_mem (own := [q]) (by simp)

/-! ### Pipes -/

theorem Tile.pipe_setPipe (t : Tile) {q : Sock} (p : Pipe) (h : q ∈ [Sock.ia, .ib, .ag, .va, .vb, .vc, .sf, .la, .lb, .ep, .gn]) :
    (t.setPipe q p).pipe q = p := by
  simp only [List.mem_cons, List.not_mem_nil, or_false] at h
  rcases h with h | h | h | h | h | h | h | h | h | h | h <;> subst h <;> rfl

/-- A firing leaves the register files, the flags, the landing registers, the tables and the record. -/
theorem Tile.sameRegisters_setPipe (t : Tile) (q : Sock) (p : Pipe) : t.sameRegisters (t.setPipe q p) := by
  cases q <;> exact ⟨rfl, rfl, rfl, rfl, rfl, rfl, rfl, rfl, rfl⟩

theorem Tile.sameRegisters_refl (t : Tile) : t.sameRegisters t := ⟨rfl, rfl, rfl, rfl, rfl, rfl, rfl, rfl, rfl⟩

theorem Tile.sameRegisters_trans {t u v : Tile} (h : t.sameRegisters u) (k : u.sameRegisters v) : t.sameRegisters v := by
  obtain ⟨a1, a2, a3, a4, a5, a6, a7, a8, a9⟩ := h
  obtain ⟨b1, b2, b3, b4, b5, b6, b7, b8, b9⟩ := k
  exact ⟨b1.trans a1, b2.trans a2, b3.trans a3, b4.trans a4, b5.trans a5, b6.trans a6, b7.trans a7, b8.trans a8, b9.trans a9⟩

/-! ### What states have in common -/

theorem State.sameBytes_refl (s : State) : s.sameBytes s := fun _ => rfl
theorem State.sameBytes_of_mem {s t : State} (h : t.mem = s.mem) : s.sameBytes t := fun a => by unfold State.byte; rw [h]
theorem State.sameBytes_trans {s t u : State} (h : s.sameBytes t) (k : t.sameBytes u) : s.sameBytes u := fun a => (k a).trans (h a)
theorem State.sameRegisters_refl (s : State) : s.sameRegisters s := fun _ => Tile.sameRegisters_refl _
theorem State.sameRegisters_of_tiles {s t : State} (h : t.tiles = s.tiles) : s.sameRegisters t := fun k => by
  have : t.tile k = s.tile k := by unfold State.tile; rw [h]
  rw [this]; exact Tile.sameRegisters_refl _
theorem State.sameRegisters_trans {s t u : State} (h : s.sameRegisters t) (k : t.sameRegisters u) : s.sameRegisters u :=
  fun i => Tile.sameRegisters_trans (h i) (k i)
theorem State.sameRegisters_of_tile {s t : State} (h : ∀ k, t.tile k = s.tile k) : s.sameRegisters t := fun k => by
  rw [h k]; exact Tile.sameRegisters_refl _

/-- A change of one tile that keeps its registers keeps all. -/
theorem State.sameRegisters_setTile {s : State} {k : Nat} {t : Tile} (h : (s.tile k).sameRegisters t) : s.sameRegisters (s.setTile k t) := by
  intro j
  rw [State.tile_setTile]
  split
  · subst_vars; exact h
  · exact Tile.sameRegisters_refl _

theorem State.sameRegisters_mapTile {s : State} {k : Nat} {f : Tile → Tile} (h : (s.tile k).sameRegisters (f (s.tile k))) :
    s.sameRegisters (s.mapTile k f) := State.sameRegisters_setTile h

theorem State.tile_congr {s t : State} (h : t.tiles = s.tiles) (k : Nat) : t.tile k = s.tile k := by unfold State.tile; rw [h]

/-! ### The archive, faults -/

theorem State.archiveTile_eq (s : State) (slot site kind code : Nat) (w2 w3 : Word) :
    ∃ d, s.archiveTile slot site kind code w2 w3 = s.setDie (siteDie site) d := ⟨_, rfl⟩
theorem State.archiveUncore_eq (s : State) (die slot kind code : Nat) (w2 w3 : Word) :
    ∃ d, s.archiveUncore die slot kind code w2 w3 = s.setDie die d := ⟨_, rfl⟩

@[simp] theorem State.resetLater_mem (s : State) (die : Nat) : (s.resetLater die).mem = s.mem := by unfold State.resetLater; split <;> rfl
@[simp] theorem State.resetLater_tiles (s : State) (die : Nat) : (s.resetLater die).tiles = s.tiles := by unfold State.resetLater; split <;> rfl

/-- What a fault changes of its tile: its event, its count and its marks. -/
theorem Tile.detect_eq (t : Tile) (e : Event) :
    t.detect e = { t with event := (t.detect e).event, later := (t.detect e).later, stopped := (t.detect e).stopped,
                          stoppedAt := (t.detect e).stoppedAt, wedged := (t.detect e).wedged } := by
  unfold Tile.detect
  by_cases h : (t.stopped || causeRunsOn e.cause) = true
  · simp only [h, if_true]; cases he : t.event <;> first | rfl | (dsimp only; split <;> rfl) | (split <;> rfl)
  · simp only [h, if_false, Bool.false_eq_true]; cases he : t.event <;> first | rfl | (dsimp only; split <;> rfl) | (split <;> rfl)

/-- Everything taking a fault can do: of the tiles only the detecting one changes, in its event, its count and its marks; of the domains only
its own, in the freeze it plans; and the archive of the tile's die. In boot state the die's reset comes after. -/
theorem State.raiseValue_cases (s : State) (slot site : Nat) (o : Origin) (cause : Nat) (value w7 w15 : Word) (copy : List Word) :
    ∃ (d : Die) (t : Tile) (x : Domain), s.raiseValue slot site o cause value w7 w15 copy ∈
        [(s.setTile site t).setDie (siteDie site) d, ((s.setTile site t).setDie (siteDie site) d).resetLater (siteDie site),
          s.setDie (siteDie site) d, (((s.setDie (siteDie site) d).setTile site t).setDomain slot x)] ∧
      t = { s.tile site with event := t.event, later := t.later, stopped := t.stopped, stoppedAt := t.stoppedAt, wedged := t.wedged } ∧
      x = { s.domain slot with plan := x.plan, draining := x.draining, stepUntil := x.stepUntil } := by
  unfold State.raiseValue State.wedge
  dsimp only
  split
  · obtain ⟨d, hd⟩ := State.archiveTile_eq (s.mapTile site fun t => { t with wedged := true }) slot site 0x0F cause 0 0
    refine ⟨d, { s.tile site with wedged := true }, s.domain slot, ?_, rfl, rfl⟩
    rw [hd]
    split <;> simp [State.mapTile]
  · obtain ⟨d, hd⟩ := State.archiveTile_eq s slot site 0x01 cause
      (recordHead (s.eventOf slot site o cause value w7 w15 copy).cause 0 (s.eventOf slot site o cause value w7 w15 copy).slot true
        (s.eventOf slot site o cause value w7 w15 copy).sup (s.eventOf slot site o cause value w7 w15 copy).timed
        (s.eventOf slot site o cause value w7 w15 copy).bundle (s.tile site).user.next) w7
    rw [hd]
    split
    · split
      · exact ⟨d, s.tile site, s.domain slot, by simp, rfl, rfl⟩
      · refine ⟨d, (s.tile site).detect (s.eventOf slot site o cause value w7 w15 copy), (s.domain slot).planDrained ((s.setDie (siteDie site) d).flat slot site) cause, ?_, ?_, ?_⟩
        · simp only [List.mem_cons, List.not_mem_nil, or_false]
          exact .inr (.inr (.inr (by simp [State.mapTile, State.mapDomain])))
        · exact Tile.detect_eq _ _
        · rfl
    · refine ⟨d, (s.tile site).detect (s.eventOf slot site o cause value w7 w15 copy), (s.domain slot).planFault ((s.setDie (siteDie site) d).flat slot site) cause, ?_, ?_, ?_⟩
      · simp only [List.mem_cons, List.not_mem_nil, or_false]
        exact .inr (.inr (.inr (by simp [State.mapTile, State.mapDomain])))
      · exact Tile.detect_eq _ _
      · unfold Domain.planFault; dsimp only; split
        · split <;> rfl
        · rfl

@[simp] theorem State.raiseValue_mem (s : State) (slot site : Nat) (o : Origin) (cause : Nat) (value w7 w15 : Word) (copy : List Word) :
    (s.raiseValue slot site o cause value w7 w15 copy).mem = s.mem := by
  obtain ⟨d, t, x, h, -, -⟩ := State.raiseValue_cases s slot site o cause value w7 w15 copy
  simp only [List.mem_cons, List.not_mem_nil, or_false] at h
  rcases h with h | h | h | h <;> rw [h] <;> simp

@[simp] theorem State.raise_mem (s : State) (slot site : Nat) (o : Origin) (cause : Nat) (w7 w15 : Word) (copy : List Word) :
    (s.raise slot site o cause w7 w15 copy).mem = s.mem := State.raiseValue_mem ..
@[simp] theorem State.raiseBare_mem (s : State) (slot site cause : Nat) (w7 w15 : Word) (copy : List Word) :
    (s.raiseBare slot site cause w7 w15 copy).mem = s.mem := State.raiseValue_mem ..
@[simp] theorem Trig.fault_mem (g : Trig) (s : State) (cause : Nat) (w7 w15 : Word) : (g.fault s cause w7 w15).mem = s.mem :=
  State.raiseValue_mem ..
@[simp] theorem Trig.forbid_mem (g : Trig) (s : State) : (g.forbid s).mem = s.mem := State.raiseValue_mem ..

/-- Taking a fault changes no register. -/
theorem State.raiseValue_sameRegisters (s : State) (slot site : Nat) (o : Origin) (cause : Nat) (value w7 w15 : Word) (copy : List Word) :
    s.sameRegisters (s.raiseValue slot site o cause value w7 w15 copy) := by
  obtain ⟨d, t, x, h, ht, -⟩ := State.raiseValue_cases s slot site o cause value w7 w15 copy
  have hr : (s.tile site).sameRegisters t := by rw [ht]; exact ⟨rfl, rfl, rfl, rfl, rfl, rfl, rfl, rfl, rfl⟩
  simp only [List.mem_cons, List.not_mem_nil, or_false] at h
  rcases h with h | h | h | h <;> rw [h] <;> intro k
  · simpa using State.sameRegisters_setTile hr k
  · rw [State.tile_congr (State.resetLater_tiles _ _)]; simpa using State.sameRegisters_setTile hr k
  · simpa using Tile.sameRegisters_refl _
  · simpa [State.tile_setTile] using State.sameRegisters_setTile hr k

/-! ### Requests and arrivals -/

@[simp] theorem State.postUnit_mem (s : State) (site slot : Nat) (r : UnitRequest) (b : Bool) (w e : List Outstanding) :
    (s.postUnit site slot r b w e).mem = s.mem := by unfold State.postUnit; dsimp only; split <;> rfl

/-- A request is the last of those on their way, for its slot. -/
theorem State.postUnit_requests (s : State) (site slot : Nat) (r : UnitRequest) (b : Bool) (w e : List Outstanding) :
    ∃ m, (s.postUnit site slot r b w e).requests = s.requests ++ [m] ∧ m.site = site ∧ m.slot = slot ∧ m.request = r ∧ m.buffered = b := by
  unfold State.postUnit; dsimp only; split <;> exact ⟨_, rfl, rfl, rfl, rfl, rfl⟩

/-- An announcement is an action to come, and nothing else. -/
theorem State.announce_cases (s : State) (slot : Nat) (f : Beacon → Beacon) : ∃ l, s.announce slot f = { s with agenda := l } := by
  unfold State.announce; dsimp only; split <;> exact ⟨_, rfl⟩

@[simp] theorem State.announce_mem (s : State) (slot : Nat) (f : Beacon → Beacon) : (s.announce slot f).mem = s.mem := by
  obtain ⟨l, h⟩ := s.announce_cases slot f; rw [h]
@[simp] theorem State.announce_tiles (s : State) (slot : Nat) (f : Beacon → Beacon) : (s.announce slot f).tiles = s.tiles := by
  obtain ⟨l, h⟩ := s.announce_cases slot f; rw [h]
@[simp] theorem State.announce_domains (s : State) (slot : Nat) (f : Beacon → Beacon) : (s.announce slot f).domains = s.domains := by
  obtain ⟨l, h⟩ := s.announce_cases slot f; rw [h]

@[simp] theorem State.notePier_mem (s : State) (slot : Nat) : (s.notePier slot).mem = s.mem := by
  unfold State.notePier; dsimp only; split <;> simp
@[simp] theorem State.notePier_tiles (s : State) (slot : Nat) : (s.notePier slot).tiles = s.tiles := by
  unfold State.notePier; dsimp only; split <;> simp

/-! ### What reads only the tiles, or only the domains -/

theorem State.domain_congr {s t : State} (h : t.domains = s.domains) (k : Nat) : t.domain k = s.domain k := by unfold State.domain; rw [h]
@[simp] theorem State.postUnit_domains (s : State) (site slot : Nat) (r : UnitRequest) (b : Bool) (w e : List Outstanding) :
    (s.postUnit site slot r b w e).domains = s.domains := by
  unfold State.postUnit; dsimp only; split <;> rfl
@[simp] theorem State.postUnit_domain (s : State) (site slot : Nat) (r : UnitRequest) (b : Bool) (w e : List Outstanding) (k : Nat) :
    (s.postUnit site slot r b w e).domain k = s.domain k := State.domain_congr (State.postUnit_domains ..) k
@[simp] theorem State.postUnit_tile (s : State) (site slot : Nat) (r : UnitRequest) (w e : List Outstanding) (k : Nat) :
    (s.postUnit site slot r false w e).tile k = s.tile k := State.tile_congr rfl k
@[simp] theorem State.notePier_tile (s : State) (slot k : Nat) : (s.notePier slot).tile k = s.tile k :=
  State.tile_congr (State.notePier_tiles ..) k

/-! ### Triggers that do not fire -/

/-- A trigger of a data-locked socket waits there (spec/04 R70). -/
theorem State.trigger_waits {s : State} {own : List Sock} {q : Sock} (hq : Sock.ofNum s.curSlot.sock.toNat = some q) (ho : q ∈ own)
    (hg : s.cur.pre.guard s.curSlot.guard = true) (hf : s.forbidden s.cur.slot s.cur.site q s.curSlot.sel.toNat = false)
    (hl : s.cur.pre.locked q = true) (fire : Trig → State → State) :
    s.trigger own fire = s.mapTile s.cur.site fun t => t.wait q ⟨s.curSlot.sel.toNat, s.curData q s.curSlot.sel.toNat, s.cur.from_⟩ := by
  have e : s.curSock own = q := by simp [State.curSock, hq, ho]
  simp [State.trigger, State.trigOf, e, hg, hf, hl]

/-- A trigger its context must not issue is a privilege fault (spec/21 R374, spec/23 R403). -/
theorem State.trigger_forbidden {s : State} {own : List Sock} {q : Sock} (hq : Sock.ofNum s.curSlot.sock.toNat = some q) (ho : q ∈ own)
    (hg : s.cur.pre.guard s.curSlot.guard = true) (hf : s.forbidden s.cur.slot s.cur.site q s.curSlot.sel.toNat = true)
    (fire : Trig → State → State) :
    s.trigger own fire = s.raise s.cur.slot s.cur.site s.cur.from_ 0x200D (s.curData q s.curSlot.sel.toNat).scalar 0 [] := by
  have e : s.curSock own = q := by simp [State.curSock, hq, ho]
  simp [State.trigger, State.trigOf, e, hg, hf, Trig.forbid, Trig.fault, Trig.b]

theorem State.triggerNow_forbidden {s : State} {own : List Sock} {q : Sock} (hq : Sock.ofNum s.curSlot.sock.toNat = some q) (ho : q ∈ own)
    (hg : s.cur.pre.guard s.curSlot.guard = true) (hf : s.forbidden s.cur.slot s.cur.site q s.curSlot.sel.toNat = true)
    (fire : Trig → State → State) :
    s.triggerNow own fire = s.raise s.cur.slot s.cur.site s.cur.from_ 0x200D (s.curData q s.curSlot.sel.toNat).scalar 0 [] := by
  have e : s.curSock own = q := by simp [State.curSock, hq, ho]
  simp [State.triggerNow, State.trigOf, e, hg, hf, Trig.forbid, Trig.fault, Trig.b]

/-! ### The integer sockets and the address generator -/

/-- An operation of IA or IB that is no division: its value lands after its latency (spec/04 R72, R74). -/
theorem IntOp.issue_lands {op : IntOp} (hd : op.isDiv = false) {s : State} (h : s.firing [.ia, .ib]) :
    let g := s.trigOf [.ia, .ib]
    let x := (s.tile g.site).cap.int g.sock
    op.issue s = s.mapTile g.site fun t => t.firePipe g.sock (g.cyc + 1) ⟨g.cyc + op.latency, some (.s (op.eval x.o1 x.o2 g.b)), none, 0, false, none⟩ := by
  dsimp only
  rw [IntOp.issue, State.trigger_fires h]
  have hm : (s.trigOf [.ia, .ib]).sock ∈ [Sock.ia, .ib] := State.curSock_mem s (by simp)
  generalize s.trigOf [.ia, .ib] = g at *
  simp only [IntOp.fire, State.mapTile, IntOp.fireTile, hd, IntOp.result]
  simp at hm
  rcases hm with hm | hm <;> simp [hm] <;> rfl

/-- A division: its value lands after 34 cycles, for which the divider is held (spec/04 R73). -/
theorem IntOp.issue_divides {op : IntOp} (hd : op.isDiv = true) {s : State} (h : s.firing [.ia, .ib]) :
    let g := s.trigOf [.ia, .ib]
    let x := (s.tile g.site).cap.int g.sock
    op.issue s = s.mapTile g.site fun t =>
      { t with cap := t.cap.setInt g.sock { t.cap.int g.sock with divReadyAt := g.cyc + 34 } }.firePipe g.sock (g.cyc + 1)
        ⟨g.cyc + 34, some (.s (op.eval x.o1 x.o2 g.b)), none, 0, false, none⟩ := by
  dsimp only
  rw [IntOp.issue, State.trigger_fires h]
  generalize s.trigOf [.ia, .ib] = g at *
  simp only [IntOp.fire, State.mapTile, IntOp.fireTile, hd, IntOp.result, IntOp.latency, if_true]

/-- An operation of AG but `lea`: its value lands a cycle later and its stream takes its new state (spec/04 R75 to R78). -/
theorem AgOp.issue_lands {op : AgOp} (hl : op ≠ .lea) {s : State} (h : s.firing [.ag]) :
    let g := s.trigOf [.ag]
    let x := (s.tile g.site).cap.ag
    op.issue s = s.mapTile g.site fun t => { t with cap := { t.cap with ag := op.update x g.b } }.firePipe .ag (g.cyc + 1)
      ⟨g.cyc + 1, some (.s (op.value x g.b s g.slot g.site)), none, 0, false, none⟩ := by
  dsimp only
  rw [AgOp.issue, State.trigger_fires h]
  generalize s.trigOf [.ag] = g at *
  simp only [AgOp.fire, AgOp.complete, if_neg hl, State.mapTile]

end Sys2Proof.Machine
end

