-- ==== Sys2Proof/Laws/PerInstr.lean ====
section
/-!
SUPPORT. The family of statements made for every constructor of Instr: an instruction is a portable word, a move trigger or an
event, and never two of them.
-/
namespace Sys2Proof.Laws.Encodes

/-- An instruction has at most one of the two encodings: a portable word or a trigger (spec/02 R34, spec/18 R342). -/
def Statement (i : Instr) : Prop := encodePortable i = none ∨ encodeTrigger i = none

theorem bundleIssue (site : Nat) : Statement (.bundleIssue site) := .inl rfl
theorem idleRun (site : Nat) : Statement (.idleRun site) := .inl rfl
theorem holdWaitIssue (site : Nat) : Statement (.holdWaitIssue site) := .inl rfl
theorem dataLockedFire (site : Nat) (sock : Sock) : Statement (.dataLockedFire site sock) := .inl rfl
theorem resultLanding (site : Nat) (sock : Sock) : Statement (.resultLanding site sock) := .inl rfl
theorem takenBranchRedirect (site : Nat) : Statement (.takenBranchRedirect site) := .inl rfl
theorem hardwareLoopEnd (site : Nat) : Statement (.hardwareLoopEnd site) := .inl rfl
theorem forcedRealignment (slot : Nat) : Statement (.forcedRealignment slot) := .inl rfl
theorem userInterruptTaken (site : Nat) : Statement (.userInterruptTaken site) := .inl rfl
theorem accessPerform (site id : Nat) : Statement (.accessPerform site id) := .inl rfl
theorem reachNetworkHop (slot id : Nat) : Statement (.reachNetworkHop slot id) := .inl rfl
theorem tableWritePerform (site id : Nat) : Statement (.tableWritePerform site id) := .inl rfl
theorem mxLineFetch (site line : Nat) : Statement (.mxLineFetch site line) := .inl rfl
theorem mxSlotReady (site : Nat) : Statement (.mxSlotReady site) := .inl rfl
theorem epRowWrite (site row : Nat) : Statement (.epRowWrite site row) := .inl rfl
theorem meshLinkHop (slot id : Nat) : Statement (.meshLinkHop slot id) := .inl rfl
theorem meshItemLanding (slot id : Nat) : Statement (.meshItemLanding slot id) := .inl rfl
theorem depositPerform (slot id : Nat) : Statement (.depositPerform slot id) := .inl rfl
theorem sendBufferRelease (site : Nat) : Statement (.sendBufferRelease site) := .inl rfl
theorem catwalkMessageArrival (id : Nat) : Statement (.catwalkMessageArrival id) := .inl rfl
theorem installMessage (id : Nat) : Statement (.installMessage id) := .inl rfl
theorem dmCommandAcceptance (slot id : Nat) : Statement (.dmCommandAcceptance slot id) := .inl rfl
theorem timedCommandStart (slot id : Nat) : Statement (.timedCommandStart slot id) := .inl rfl
theorem windowAllocation (slot stack : Nat) : Statement (.windowAllocation slot stack) := .inl rfl
theorem hbmSectorPerform (slot id sector : Nat) : Statement (.hbmSectorPerform slot id sector) := .inl rfl
theorem engineSramLinePerform (slot id line : Nat) : Statement (.engineSramLinePerform slot id line) := .inl rfl
theorem looseReplyLanding (site : Nat) : Statement (.looseReplyLanding site) := .inl rfl
theorem ucopyCompletion (site xfer : Nat) : Statement (.ucopyCompletion site xfer) := .inl rfl
theorem pierRelease (slot : Nat) : Statement (.pierRelease slot) := .inl rfl
theorem pierWatchdogExpiry (slot : Nat) : Statement (.pierWatchdogExpiry slot) := .inl rfl
theorem quantumMark (slot : Nat) (mark : DeskMark) : Statement (.quantumMark slot mark) := .inl rfl
theorem deskStep (slot : Nat) : Statement (.deskStep slot) := .inl rfl
theorem freeze (slot : Nat) : Statement (.freeze slot) := .inl rfl
theorem resumption (slot : Nat) : Statement (.resumption slot) := .inl rfl
theorem hostFirePortWrite (slot : Nat) (word : Word) : Statement (.hostFirePortWrite slot word) := .inl rfl
theorem hostCancelPortWrite (slot : Nat) (word : Word) : Statement (.hostCancelPortWrite slot word) := .inl rfl
theorem armingEntryWrite (slot tag index : Nat) (cover : Cover) (word : Word) : Statement (.armingEntryWrite slot tag index cover word) := .inl rfl
theorem hostRegisterWrite (offset : Nat) (cover : Cover) (word : Word) : Statement (.hostRegisterWrite offset cover word) := .inl rfl
theorem mmcMailboxCommand (cmd : MailboxCommand) : Statement (.mmcMailboxCommand cmd) := .inl rfl
theorem launchFire (slot tag : Nat) (source : FireSource) : Statement (.launchFire slot tag source) := .inl rfl
theorem entryArm (slot tag : Nat) (image : List Word) (reply : Option Nat) : Statement (.entryArm slot tag image reply) := .inl rfl
theorem counterReadRequest (slot : Nat) (handle : Word) (site : Nat) : Statement (.counterReadRequest slot handle site) := .inl rfl
theorem counterWriteRequest (slot : Nat) (handle word : Word) (site : Nat) : Statement (.counterWriteRequest slot handle word site) := .inl rfl
theorem cancel (slot : Nat) (handle : Word) (reply : Option Nat) : Statement (.cancel slot handle reply) := .inl rfl
theorem cancelDrainComplete (slot : Nat) : Statement (.cancelDrainComplete slot) := .inl rfl
theorem launchSelection (slot : Nat) : Statement (.launchSelection slot) := .inl rfl
theorem launchStart (slot : Nat) : Statement (.launchStart slot) := .inl rfl
theorem launchCompletion (slot : Nat) : Statement (.launchCompletion slot) := .inl rfl
theorem counterZeroPropagation (slot : Nat) (handle : Word) : Statement (.counterZeroPropagation slot handle) := .inl rfl
theorem priorityPromotion (slot tag : Nat) : Statement (.priorityPromotion slot tag) := .inl rfl
theorem preemption (slot : Nat) : Statement (.preemption slot) := .inl rfl
theorem stopForInspection (slot : Nat) (reply : Option Nat) : Statement (.stopForInspection slot reply) := .inl rfl
theorem preemptStop (slot : Nat) (reply : Option Nat) : Statement (.preemptStop slot reply) := .inl rfl
theorem preemptionDrainEnd (slot : Nat) : Statement (.preemptionDrainEnd slot) := .inl rfl
theorem saveComplete (slot : Nat) : Statement (.saveComplete slot) := .inl rfl
theorem preemptedResume (slot : Nat) : Statement (.preemptedResume slot) := .inl rfl
theorem debugHalt (slot : Nat) (reply : Option Nat) : Statement (.debugHalt slot reply) := .inl rfl
theorem debugStep (slot n : Nat) (reply : Option Nat) : Statement (.debugStep slot n reply) := .inl rfl
theorem debugStepExpiry (slot : Nat) : Statement (.debugStepExpiry slot) := .inl rfl
theorem debugRelease (slot : Nat) (reply : Option Nat) : Statement (.debugRelease slot reply) := .inl rfl
theorem haltGroupHalt (site : Nat) : Statement (.haltGroupHalt site) := .inl rfl
theorem throttleChange (slot : Nat) : Statement (.throttleChange slot) := .inl rfl
theorem fabricScheduleLoad (slot port : Nat) (schedule : PortSchedule) : Statement (.fabricScheduleLoad slot port schedule) := .inl rfl
theorem fabricFrameSend (slot port : Nat) : Statement (.fabricFrameSend slot port) := .inl rfl
theorem fabricFrameReceive (slot port : Nat) (mark : FrameMark) (payload : List Byte) :
    Statement (.fabricFrameReceive slot port mark payload) := .inl rfl
theorem frameRetry (slot port : Nat) (retry : Retry) : Statement (.frameRetry slot port retry) := .inl rfl
theorem fabricHoldAnnounce (hold : HoldAnnouncement) : Statement (.fabricHoldAnnounce hold) := .inl rfl
theorem fabricHold (slot : Nat) : Statement (.fabricHold slot) := .inl rfl
theorem fabricHoldEnd (slot : Nat) : Statement (.fabricHoldEnd slot) := .inl rfl
theorem timeBeacon (slot : Nat) (beacon : Beacon) : Statement (.timeBeacon slot beacon) := .inl rfl
theorem launchMessageComplete (slot tag : Nat) : Statement (.launchMessageComplete slot tag) := .inl rfl
theorem collectiveCombine (slot id : Nat) : Statement (.collectiveCombine slot id) := .inl rfl
theorem partitionConfigure (index : Nat) (word : Word) : Statement (.partitionConfigure index word) := .inl rfl
theorem islandScrub (island : Nat) : Statement (.islandScrub island) := .inl rfl
theorem keySlotWrite (index : Nat) (key : BitVec 512) : Statement (.keySlotWrite index key) := .inl rfl
theorem lifecycleAdvance (state : Nat) (command signature : List Byte) : Statement (.lifecycleAdvance state command signature) := .inl rfl
theorem debugUnlock (token signature : List Byte) : Statement (.debugUnlock token signature) := .inl rfl
theorem getVersion (path : SpdmPath) : Statement (.getVersion path) := .inl rfl
theorem getCapabilities (path : SpdmPath) : Statement (.getCapabilities path) := .inl rfl
theorem negotiateAlgorithms (path : SpdmPath) : Statement (.negotiateAlgorithms path) := .inl rfl
theorem getDigests (path : SpdmPath) : Statement (.getDigests path) := .inl rfl
theorem getCertificate (path : SpdmPath) (certSlot offset length : Nat) : Statement (.getCertificate path certSlot offset length) := .inl rfl
theorem challenge (path : SpdmPath) (nonce : List Byte) : Statement (.challenge path nonce) := .inl rfl
theorem getMeasurements (path : SpdmPath) (index : Nat) (nonce : List Byte) : Statement (.getMeasurements path index nonce) := .inl rfl
theorem powerOnVerification (image : FirmwareImage) (bytes signature : List Byte) :
    Statement (.powerOnVerification image bytes signature) := .inl rfl
theorem firmwareUpdateWrite (offset : Nat) (cover : Cover) (word : Word) : Statement (.firmwareUpdateWrite offset cover word) := .inl rfl
theorem coreReset (die : Nat) : Statement (.coreReset die) := .inl rfl
theorem uncoreReset (die : Nat) : Statement (.uncoreReset die) := .inl rfl
theorem thermalCritical (stack temperature : Nat) : Statement (.thermalCritical stack temperature) := .inl rfl
theorem thermalRecovery (stack temperature : Nat) : Statement (.thermalRecovery stack temperature) := .inl rfl
theorem linkRetrain (link : Link) (trained : Option Nat) : Statement (.linkRetrain link trained) := .inl rfl
theorem patrolScrub (die : Nat) (kind : StoreKind) (address : Nat) : Statement (.patrolScrub die kind address) := .inl rfl
theorem archiveEntryWrite (die : Nat) : Statement (.archiveEntryWrite die) := .inl rfl
theorem reducedServiceStart : Statement (.reducedServiceStart) := .inl rfl
theorem reducedServiceEnd : Statement (.reducedServiceEnd) := .inl rfl
theorem bootStateEntry (die : Nat) : Statement (.bootStateEntry die) := .inl rfl
theorem bootStateEnd (die : Nat) : Statement (.bootStateEnd die) := .inl rfl
theorem objectLoad (slot : Nat) (place : Placement) (file : List Byte) : Statement (.objectLoad slot place file) := .inl rfl
theorem domainFormation (slot : Nat) (spec : DomainSpec) : Statement (.domainFormation slot spec) := .inl rfl
theorem standbyPowerRemoval (die : Nat) : Statement (.standbyPowerRemoval die) := .inl rfl
theorem rosnilAdd (d : BitVec 4) (a : BitVec 4) (b : BitVec 4) : Statement (.rosnilAdd d a b) := .inr rfl
theorem rosnilSub (d : BitVec 4) (a : BitVec 4) (b : BitVec 4) : Statement (.rosnilSub d a b) := .inr rfl
theorem rosnilAnd (d : BitVec 4) (a : BitVec 4) (b : BitVec 4) : Statement (.rosnilAnd d a b) := .inr rfl
theorem rosnilOr (d : BitVec 4) (a : BitVec 4) (b : BitVec 4) : Statement (.rosnilOr d a b) := .inr rfl
theorem rosnilXor (d : BitVec 4) (a : BitVec 4) (b : BitVec 4) : Statement (.rosnilXor d a b) := .inr rfl
theorem rosnilShl (d : BitVec 4) (a : BitVec 4) (b : BitVec 4) : Statement (.rosnilShl d a b) := .inr rfl
theorem rosnilShr (d : BitVec 4) (a : BitVec 4) (b : BitVec 4) : Statement (.rosnilShr d a b) := .inr rfl
theorem rosnilSra (d : BitVec 4) (a : BitVec 4) (b : BitVec 4) : Statement (.rosnilSra d a b) := .inr rfl
theorem rosnilMul (d : BitVec 4) (a : BitVec 4) (b : BitVec 4) : Statement (.rosnilMul d a b) := .inr rfl
theorem rosnilSlt (d : BitVec 4) (a : BitVec 4) (b : BitVec 4) : Statement (.rosnilSlt d a b) := .inr rfl
theorem rosnilSltu (d : BitVec 4) (a : BitVec 4) (b : BitVec 4) : Statement (.rosnilSltu d a b) := .inr rfl
theorem rosnilAddi (d : BitVec 4) (a : BitVec 4) (i : BitVec 18) : Statement (.rosnilAddi d a i) := .inr rfl
theorem rosnilLi (d : BitVec 4) (i : BitVec 18) : Statement (.rosnilLi d i) := .inr rfl
theorem rosnilLio (d : BitVec 4) (a : BitVec 4) (i : BitVec 18) : Statement (.rosnilLio d a i) := .inr rfl
theorem rosnilLd (d : BitVec 4) (a : BitVec 4) (i : BitVec 18) : Statement (.rosnilLd d a i) := .inr rfl
theorem rosnilSt (a : BitVec 4) (b : BitVec 4) : Statement (.rosnilSt a b) := .inr rfl
theorem rosnilBne (a : BitVec 4) (b : BitVec 4) (o : BitVec 18) : Statement (.rosnilBne a b o) := .inr rfl
theorem rosnilBlt (a : BitVec 4) (b : BitVec 4) (o : BitVec 18) : Statement (.rosnilBlt a b o) := .inr rfl
theorem rosnilJ (o : BitVec 18) : Statement (.rosnilJ o) := .inr rfl
theorem rosnilHalt : Statement (.rosnilHalt) := .inr rfl
theorem rosnilGvl (d : BitVec 4) : Statement (.rosnilGvl d) := .inr rfl
theorem rosnilVld (d : BitVec 4) (a : BitVec 4) (k : BitVec 2) (i : BitVec 16) : Statement (.rosnilVld d a k i) := .inr rfl
theorem rosnilVst (a : BitVec 4) (b : BitVec 4) (k : BitVec 2) : Statement (.rosnilVst a b k) := .inr rfl
theorem rosnilVfadd (d : BitVec 4) (a : BitVec 4) (b : BitVec 4) (k : BitVec 2) : Statement (.rosnilVfadd d a b k) := .inr rfl
theorem rosnilVfsub (d : BitVec 4) (a : BitVec 4) (b : BitVec 4) (k : BitVec 2) : Statement (.rosnilVfsub d a b k) := .inr rfl
theorem rosnilVfmul (d : BitVec 4) (a : BitVec 4) (b : BitVec 4) (k : BitVec 2) : Statement (.rosnilVfmul d a b k) := .inr rfl
theorem rosnilVfma (d : BitVec 4) (a : BitVec 4) (b : BitVec 4) (k : BitVec 2) : Statement (.rosnilVfma d a b k) := .inr rfl
theorem rosnilVfmax (d : BitVec 4) (a : BitVec 4) (b : BitVec 4) (k : BitVec 2) : Statement (.rosnilVfmax d a b k) := .inr rfl
theorem rosnilVfmin (d : BitVec 4) (a : BitVec 4) (b : BitVec 4) (k : BitVec 2) : Statement (.rosnilVfmin d a b k) := .inr rfl
theorem rosnilVwid (d : BitVec 4) (b : BitVec 4) (k : BitVec 2) (h : BitVec 2) (s : BitVec 2) : Statement (.rosnilVwid d b k h s) := .inr rfl
theorem rosnilVrsum (d : BitVec 4) (b : BitVec 4) (k : BitVec 2) : Statement (.rosnilVrsum d b k) := .inr rfl
theorem rosnilVbcast (d : BitVec 4) (a : BitVec 4) : Statement (.rosnilVbcast d a) := .inr rfl
theorem rosnilVwhile (d : BitVec 2) (a : BitVec 4) (b : BitVec 4) : Statement (.rosnilVwhile d a b) := .inr rfl
theorem rosnilVmovs (d : BitVec 4) (b : BitVec 4) : Statement (.rosnilVmovs d b) := .inr rfl
theorem rosnilMtile (a : BitVec 4) (b : BitVec 4) (c : BitVec 4) (K : BitVec 8) (f : BitVec 2) : Statement (.rosnilMtile a b c K f) := .inr rfl
theorem rosnilMtilea (a : BitVec 4) (b : BitVec 4) (c : BitVec 4) (K : BitVec 8) (f : BitVec 2) : Statement (.rosnilMtilea a b c K f) := .inr rfl
theorem rosnilMdrain (a : BitVec 4) : Statement (.rosnilMdrain a) := .inr rfl
theorem rosnilGkey (a : BitVec 4) : Statement (.rosnilGkey a) := .inr rfl
theorem rosnilGsm (a : BitVec 4) (b : BitVec 4) : Statement (.rosnilGsm a b) := .inr rfl
theorem rosnilGdraw (d : BitVec 4) (a : BitVec 4) : Statement (.rosnilGdraw d a) := .inr rfl
theorem ctJmp : Statement (.ctJmp) := .inl rfl
theorem ctJmpa : Statement (.ctJmpa) := .inl rfl
theorem ctJmpx : Statement (.ctJmpx) := .inl rfl
theorem ctCall : Statement (.ctCall) := .inl rfl
theorem ctCalla : Statement (.ctCalla) := .inl rfl
theorem ctRet : Statement (.ctRet) := .inl rfl
theorem ctLoop : Statement (.ctLoop) := .inl rfl
theorem ctLbrk : Statement (.ctLbrk) := .inl rfl
theorem ctMode : Statement (.ctMode) := .inl rfl
theorem ctLoose : Statement (.ctLoose) := .inl rfl
theorem ctPier : Statement (.ctPier) := .inl rfl
theorem ctRealign : Statement (.ctRealign) := .inl rfl
theorem ctFence : Statement (.ctFence) := .inl rfl
theorem ctHalt : Statement (.ctHalt) := .inl rfl
theorem ctBkpt : Statement (.ctBkpt) := .inl rfl
theorem ctEcall : Statement (.ctEcall) := .inl rfl
theorem ctUiret : Statement (.ctUiret) := .inl rfl
theorem ctUimask : Statement (.ctUimask) := .inl rfl
theorem tmAt : Statement (.tmAt) := .inl rfl
theorem tmAtmin : Statement (.tmAtmin) := .inl rfl
theorem tmAtmax : Statement (.tmAtmax) := .inl rfl
theorem tmSnap : Statement (.tmSnap) := .inl rfl
theorem iaAdd : Statement (.iaAdd) := .inl rfl
theorem iaSub : Statement (.iaSub) := .inl rfl
theorem iaAnd : Statement (.iaAnd) := .inl rfl
theorem iaOr : Statement (.iaOr) := .inl rfl
theorem iaXor : Statement (.iaXor) := .inl rfl
theorem iaShl : Statement (.iaShl) := .inl rfl
theorem iaShr : Statement (.iaShr) := .inl rfl
theorem iaSra : Statement (.iaSra) := .inl rfl
theorem iaMin : Statement (.iaMin) := .inl rfl
theorem iaMax : Statement (.iaMax) := .inl rfl
theorem iaMinu : Statement (.iaMinu) := .inl rfl
theorem iaMaxu : Statement (.iaMaxu) := .inl rfl
theorem iaAdds : Statement (.iaAdds) := .inl rfl
theorem iaSubs : Statement (.iaSubs) := .inl rfl
theorem iaAddus : Statement (.iaAddus) := .inl rfl
theorem iaSubus : Statement (.iaSubus) := .inl rfl
theorem iaMul : Statement (.iaMul) := .inl rfl
theorem iaMulh : Statement (.iaMulh) := .inl rfl
theorem iaMulhu : Statement (.iaMulhu) := .inl rfl
theorem iaDiv : Statement (.iaDiv) := .inl rfl
theorem iaDivu : Statement (.iaDivu) := .inl rfl
theorem iaRem : Statement (.iaRem) := .inl rfl
theorem iaRemu : Statement (.iaRemu) := .inl rfl
theorem iaCeq : Statement (.iaCeq) := .inl rfl
theorem iaCne : Statement (.iaCne) := .inl rfl
theorem iaClt : Statement (.iaClt) := .inl rfl
theorem iaCltu : Statement (.iaCltu) := .inl rfl
theorem iaClz : Statement (.iaClz) := .inl rfl
theorem iaPop : Statement (.iaPop) := .inl rfl
theorem iaExt : Statement (.iaExt) := .inl rfl
theorem agInc : Statement (.agInc) := .inl rfl
theorem agMod : Statement (.agMod) := .inl rfl
theorem agBrev : Statement (.agBrev) := .inl rfl
theorem agCirc : Statement (.agCirc) := .inl rfl
theorem agMkptr : Statement (.agMkptr) := .inl rfl
theorem agMkcl : Statement (.agMkcl) := .inl rfl
theorem agMkdom : Statement (.agMkdom) := .inl rfl
theorem agCoord : Statement (.agCoord) := .inl rfl
theorem agSetb : Statement (.agSetb) := .inl rfl
theorem agSets : Statement (.agSets) := .inl rfl
theorem agSetl : Statement (.agSetl) := .inl rfl
theorem agLea : Statement (.agLea) := .inl rfl
theorem laLd8 : Statement (.laLd8) := .inl rfl
theorem laLd16 : Statement (.laLd16) := .inl rfl
theorem laLd32 : Statement (.laLd32) := .inl rfl
theorem laLd64 : Statement (.laLd64) := .inl rfl
theorem laLdv : Statement (.laLdv) := .inl rfl
theorem laLdvs : Statement (.laLdvs) := .inl rfl
theorem laLdvx : Statement (.laLdvx) := .inl rfl
theorem laSt8 : Statement (.laSt8) := .inl rfl
theorem laSt16 : Statement (.laSt16) := .inl rfl
theorem laSt32 : Statement (.laSt32) := .inl rfl
theorem laSt64 : Statement (.laSt64) := .inl rfl
theorem laStv : Statement (.laStv) := .inl rfl
theorem laStvs : Statement (.laStvs) := .inl rfl
theorem laStvx : Statement (.laStvx) := .inl rfl
theorem laAmoadd : Statement (.laAmoadd) := .inl rfl
theorem laAmomin : Statement (.laAmomin) := .inl rfl
theorem laAmomax : Statement (.laAmomax) := .inl rfl
theorem laAmoswap : Statement (.laAmoswap) := .inl rfl
theorem laAmocas : Statement (.laAmocas) := .inl rfl
theorem laTblw : Statement (.laTblw) := .inl rfl
theorem vaFadd : Statement (.vaFadd) := .inl rfl
theorem vaFsub : Statement (.vaFsub) := .inl rfl
theorem vaFmul : Statement (.vaFmul) := .inl rfl
theorem vaFfma : Statement (.vaFfma) := .inl rfl
theorem vaFfms : Statement (.vaFfms) := .inl rfl
theorem vaFmin : Statement (.vaFmin) := .inl rfl
theorem vaFmax : Statement (.vaFmax) := .inl rfl
theorem vaFabs : Statement (.vaFabs) := .inl rfl
theorem vaFneg : Statement (.vaFneg) := .inl rfl
theorem vaFceq : Statement (.vaFceq) := .inl rfl
theorem vaFclt : Statement (.vaFclt) := .inl rfl
theorem vaFcle : Statement (.vaFcle) := .inl rfl
theorem vaFcun : Statement (.vaFcun) := .inl rfl
theorem vaIadd : Statement (.vaIadd) := .inl rfl
theorem vaIsub : Statement (.vaIsub) := .inl rfl
theorem vaImul : Statement (.vaImul) := .inl rfl
theorem vaImulh : Statement (.vaImulh) := .inl rfl
theorem vaImin : Statement (.vaImin) := .inl rfl
theorem vaImax : Statement (.vaImax) := .inl rfl
theorem vaIminu : Statement (.vaIminu) := .inl rfl
theorem vaImaxu : Statement (.vaImaxu) := .inl rfl
theorem vaIadds : Statement (.vaIadds) := .inl rfl
theorem vaIsubs : Statement (.vaIsubs) := .inl rfl
theorem vaIaddus : Statement (.vaIaddus) := .inl rfl
theorem vaIsubus : Statement (.vaIsubus) := .inl rfl
theorem vaIand : Statement (.vaIand) := .inl rfl
theorem vaIor : Statement (.vaIor) := .inl rfl
theorem vaIxor : Statement (.vaIxor) := .inl rfl
theorem vaIshl : Statement (.vaIshl) := .inl rfl
theorem vaIshr : Statement (.vaIshr) := .inl rfl
theorem vaIsra : Statement (.vaIsra) := .inl rfl
theorem vaIceq : Statement (.vaIceq) := .inl rfl
theorem vaIclt : Statement (.vaIclt) := .inl rfl
theorem vaIcltu : Statement (.vaIcltu) := .inl rfl
theorem vaSel : Statement (.vaSel) := .inl rfl
theorem vaMrg : Statement (.vaMrg) := .inl rfl
theorem vaCvt : Statement (.vaCvt) := .inl rfl
theorem vaDec : Statement (.vaDec) := .inl rfl
theorem vaEnc : Statement (.vaEnc) := .inl rfl
theorem vaAmax : Statement (.vaAmax) := .inl rfl
theorem vaQscale : Statement (.vaQscale) := .inl rfl
theorem vaRsum : Statement (.vaRsum) := .inl rfl
theorem vaPerm : Statement (.vaPerm) := .inl rfl
theorem vaBcast : Statement (.vaBcast) := .inl rfl
theorem vaShuf : Statement (.vaShuf) := .inl rfl
theorem vaIota : Statement (.vaIota) := .inl rfl
theorem sfExp2 : Statement (.sfExp2) := .inl rfl
theorem sfLog2 : Statement (.sfLog2) := .inl rfl
theorem sfExp : Statement (.sfExp) := .inl rfl
theorem sfRcp : Statement (.sfRcp) := .inl rfl
theorem sfRsqrt : Statement (.sfRsqrt) := .inl rfl
theorem sfSqrt : Statement (.sfSqrt) := .inl rfl
theorem sfTanh : Statement (.sfTanh) := .inl rfl
theorem sfSigm : Statement (.sfSigm) := .inl rfl
theorem sfSin : Statement (.sfSin) := .inl rfl
theorem sfCos : Statement (.sfCos) := .inl rfl
theorem mxMm : Statement (.mxMm) := .inl rfl
theorem mxMma : Statement (.mxMma) := .inl rfl
theorem mxMmt : Statement (.mxMmt) := .inl rfl
theorem mxMmta : Statement (.mxMmta) := .inl rfl
theorem mxMmb : Statement (.mxMmb) := .inl rfl
theorem mxMmba : Statement (.mxMmba) := .inl rfl
theorem mxMmg : Statement (.mxMmg) := .inl rfl
theorem mxMmga : Statement (.mxMmga) := .inl rfl
theorem mxMmgb : Statement (.mxMmgb) := .inl rfl
theorem mxMmgba : Statement (.mxMmgba) := .inl rfl
theorem mxMmgt : Statement (.mxMmgt) := .inl rfl
theorem mxMmgta : Statement (.mxMmgta) := .inl rfl
theorem mxMv : Statement (.mxMv) := .inl rfl
theorem mxMva : Statement (.mxMva) := .inl rfl
theorem mxOuter : Statement (.mxOuter) := .inl rfl
theorem mxOutera : Statement (.mxOutera) := .inl rfl
theorem mxPgRoutine : Statement (.mxPgRoutine) := .inl rfl
theorem mxCalx : Statement (.mxCalx) := .inl rfl
theorem mxRhead : Statement (.mxRhead) := .inl rfl
theorem mxRtail : Statement (.mxRtail) := .inl rfl
theorem mxClr : Statement (.mxClr) := .inl rfl
theorem mxMread : Statement (.mxMread) := .inl rfl
theorem mxMwrite : Statement (.mxMwrite) := .inl rfl
theorem epDrain : Statement (.epDrain) := .inl rfl
theorem epDrtr : Statement (.epDrtr) := .inl rfl
theorem epDrsum : Statement (.epDrsum) := .inl rfl
theorem epDrnet : Statement (.epDrnet) := .inl rfl
theorem epDrrow : Statement (.epDrrow) := .inl rfl
theorem epDrop : Statement (.epDrop) := .inl rfl
theorem gnKey : Statement (.gnKey) := .inl rfl
theorem gnStream : Statement (.gnStream) := .inl rfl
theorem gnMember : Statement (.gnMember) := .inl rfl
theorem gnDraw : Statement (.gnDraw) := .inl rfl
theorem gnRegen : Statement (.gnRegen) := .inl rfl
theorem gnBits : Statement (.gnBits) := .inl rfl
theorem gnNext : Statement (.gnNext) := .inl rfl
theorem nsSends : Statement (.nsSends) := .inl rfl
theorem nsSend : Statement (.nsSend) := .inl rfl
theorem nsSendv : Statement (.nsSendv) := .inl rfl
theorem nsDep : Statement (.nsDep) := .inl rfl
theorem nsDepv : Statement (.nsDepv) := .inl rfl
theorem nsFwd : Statement (.nsFwd) := .inl rfl
theorem nsTag : Statement (.nsTag) := .inl rfl
theorem nsLclr : Statement (.nsLclr) := .inl rfl
theorem svMsg : Statement (.svMsg) := .inl rfl
theorem svMcast : Statement (.svMcast) := .inl rfl
theorem svQset : Statement (.svQset) := .inl rfl
theorem svQpop : Statement (.svQpop) := .inl rfl
theorem svQstat : Statement (.svQstat) := .inl rfl
theorem svWreq : Statement (.svWreq) := .inl rfl
theorem svCnt : Statement (.svCnt) := .inl rfl
theorem svCntw : Statement (.svCntw) := .inl rfl
theorem svCancel : Statement (.svCancel) := .inl rfl
theorem svFire : Statement (.svFire) := .inl rfl
theorem svArm : Statement (.svArm) := .inl rfl
theorem svStop : Statement (.svStop) := .inl rfl
theorem svDisc : Statement (.svDisc) := .inl rfl
theorem svDbg : Statement (.svDbg) := .inl rfl
theorem dmCopy : Statement (.dmCopy) := .inl rfl
theorem dmCopy2 : Statement (.dmCopy2) := .inl rfl
theorem dmGath : Statement (.dmGath) := .inl rfl
theorem dmGathl : Statement (.dmGathl) := .inl rfl
theorem dmWalk : Statement (.dmWalk) := .inl rfl
theorem dmRadd : Statement (.dmRadd) := .inl rfl
theorem dmRmin : Statement (.dmRmin) := .inl rfl
theorem dmRmax : Statement (.dmRmax) := .inl rfl
theorem dmConv : Statement (.dmConv) := .inl rfl
theorem dmOvl : Statement (.dmOvl) := .inl rfl
theorem dmUcopy : Statement (.dmUcopy) := .inl rfl
theorem dmBset : Statement (.dmBset) := .inl rfl
theorem dmBarr : Statement (.dmBarr) := .inl rfl
theorem dmBchk : Statement (.dmBchk) := .inl rfl
theorem dmPoolget : Statement (.dmPoolget) := .inl rfl
theorem dmPoolrel : Statement (.dmPoolrel) := .inl rfl
theorem syEret : Statement (.syEret) := .inl rfl
theorem syRngw : Statement (.syRngw) := .inl rfl
theorem syRngr : Statement (.syRngr) := .inl rfl
theorem syRngi : Statement (.syRngi) := .inl rfl
theorem syAccx : Statement (.syAccx) := .inl rfl
theorem syAccr : Statement (.syAccr) := .inl rfl
theorem syArcw : Statement (.syArcw) := .inl rfl
theorem syThr : Statement (.syThr) := .inl rfl
theorem syCfgr : Statement (.syCfgr) := .inl rfl
theorem syCfgw : Statement (.syCfgw) := .inl rfl
theorem syHgrp : Statement (.syHgrp) := .inl rfl
theorem syXtrig : Statement (.syXtrig) := .inl rfl
theorem syWdog : Statement (.syWdog) := .inl rfl
theorem syFusr : Statement (.syFusr) := .inl rfl
theorem shRd : Statement (.shRd) := .inl rfl
theorem shWr : Statement (.shWr) := .inl rfl
theorem shInj : Statement (.shInj) := .inl rfl
theorem shClr : Statement (.shClr) := .inl rfl

end Sys2Proof.Laws.Encodes
end

