-- ==== Sys2Proof/Laws/Place.lean ====
section
/-!
SUPPORT. Where a legal domain's tiles are: its dies are distinct and fill its grid, and no two coordinates share a site.
-/
namespace Sys2Proof
open Machine

/-- The dies of a legal shape are distinct, one for each 32 columns but in a whole module. -/
theorem DomainSpec.dies_nodup (d : DomainSpec) : d.dies.Nodup := List.nodup_range.filter _

theorem DomainSpec.dies_enough (d : DomainSpec) (h : Machine.DomainSpec.shapeOk d = true) (hc : d.cls ≠ .whole) (hm : d.cls ≠ .multi) :
    d.width = 32 * d.dies.length := by
  obtain ⟨cls, islands, e, r, b3, b4, b5, b6, b7⟩ := d
  cases cls with
  | whole => exact absurd rfl hc
  | multi => exact absurd rfl hm
  | island =>
    simp only [Machine.DomainSpec.shapeOk, Bool.and_eq_true] at h
    match islands, h with
    | [i], h =>
      have hi : i < 16 := by simpa using h.2
      clear h; interval_cases i <;> rfl
  | die =>
    simp only [Machine.DomainSpec.shapeOk, Bool.and_eq_true] at h
    match islands, h with
    | i :: l, ⟨_, h⟩ =>
      simp only [Bool.and_eq_true] at h
      have hi : i < 16 := by simpa using h.1.2
      have hl := h.2
      rw [beq_iff_eq] at hl
      simp only [DomainSpec.dies, DomainSpec.width, DomainClass.width]
      rw [hl]; clear hl h; interval_cases i <;> rfl
  | pair =>
    simp only [Machine.DomainSpec.shapeOk, Bool.and_eq_true] at h
    match islands, h with
    | i :: l, ⟨_, h⟩ =>
      simp only [Bool.and_eq_true] at h
      have hi : i < 16 := by simpa using h.1.1.2
      have hl := h.2
      have h2 := h.1.1.1
      have h3 := h.1.2
      rw [beq_iff_eq] at hl
      simp only [DomainSpec.dies, DomainSpec.width, DomainClass.width]
      rw [hl]; clear hl h; interval_cases i <;> first | rfl | (exact absurd h2 (by decide)) | (exact absurd h3 (by decide))
  | half =>
    simp only [Machine.DomainSpec.shapeOk, Bool.and_eq_true] at h
    match islands, h with
    | i :: l, ⟨_, h⟩ =>
      simp only [Bool.and_eq_true] at h
      have hi : i = 0 ∨ i = 8 := by simpa using h.1
      have hl := h.2
      rw [beq_iff_eq] at hl
      simp only [DomainSpec.dies, DomainSpec.width, DomainClass.width]
      rw [hl]; clear hl h; rcases hi with rfl | rfl <;> rfl

/-- No two coordinates of a domain of a legal shape have one place. -/
theorem DomainSpec.place_inj (d : DomainSpec) (h : Machine.DomainSpec.shapeOk d = true) {x y x' y' : Nat} {p : Nat × Nat × Nat}
    (hp : d.place x y = some p) (hq : d.place x' y' = some p) : x = x' ∧ y = y' := by
  by_cases hw : d.cls = .whole ∨ d.cls = .multi
  · simp only [DomainSpec.place, if_pos hw] at hp hq
    split at hp
    · cases hp
    · split at hq
      · cases hq
      · next h1 h2 =>
        have w : d.width = 128 := by rcases hw with e | e <;> simp [DomainSpec.width, DomainClass.width, e]
        rw [w] at h1 h2
        cases hp
        simp only [Option.some.injEq, Prod.mk.injEq] at hq
        omega
  · simp only [DomainSpec.place, if_neg hw] at hp hq
    split at hp
    · cases hp
    · split at hq
      · cases hq
      · next h1 h2 =>
        have w := d.dies_enough h (fun e => hw (.inl e)) (fun e => hw (.inr e))
        cases hp
        simp only [Option.some.injEq, Prod.mk.injEq] at hq
        have a : x / 32 < d.dies.length := by omega
        have b : x' / 32 < d.dies.length := by omega
        have := (d.dies_nodup).getElem_inj_iff (i := x' / 32) (hi := b) (j := x / 32) (hj := a)
        rw [List.getD_eq_getElem _ _ a, List.getD_eq_getElem _ _ b] at hq
        have := this.1 hq.1
        omega

/-- No two die-local tiles have one site (R8). -/
theorem Machine.State.logicalSite_inj (s : State) {k x y k' x' y' n : Nat} (h : s.logicalSite k x y = some n)
    (h' : s.logicalSite k' x' y' = some n) : k = k' ∧ x = x' ∧ y = y' := by
  simp only [State.logicalSite] at h h'
  split at h
  · split at h'
    · next a b =>
      cases h
      simp only [Option.some.injEq, siteOf] at h'
      have hx : ∀ z l, z < 32 → (if z < l then z else z + 1) < 33 := by intro z l hz; split <;> omega
      have e1 := hx x ((s.die k).left y) a.1
      have e2 := hx x' ((s.die k').left y') b.1
      obtain rfl : k = k' := by omega
      obtain rfl : y = y' := by omega
      refine ⟨rfl, ?_, rfl⟩
      clear e1 e2 hx
      split at h' <;> split at h' <;> omega
    · cases h'
  · cases h

end Sys2Proof
end

