-- ==== Sys2Proof/Tests/Slice0.lean ====
section
/-!
SUPPORT. Tests: ill-formed instructions are refused, words written out from the manual's encodings decode, single steps do what the manual's
examples say, and concrete states meet the hypotheses of the statements.
-/
namespace Sys2Proof

-- One theorem is checked at a time: many hold whole states of the machine while the kernel evaluates them.
set_option Elab.async false

/-! ### Well-formedness -/

/-- One ill-formed instruction for each kind of check: a site, a slot, a tag, an index, a stack, a port, a partition, an island, a die beyond the
module's, and the portable fields that spec/18 R337 and R338 restrict. -/
theorem test_illformed : ∀ i ∈ ([
    .bundleIssue 8448, .forcedRealignment 24, .windowAllocation 0 32, .windowAllocation 24 0, .armingEntryWrite 0 256 0 .full 0,
    .armingEntryWrite 0 0 4 .full 0, .launchFire 0 256 .port, .entryArm 24 0 [] none, .counterReadRequest 0 0 8448, .fabricFrameSend 0 16,
    .partitionConfigure 16 0, .islandScrub 16, .keySlotWrite 16 0, .coreReset 8, .thermalCritical 32 0, .patrolScrub 8 .hbm 0,
    .bootStateEnd 8, .rosnilVwid 0 0 0 2 0, .rosnilVwid 0 0 0 0 2, .rosnilVwhile 0 0 0, .rosnilMtile 0 0 0 0 0,
    .rosnilMtilea 0 0 0 0 3] : List Instr), WellFormed i = false := by decide

/-- And their neighbours within the limits are well formed. -/
theorem test_wellformed : ∀ i ∈ ([
    .bundleIssue 8447, .forcedRealignment 23, .windowAllocation 0 31, .armingEntryWrite 0 255 3 .full 0, .launchFire 23 255 .port,
    .fabricFrameSend 0 15, .partitionConfigure 15 0, .coreReset 7, .thermalCritical 31 0, .rosnilVwid 0 0 0 1 1, .rosnilVwhile 3 0 0,
    .rosnilMtile 0 0 0 255 3, .iaAdd, .rosnilHalt] : List Instr), WellFormed i = true := by decide

/-! ### Decoding -/

/-- Triggers of CT: the words of `0 -> CT.op` in the fields of spec/02 R32, R34 and R39 with the selectors of R43. -/
theorem test_decode_ct : ∀ p ∈ ([
   (0x8000003000, .ctJmp), (0x8000003010, .ctJmpa), (0x8000003020, .ctJmpx), (0x8000003030, .ctCall), (0x8000003040, .ctCalla),
   (0x8000003050, .ctRet), (0x8000003060, .ctLoop), (0x8000003070, .ctLbrk), (0x8000003080, .ctMode), (0x8000003090, .ctLoose),
   (0x80000030A0, .ctPier), (0x80000030B0, .ctRealign), (0x80000030C0, .ctFence), (0x80000030D0, .ctHalt), (0x80000030E0, .ctBkpt),
   (0x80000030F0, .ctEcall), (0x8000003100, .ctUiret), (0x8000003110, .ctUimask)] : List (Nat × Instr)), decodeTableWord 40 p.1 = some p.2 := by decide

/-- Triggers of TM: the words of `0 -> TM.op` in the fields of spec/02 R32, R34 and R39 with the selectors of R43. -/
theorem test_decode_tm : ∀ p ∈ ([
   (0x800002D000, .tmAt), (0x800002D010, .tmAtmin), (0x800002D020, .tmAtmax), (0x800002D030, .tmSnap)] : List (Nat × Instr)), decodeTableWord 40 p.1 = some p.2 := by decide

/-- Triggers of IA: the words of `0 -> IA.op` in the fields of spec/02 R32, R34 and R39 with the selectors of R43. -/
theorem test_decode_ia1 : ∀ p ∈ ([
   (0x8000005000, .iaAdd), (0x8000005010, .iaSub), (0x8000005020, .iaAnd), (0x8000005030, .iaOr), (0x8000005040, .iaXor),
   (0x8000005050, .iaShl), (0x8000005060, .iaShr), (0x8000005070, .iaSra), (0x8000005080, .iaMin), (0x8000005090, .iaMax),
   (0x80000050A0, .iaMinu), (0x80000050B0, .iaMaxu), (0x80000050C0, .iaAdds), (0x80000050D0, .iaSubs), (0x80000050E0, .iaAddus),
   (0x80000050F0, .iaSubus), (0x8000005100, .iaMul), (0x8000005110, .iaMulh), (0x8000005120, .iaMulhu), (0x8000005130, .iaDiv),
   (0x8000005140, .iaDivu), (0x8000005150, .iaRem), (0x8000005160, .iaRemu), (0x8000005180, .iaCeq)] : List (Nat × Instr)), decodeTableWord 40 p.1 = some p.2 := by decide

/-- Triggers of IA: the words of `0 -> IA.op` in the fields of spec/02 R32, R34 and R39 with the selectors of R43. -/
theorem test_decode_ia2 : ∀ p ∈ ([
   (0x8000005190, .iaCne), (0x80000051A0, .iaClt), (0x80000051B0, .iaCltu), (0x80000051C0, .iaClz), (0x80000051D0, .iaPop),
   (0x80000051E0, .iaExt)] : List (Nat × Instr)), decodeTableWord 40 p.1 = some p.2 := by decide

/-- Triggers of AG: the words of `0 -> AG.op` in the fields of spec/02 R32, R34 and R39 with the selectors of R43. -/
theorem test_decode_ag : ∀ p ∈ ([
   (0x8000009000, .agInc), (0x8000009010, .agMod), (0x8000009020, .agBrev), (0x8000009030, .agCirc), (0x8000009080, .agMkptr),
   (0x8000009090, .agMkcl), (0x80000090A0, .agMkdom), (0x80000090B0, .agCoord), (0x80000090C0, .agSetb), (0x80000090D0, .agSets),
   (0x80000090E0, .agSetl), (0x80000090F0, .agLea)] : List (Nat × Instr)), decodeTableWord 40 p.1 = some p.2 := by decide

/-- Triggers of LA: the words of `0 -> LA.op` in the fields of spec/02 R32, R34 and R39 with the selectors of R43. -/
theorem test_decode_la : ∀ p ∈ ([
   (0x8000019000, .laLd8), (0x8000019010, .laLd16), (0x8000019020, .laLd32), (0x8000019030, .laLd64), (0x8000019040, .laLdv),
   (0x8000019050, .laLdvs), (0x8000019060, .laLdvx), (0x8000019080, .laSt8), (0x8000019090, .laSt16), (0x80000190A0, .laSt32),
   (0x80000190B0, .laSt64), (0x80000190C0, .laStv), (0x80000190D0, .laStvs), (0x80000190E0, .laStvx), (0x8000019100, .laAmoadd),
   (0x8000019110, .laAmomin), (0x8000019120, .laAmomax), (0x8000019130, .laAmoswap), (0x8000019140, .laAmocas), (0x8000019180, .laTblw)] : List (Nat × Instr)), decodeTableWord 40 p.1 = some p.2 := by decide

/-- Triggers of VA: the words of `0 -> VA.op` in the fields of spec/02 R32, R34 and R39 with the selectors of R44. -/
theorem test_decode_va1 : ∀ p ∈ ([
   (0x8000011000, .vaFadd), (0x8000011010, .vaFsub), (0x8000011020, .vaFmul), (0x8000011030, .vaFfma), (0x8000011040, .vaFfms),
   (0x8000011050, .vaFmin), (0x8000011060, .vaFmax), (0x8000011070, .vaFabs), (0x8000011080, .vaFneg), (0x8000011090, .vaFceq),
   (0x80000110A0, .vaFclt), (0x80000110B0, .vaFcle), (0x80000110C0, .vaFcun), (0x8000011100, .vaIadd), (0x8000011110, .vaIsub),
   (0x8000011120, .vaImul), (0x8000011130, .vaImulh), (0x8000011140, .vaImin), (0x8000011150, .vaImax), (0x8000011160, .vaIminu),
   (0x8000011170, .vaImaxu), (0x8000011180, .vaIadds), (0x8000011190, .vaIsubs), (0x80000111A0, .vaIaddus)] : List (Nat × Instr)), decodeTableWord 40 p.1 = some p.2 := by decide

/-- Triggers of VA: the words of `0 -> VA.op` in the fields of spec/02 R32, R34 and R39 with the selectors of R44. -/
theorem test_decode_va2 : ∀ p ∈ ([
   (0x80000111B0, .vaIsubus), (0x80000111C0, .vaIand), (0x80000111D0, .vaIor), (0x80000111E0, .vaIxor), (0x80000111F0, .vaIshl),
   (0x8000011200, .vaIshr), (0x8000011210, .vaIsra), (0x8000011220, .vaIceq), (0x8000011230, .vaIclt), (0x8000011240, .vaIcltu),
   (0x8000011280, .vaSel), (0x8000011290, .vaCvt), (0x80000112A0, .vaDec), (0x80000112B0, .vaEnc), (0x80000112C0, .vaAmax),
   (0x80000112D0, .vaQscale), (0x80000112E0, .vaRsum), (0x80000112F0, .vaPerm), (0x8000011300, .vaBcast), (0x8000011310, .vaShuf),
   (0x8000011320, .vaMrg), (0x8000011330, .vaIota)] : List (Nat × Instr)), decodeTableWord 40 p.1 = some p.2 := by decide

/-- Triggers of SF: the words of `0 -> SF.op` in the fields of spec/02 R32, R34 and R39 with the selectors of R44. -/
theorem test_decode_sf : ∀ p ∈ ([
   (0x8000017000, .sfExp2), (0x8000017010, .sfLog2), (0x8000017020, .sfExp), (0x8000017030, .sfRcp), (0x8000017040, .sfRsqrt),
   (0x8000017050, .sfSqrt), (0x8000017060, .sfTanh), (0x8000017070, .sfSigm), (0x8000017080, .sfSin), (0x8000017090, .sfCos)] : List (Nat × Instr)), decodeTableWord 40 p.1 = some p.2 := by decide

/-- Triggers of MX: the words of `0 -> MX.op` in the fields of spec/02 R32, R34 and R39 with the selectors of R45. -/
theorem test_decode_mx : ∀ p ∈ ([
   (0x800001D000, .mxMm), (0x800001D010, .mxMma), (0x800001D020, .mxMmt), (0x800001D030, .mxMmta), (0x800001D040, .mxMmb),
   (0x800001D050, .mxMmba), (0x800001D060, .mxMmg), (0x800001D070, .mxMmga), (0x800001D080, .mxMmgb), (0x800001D090, .mxMmgba),
   (0x800001D0A0, .mxMmgt), (0x800001D0B0, .mxMmgta), (0x800001D0C0, .mxMv), (0x800001D0D0, .mxMva), (0x800001D0E0, .mxOuter),
   (0x800001D0F0, .mxOutera), (0x800001D400, .mxCalx), (0x800001D410, .mxRhead), (0x800001D420, .mxRtail), (0x800001D430, .mxClr),
   (0x800001D440, .mxMread), (0x800001D450, .mxMwrite)] : List (Nat × Instr)), decodeTableWord 40 p.1 = some p.2 := by decide

/-- Triggers of EP: the words of `0 -> EP.op` in the fields of spec/02 R32, R34 and R39 with the selectors of R46. -/
theorem test_decode_ep : ∀ p ∈ ([
   (0x800001F000, .epDrain), (0x800001F010, .epDrtr), (0x800001F020, .epDrsum), (0x800001F030, .epDrnet), (0x800001F040, .epDrrow),
   (0x800001F050, .epDrop)] : List (Nat × Instr)), decodeTableWord 40 p.1 = some p.2 := by decide

/-- Triggers of GN: the words of `0 -> GN.op` in the fields of spec/02 R32, R34 and R39 with the selectors of R46. -/
theorem test_decode_gn : ∀ p ∈ ([
   (0x8000021000, .gnKey), (0x8000021010, .gnStream), (0x8000021020, .gnMember), (0x8000021030, .gnDraw), (0x8000021040, .gnRegen),
   (0x8000021050, .gnBits), (0x8000021060, .gnNext)] : List (Nat × Instr)), decodeTableWord 40 p.1 = some p.2 := by decide

/-- Triggers of NS: the words of `0 -> NS.op` in the fields of spec/02 R32, R34 and R39 with the selectors of R46. -/
theorem test_decode_ns : ∀ p ∈ ([
   (0x8000023000, .nsSends), (0x8000023010, .nsSend), (0x8000023020, .nsSendv), (0x8000023030, .nsDep), (0x8000023040, .nsDepv),
   (0x8000023050, .nsFwd), (0x8000023060, .nsTag), (0x8000023070, .nsLclr)] : List (Nat × Instr)), decodeTableWord 40 p.1 = some p.2 := by decide

/-- Triggers of SV: the words of `0 -> SV.op` in the fields of spec/02 R32, R34 and R39 with the selectors of R46. -/
theorem test_decode_sv : ∀ p ∈ ([
   (0x8000025000, .svMsg), (0x8000025010, .svMcast), (0x8000025020, .svQset), (0x8000025030, .svQpop), (0x8000025040, .svQstat),
   (0x8000025050, .svWreq), (0x8000025060, .svCnt), (0x8000025070, .svCntw), (0x8000025080, .svCancel), (0x8000025090, .svFire),
   (0x80000250A0, .svArm), (0x80000250B0, .svStop), (0x80000250C0, .svDisc), (0x80000250D0, .svDbg)] : List (Nat × Instr)), decodeTableWord 40 p.1 = some p.2 := by decide

/-- Triggers of DM: the words of `0 -> DM.op` in the fields of spec/02 R32, R34 and R39 with the selectors of R46. -/
theorem test_decode_dm : ∀ p ∈ ([
   (0x8000027000, .dmCopy), (0x8000027010, .dmCopy2), (0x8000027020, .dmGath), (0x8000027030, .dmGathl), (0x8000027040, .dmWalk),
   (0x8000027050, .dmRadd), (0x8000027060, .dmRmin), (0x8000027070, .dmRmax), (0x8000027080, .dmConv), (0x8000027090, .dmOvl),
   (0x8000027100, .dmUcopy), (0x8000027110, .dmBset), (0x8000027120, .dmBarr), (0x8000027130, .dmBchk), (0x8000027140, .dmPoolget),
   (0x8000027150, .dmPoolrel)] : List (Nat × Instr)), decodeTableWord 40 p.1 = some p.2 := by decide

/-- Triggers of SY: the words of `0 -> SY.op` in the fields of spec/02 R32, R34 and R39 with the selectors of R47. -/
theorem test_decode_sy : ∀ p ∈ ([
   (0x800002B000, .syEret), (0x800002B010, .syRngw), (0x800002B020, .syRngr), (0x800002B030, .syRngi), (0x800002B040, .syAccx),
   (0x800002B050, .syAccr), (0x800002B060, .syArcw), (0x800002B070, .syThr), (0x800002B080, .syCfgr), (0x800002B090, .syCfgw),
   (0x800002B0A0, .syHgrp), (0x800002B0B0, .syXtrig), (0x800002B0C0, .syWdog), (0x800002B0D0, .syFusr)] : List (Nat × Instr)), decodeTableWord 40 p.1 = some p.2 := by decide

/-- Triggers of SH: the words of `0 -> SH.op` in the fields of spec/02 R32, R34 and R39 with the selectors of R47. -/
theorem test_decode_sh : ∀ p ∈ ([
   (0x800002F000, .shRd), (0x800002F010, .shWr), (0x800002F020, .shInj), (0x800002F030, .shClr)] : List (Nat × Instr)), decodeTableWord 40 p.1 = some p.2 := by decide

/-- IB, VB, VC and LB have the maps of IA, VA and LA (spec/02 R43, R44); pg16 and pg47 are at 0x10 and 0x2F (R45). -/
theorem test_decode_twins : ∀ p ∈ ([
   (0x80000071E0, .iaExt), (0x8000013000, .vaFadd), (0x8000015330, .vaIota), (0x800001B180, .laTblw), (0x800001D100, .mxPgRoutine),
   (0x800001D2F0, .mxPgRoutine)] : List (Nat × Instr)), decodeTableWord 40 p.1 = some p.2 := by decide

/-- Portable words in the formats of spec/18 R334: scalar (R336); operands d = 3, a = 1, b = 2, k = 1. -/
theorem test_decode_portable1 : ∀ p ∈ ([
   (0x4C48000, .rosnilAdd 3 1 2), (0x8C48000, .rosnilSub 3 1 2), (0xCC48000, .rosnilAnd 3 1 2), (0x10C48000, .rosnilOr 3 1 2),
   (0x14C48000, .rosnilXor 3 1 2), (0x18C48000, .rosnilShl 3 1 2), (0x1CC48000, .rosnilShr 3 1 2), (0x20C48000, .rosnilSra 3 1 2),
   (0x24C48000, .rosnilMul 3 1 2), (0x28C48000, .rosnilSlt 3 1 2), (0x2CC48000, .rosnilSltu 3 1 2), (0x30C402A5, .rosnilAddi 3 1 677),
   (0x34C002A5, .rosnilLi 3 677), (0x38C402A5, .rosnilLio 3 1 677), (0x3CC402A5, .rosnilLd 3 1 677), (0x40048000, .rosnilSt 1 2),
   (0x444BFFFB, .rosnilBne 1 2 262139), (0x484BFFFB, .rosnilBlt 1 2 262139), (0x4C03FFFB, .rosnilJ 262139), (0x60C00000, .rosnilGvl 3)] : List (Nat × Instr)), decodeTableWord 32 p.1 = some p.2 := by decide

/-- Portable words of spec/18 R337 and R338. -/
theorem test_decode_portable2 : ∀ p ∈ ([
   (0x64C502A5, .rosnilVld 3 1 1 677), (0x68049000, .rosnilVst 1 2 1), (0x6CC49000, .rosnilVfadd 3 1 2 1),
   (0x70C49000, .rosnilVfsub 3 1 2 1), (0x74C49000, .rosnilVfmul 3 1 2 1), (0x78C49000, .rosnilVfma 3 1 2 1),
   (0x7CC49000, .rosnilVfmax 3 1 2 1), (0x80C49000, .rosnilVfmin 3 1 2 1), (0x84C09500, .rosnilVwid 3 2 1 1 1),
   (0x88C09000, .rosnilVrsum 3 2 1), (0x8CC40000, .rosnilVbcast 3 1), (0x90C48000, .rosnilVwhile 3 1 2),
   (0x94C08000, .rosnilVmovs 3 2), (0xA0490142, .rosnilMtile 1 2 4 5 2), (0xA4490142, .rosnilMtilea 1 2 4 5 2),
   (0xA8040000, .rosnilMdrain 1), (0xB0040000, .rosnilGkey 1), (0xB4048000, .rosnilGsm 1 2), (0xB8C40000, .rosnilGdraw 3 1),
   (0x50000000, .rosnilHalt)] : List (Nat × Instr)), decodeTableWord 32 p.1 = some p.2 := by decide

/-! ### Single steps -/

open Sys2Proof.Machine

/-- The state after one step on a word placed for fetching. -/
def after (s : State) (nbits w : Nat) : State := (Result.state? (step (s.withFetchWord nbits w))).getD s

/-- The portable machine with g1 and g2, and w1 and w2 a value in lane 0. -/
def withRegs (g1 g2 : Word) (w1 w2 : Lane) : State :=
  let p := State.reset.portable
  let lane0 (x : Lane) : Vec := Vec.gen fun n => if n = 0 then x else 0
  { State.reset with portable := { p with
      g := (p.g.setIfInBounds 1 g1).setIfInBounds 2 g2, w := (p.w.setIfInBounds 1 (lane0 w1)).setIfInBounds 2 (lane0 w2) } }

/-- A tile's first integer socket with its first operand. -/
def withIa (a : Word) : State := State.reset.mapTile 0 fun t => { t with cap := { t.cap with ia := { t.cap.ia with o1 := a } } }

/-- What IA will land. -/
def iaLands (s : State) (w : Nat) : List (Option Res) := ((after s 40 w).tile 0).cap.ia.pipe.flight.map (·.q0)

/-- `li g3, -1` (spec/18 R336): the immediate is signed. -/
theorem test_li : (after State.reset 32 0x34C3FFFF).portable.gr 3 = BitVec.allOnes 64 := by decide
/-- `lio g3, g1, 0x3FFFF` (spec/18 R336): (ga << 18) OR the zero-extended immediate. -/
theorem test_lio : (after (withRegs 1 0 0 0) 32 0x38C7FFFF).portable.gr 3 = 0x7FFFF := by decide
/-- `add g3, g1, g2` wraps (spec/18 R336). -/
theorem test_portable_add : (after (withRegs (BitVec.allOnes 64) 1 0 0) 32 0x04C48000).portable.gr 3 = 0 := by decide
/-- `slt g3, g1, g2` is signed, `sltu` is not (spec/18 R336). -/
theorem test_slt : (after (withRegs (BitVec.allOnes 64) 1 0 0) 32 0x28C48000).portable.gr 3 = 1 ∧
    (after (withRegs (BitVec.allOnes 64) 1 0 0) 32 0x2CC48000).portable.gr 3 = 0 := by decide
/-- `sra g3, g1, g2` shifts by gb[5:0] (spec/18 R336). -/
theorem test_sra : (after (withRegs 0x8000000000000000#64 65 0 0) 32 0x20C48000).portable.gr 3 = 0xC000000000000000#64 := by decide
/-- `bne g1, g2, -1` goes one word back from its own word (spec/18 R336), and on when the registers agree. -/
theorem test_bne :
    (let s := withRegs 1 2 0 0
     let t := { s with portable := { s.portable with ip := 4096 } }
     (after t 32 0x444BFFFF).portable.ip = 4092) ∧
    (let s := withRegs 2 2 0 0
     let t := { s with portable := { s.portable with ip := 4096 } }
     (after t 32 0x444BFFFF).portable.ip = 4100) := by decide
/-- `vfadd w3, w1, w2, k0`: 1.0 + 2.0 = 3.0 in lane 0 (spec/06 R133). -/
theorem test_vfadd : ((after (withRegs 0 0 0x3F800000 0x40000000) 32 0x6CC48000).portable.wr 3).lane 0 = 0x40400000 := by decide +kernel
/-- `vfmul w3, w1, w2, k0`: the product of the largest f32 with 2.0 is +∞ (spec/05 R115, spec/06 R133). -/
theorem test_vfmul : ((after (withRegs 0 0 0x7F7FFFFF 0x40000000) 32 0x74C48000).portable.wr 3).lane 0 = 0x7F800000 := by decide +kernel
/-- `vmovs g3, w2`: lane 0, zero-extended (spec/18 R337). -/
theorem test_vmovs : (after (withRegs 0 0 0 0xFFFFFFFF) 32 0x94C08000).portable.gr 3 = 0xFFFFFFFF := by decide
/-- `7 -> IA.add` (spec/02 R32, spec/04 R72). -/
theorem test_ia_add : iaLands (withIa 5) 0x80001C5000 = [some (.s 12)] := by decide
/-- `-1 -> IA.mulh` with −1: the high half of 1 is 0 (spec/04 R72). -/
theorem test_ia_mulh : iaLands (withIa (BitVec.allOnes 64)) 0xFFFFFC5110 = [some (.s 0)] := by decide
/-- `0 -> IA.div`: division by zero gives all ones (spec/04 R73). -/
theorem test_ia_div : iaLands (withIa 5) 0x8000005130 = [some (.s (BitVec.allOnes 64))] := by decide
/-- `-1 -> IA.div` of −2^63 gives −2^63, and `-1 -> IA.rem` 0 (spec/04 R73). -/
theorem test_ia_div_overflow : iaLands (withIa 0x8000000000000000#64) 0xFFFFFC5130 = [some (.s 0x8000000000000000#64)] ∧
    iaLands (withIa 0x8000000000000000#64) 0xFFFFFC5150 = [some (.s 0)] := by decide
/-- `0 -> IA.clz` counts 64 (spec/04 R74). -/
theorem test_ia_clz : iaLands (withIa 0) 0x80000051C0 = [some (.s 64)] := by decide
/-- A move under a false guard does nothing: `?!p0 7 -> IA.add` (spec/02 R33). -/
theorem test_false_guard : iaLands (withIa 5) 0x80001C5008 = [] := by decide
/-- `0x80 -> CT.fence` is a control fault: the tile stops (spec/04 R89, spec/20 R361). -/
theorem test_fence_fault : ((after State.reset 40 0x80020030C0).tile 0).stopped = true := by decide
/-- Fuse words 14 to 37 of a part with no fused site: every row of every die reads 32 (spec/17 R325). -/
theorem test_fused_rows : (List.range 8).all (fun d => (List.range 32).all fun y => State.reset.fusedCol d y == 32) = true := by
  decide +kernel

/-- Memory is little-endian (spec/01 R5). -/
theorem test_little_endian : (State.reset.write64 16 0x0102030405060708).byte 16 = 8 ∧ (State.reset.write64 16 0x0102030405060708).byte 23 = 1 := by
  decide

/-! ### Concrete states that meet the hypotheses of the statements

Each theorem named `meets_<Name>` shows states and operands that meet the hypotheses of the statement of that name, one for each of its clauses, at
the ends of the ranges they speak of. -/

/-- An operation of a socket is being issued with s1 as its data. -/
def issuing (q : Sock) (sel : BitVec 7) (b : Word) (s : State) : State :=
  { s with cur := { s.cur with
      from_ := { s.cur.from_ with slotValue := encodeSlot ⟨.port 5 0 1 0, BitVec.ofNat 5 q.num, 2, sel, ⟨false, 0⟩⟩ }
      pre := { s.cur.pre with s := s.cur.pre.s.setIfInBounds 1 b } } }

/-- Tile 0 changed in the state after reset. -/
def withTile (f : Tile → Tile) : State := State.reset.mapTile 0 f

theorem meets_PortableDecodeEncode : encodePortable (.rosnilAdd 15 15 15) = some 0x07FFC000#32 ∧ encodePortable .rosnilHalt = some 0x50000000#32 ∧
    decodePortable 0x07FFC000#32 = some (.rosnilAdd 15 15 15) := by decide

theorem meets_SlotsDecodeEncode : sourceLegal (.imm 0x1FFFFF#21) = true ∧ sourceLegal (.port 5 0 4 0) = true ∧
    triggerInstr .vc 0x00 = some .vaFadd ∧ triggerInstr .ib 0x1E = some .iaExt ∧ encodeTrigger .svMcast = some (trigSlot 18 1) := by decide

theorem meets_StepRunsDecoded :
    let s (w : Nat) : State := State.reset.withFetchWord 32 w
    (s 0x50000000).portable.running = true ∧
    decodeBytes ((s 0x50000000).readBytes (s 0x50000000).portable.ip 4) = some (.rosnilHalt, []) ∧
    decodeBytes ((s 0).readBytes (s 0).portable.ip 4) = none ∧
    State.reset.portable.running = false ∧ State.reset.agenda = [] ∧
    (State.reset.withFetchWord 40 0x80001C5000).portable.running = false ∧
    (State.reset.withFetchWord 40 0x80001C5000).agenda.map (·.instr) = [.iaAdd] := by decide

theorem meets_PlacedWordRuns : Memory.wf State.reset.mem = true ∧ decodePortable 0x50000000#32 = some .rosnilHalt ∧
    decode (.move 0x80001C5000#40) = some .iaAdd := by decide

theorem meets_MemoryReadAfterWrite : Memory.wf [(3, 1), (5, 7)] = true ∧ Memory.wf (Memory.write [(5, 7)] 3 1) = true ∧
    ∀ a, Memory.read [(3, 1), (5, 7)] a = Memory.read (Memory.write [(5, 7)] 3 1) a := ⟨by decide, by decide, fun _ => rfl⟩

theorem meets_LittleEndianWords : State.memoryCanonical State.reset := rfl

theorem meets_MemoryCanonicalKept : State.memoryCanonical State.reset ∧ ∃ t, step State.reset = .next t := ⟨rfl, _, rfl⟩

theorem meets_PortableRegisterFrame : scalarDest (.rosnilAdd 15 1 2) = some 15 ∧ (∃ t, exec (.rosnilAdd 15 1 2) State.reset = .next t) ∧
    vectorDest (.rosnilVfadd 15 1 2 0) = some 15 ∧ ∃ t, exec (.rosnilVfadd 15 1 2 0) State.reset = .next t := ⟨by decide, ⟨_, rfl⟩, by decide, _, rfl⟩

theorem meets_PortableFlow :
    let at_ (n : Nat) (a b : Word) : State := { withRegs a b 0 0 with portable := { (withRegs a b 0 0).portable with cur := n } }
    (((at_ 4096 1 2).portable.cur : Int) + 4 * (BitVec.ofInt 18 (-1)).toInt = (4092 : Nat)) ∧
    (((at_ 0 1 2).portable.cur : Int) + 4 * (131071 : BitVec 18).toInt = (524284 : Nat)) ∧
    (at_ 0 1 2).portable.gr 1 ≠ (at_ 0 1 2).portable.gr 2 ∧ (at_ 0 1 1).portable.gr 1 = (at_ 0 1 1).portable.gr 2 ∧
    ((at_ 0 (-1) 0).portable.gr 1).toInt < ((at_ 0 (-1) 0).portable.gr 2).toInt ∧
    ¬((at_ 0 0 (-1)).portable.gr 1).toInt < ((at_ 0 0 (-1)).portable.gr 2).toInt ∧
    (State.reset.domain State.reset.portSlot).boot = false := by decide

/-- Local pointers at the last doubleword and the last 256 bytes of the tile's SRAM. -/
theorem meets_PortableLoadsAndStores :
    let s (a : Word) : State := withRegs a 0 0 0
    let p := State.reset.portable.site
    (State.reset.tile p).stopped = false ∧ (State.reset.tile p).wedged = false ∧ State.reset.memoryCanonical ∧
    (s 0x10000000000FFFF0).portTarget (.load 8) 0x10000000000FFFF0 (0x10000000000FFFF0 + (8 : BitVec 18).signExtend 64) 0 = .sram p 0xFFFF8 ∧
    (s 0x10000000000FFF00).portTarget .loadV 0x10000000000FFF00 (0x10000000000FFF00 + (0 : BitVec 16).signExtend 64) (BitVec.allOnes 64) =
      .sram p 0xFFF00 ∧
    (s 0x10000000000FFFF8).portTarget (.store 8) 0x10000000000FFFF8 0x10000000000FFFF8 0 = .sram p 0xFFFF8 ∧
    (s 0x10000000000FFF00).portTarget .storeV 0x10000000000FFF00 0x10000000000FFF00 (BitVec.allOnes 64) = .sram p 0xFFF00 ∧
    State.reset.portable.kr 0 = BitVec.allOnes 64 ∧ State.reset.sramBad p 0xFFFF8 8 = false ∧ State.reset.sramBad p 0xFFF00 256 = false := by
  unfold State.memoryCanonical; decide +kernel

theorem meets_PortableVectorResults : (1 : BitVec 2).toNat < 2 ∧ (3 : BitVec 2) ≠ 0 := by decide

/-- A trigger under a false guard, `?!p0`. -/
theorem meets_FalseGuardDoesNothing : Instr.isTrigger .iaAdd ∧
    let s : State := { State.reset with cur := { State.reset.cur with from_ := { State.reset.cur.from_ with slotValue := 0x80001C5008 } } }
    s.cur.pre.guard s.curSlot.guard = false :=
  ⟨⟨.ia, 0, rfl⟩, by decide +kernel⟩

theorem meets_WaitingAndForbiddenTriggers :
    (let s : State := issuing .ib 0 7 { State.reset with cur := { State.reset.cur with pre := { Tile.reset with cap := { Tile.reset.cap with
        ct := { Tile.reset.cap.ct with mmask := BitVec.allOnes 17 } } } } }
     triggerInstr .ib s.curSlot.sel.toNat = some .iaAdd ∧ Sock.ofNum s.curSlot.sock.toNat = some .ib ∧
     s.cur.pre.guard s.curSlot.guard = true ∧ s.forbidden s.cur.slot s.cur.site .ib s.curSlot.sel.toNat = false ∧ s.cur.pre.locked .ib = true) ∧
    let s : State := issuing .mx 5 7 (State.reset.setDomain 0 { Domain.blank with boot := true })
    triggerInstr .mx s.curSlot.sel.toNat = some .mxMmba ∧ Sock.ofNum s.curSlot.sock.toNat = some .mx ∧
    s.cur.pre.guard s.curSlot.guard = true ∧ s.forbidden s.cur.slot s.cur.site .mx s.curSlot.sel.toNat = true := by decide +kernel

theorem meets_IntegerResults : (issuing .ib 0x13 0 State.reset).firing [.ia, .ib] ∧ (issuing .ia 0 0 State.reset).firing [.ia, .ib] := by
  unfold State.firing; decide +kernel

/-- Bounds of 0 and above, of width 0 and 63; a `lea` that stays in its space at its last offset, leaves it, and goes past it. -/
theorem meets_AddressResults :
    let s (o1 bnd b : Word) : State := issuing .ag 0 b (withTile fun t => { t with cap := { t.cap with
      ag := { t.cap.ag with o1 := o1, bnd := t.cap.ag.bnd.setIfInBounds 0 bnd } } })
    let x (t : State) := (t.tile (t.trigOf [.ag]).site).cap.ag
    (s 0 0 0).firing [.ag] ∧
    (x (s 0 0 0)).bnd.getD 0 0 = 0 ∧ (x (s 0 1 0)).bnd.getD 0 0 ≠ 0 ∧ ((x (s 0 64 0)).bnd.getD 0 0).toNat % 64 = 0 ∧
    ((x (s 0 63 0)).bnd.getD 0 0).toNat % 64 ≠ 0 ∧
    (let a : Word := 0x1000000000000000#64
     let p : Word := a + 0xFFFFF#64
     ((s a 0 0xFFFFF).trigOf [.ag]).b = 0xFFFFF ∧ ptrSpace p = ptrSpace a ∧ ptrMbz p = true) ∧
    (let a : Word := 0x1000000000000000#64
     ptrSpace (a + 0x1000000000000000#64) ≠ ptrSpace a) ∧
    (let a : Word := 0#64
     ptrSpaceValid (a + 0#64) = false) ∧
    let a : Word := 0x1000000000000000#64
    let p : Word := a + 0x100000#64
    ptrSpace p = ptrSpace a ∧ ptrSpaceValid p = true ∧ ptrMbz p = false := by
  unfold State.firing; decide +kernel

/-- Targets 959, 960, 1 023 and 1 024. -/
theorem meets_ControlBranches :
    let s (b : Word) (sup : Bool) : State := issuing .ct 1 b (withTile fun t => { t with inSup := sup })
    let limit (t : State) : Nat := if (t.tile (t.trigOf [.ct]).site).inSup || (t.tile (t.trigOf [.ct]).site).privileged then 1023 else 959
    (s 959 false).firing [.ct] ∧ ((s 959 false).trigOf [.ct]).b.toNat ≤ limit (s 959 false) ∧
    limit (s 960 false) < ((s 960 false).trigOf [.ct]).b.toNat ∧ ((s 1023 true).trigOf [.ct]).b.toNat ≤ limit (s 1023 true) ∧
    limit (s 1024 true) < ((s 1024 true).trigOf [.ct]).b.toNat := by
  unfold State.firing; decide +kernel

/-- Loops of count 0, 1 and 2^32 over one bundle; the mode words 0x1FF1C and 0x20; uimask of 1 and 2; fences of 0x10 and 0x0. -/
theorem meets_ControlModes :
    let s (o1 b : Word) (loose : Bool) : State := issuing .ct 6 b (withTile fun t => { t with loose := loose, cap := { t.cap with ct := { t.cap.ct with o1 := o1 } } })
    let b (t : State) : Word := (t.trigOf [.ct]).b
    let bad (t : State) : Bool :=
      let u := t.tile (t.trigOf [.ct]).site
      decide (u.cap.ct.o1 = 0) || decide ((if u.inSup || u.privileged then 1023 else 959) < t.cur.from_.bundle + u.cap.ct.o1.toNat) ||
        decide (2 ^ 32 ≤ (b t).toNat) || decide (u.thread.redirects ≠ [])
    let badFence (t : State) : Bool := decide ((b t).toNat / 64 ≠ 0) || (b t).getLsbD 3 || decide ((b t).toNat / 16 % 4 = 0) || decide (5 ≤ (b t).toNat % 8)
    (s 1 0 false).firing [.ct] ∧ bad (s 0 1 false) = true ∧ bad (s 1 (2 ^ 32) false) = true ∧ bad (s 959 1 false) = false ∧ bad (s 960 1 false) = true ∧
    b (s 1 1 false) ≠ 0 ∧ (bad (s 1 0 false) = false ∧ b (s 1 0 false) = 0) ∧ b (s 0 0x1FF1C false) &&& ~~~0x1FF1C#64 = 0 ∧
    b (s 0 0x20 false) &&& ~~~0x1FF1C#64 ≠ 0 ∧ (b (s 0 1 false)).toNat ≤ 1 ∧ 1 < (b (s 0 2 false)).toNat ∧ badFence (s 0 0 false) = true ∧
    badFence (s 0 5 false) = true ∧ badFence (s 0 0x34 false) = false ∧ badFence (s 0 0x14 false) = false ∧
    ((s 0 0 false).tile 0).loose = false ∧ ((s 0 0 false).domain 0).boot = false ∧ ((s 0 0 true).tile 0).loose = true := by
  unfold State.firing; decide +kernel

/-- Slot 0 holds the island domain of reduced service: islands 0 of die 0, 512 tiles. -/
def formed : State := State.reset.setDomain 0 { Domain.blank with spec := reducedSpec, throttle := 16 }

theorem find_const {α : Type} (x : α) (l : List Nat) (k : Nat) (h : k ∈ l) : Table.find (l.map fun n => (n, x)) k = some x := by
  induction l with
  | nil => simp at h
  | cons n l ih =>
    by_cases e : n = k
    · simp [Table.find, e]
    · simpa [Table.find, e] using ih ((List.mem_cons.1 h).resolve_left (Ne.symm e))

/-- The state with the same tile at each of some sites. -/
def filledWith (s : State) (l : List Nat) (t : Tile) : State := { s with tiles := l.map fun k => (k, t) }

theorem tile_filled (s : State) (l : List Nat) (t : Tile) (k : Nat) (h : k ∈ l) : (filledWith s l t).tile k = t := by
  unfold State.tile Table.at filledWith
  rw [find_const t l k h]
  rfl

/-- The domain with every tile but the first at the pier. -/
def lastToArrive : State := filledWith formed ((formed.domainSites 0).drop 1) { Tile.reset with arrived := true }

/-- The last tile of a domain to arrive. -/
theorem meets_lastArrival : 0 ∈ lastToArrive.domainSites 0 ∧ (lastToArrive.domain 0).pier.releaseAt = none ∧
    (lastToArrive.domain 0).pier.allArrived = none ∧ (lastToArrive.domain 0).spec.cls ≠ .multi ∧
    ∀ k ∈ lastToArrive.domainSites 0, k ≠ 0 → (lastToArrive.tile k).arrived = true := by
  refine ⟨by decide +kernel, by decide +kernel, by decide +kernel, by decide +kernel, fun k h n => ?_⟩
  have d : lastToArrive.domainSites 0 = 0 :: (formed.domainSites 0).drop 1 := by decide +kernel
  have m : k ∈ (formed.domainSites 0).drop 1 := (List.mem_cons.1 (d ▸ h)).resolve_left n
  exact (congrArg Tile.arrived (tile_filled formed _ _ k m)).trans rfl

/-- A pier in a delay bundle; debug enabled and not. -/
theorem meets_PierHaltAndTraps :
    formed.firing [.ct] ∧ (formed.trigOf [.ct]).site = 0 ∧ (formed.tile 0).thread.redirects = [] ∧ (formed.domain 0).boot = false ∧
    ((withTile fun t => t.setThread { t.thread with redirects := [⟨3, 0⟩] }).tile 0).thread.redirects ≠ [] ∧
    ((State.reset.setUnit 0 { State.reset.unit 0 with debugEnable := 1 }).unit 0).debugEnable.getLsbD 0 = true ∧
    (State.reset.unit 0).debugEnable.getLsbD 0 = false := by
  unfold State.firing; decide +kernel

/-- An offset of 5, met, not met. -/
theorem meets_TimetableAssertions :
    let s (b : Word) : State := issuing .tm 0 b (State.reset.setDomain 0 { Domain.blank with dcc := 5 })
    let off (t : State) : Word := BitVec.ofNat 64 ((t.tile (t.trigOf [.tm]).site).bayOffset (t.domain (t.trigOf [.tm]).slot).dcc)
    (s 5).firing [.tm] ∧ ((s 5).domain ((s 5).trigOf [.tm]).slot).boot = false ∧ off (s 5) = ((s 5).trigOf [.tm]).b ∧
    off (s 4) ≠ ((s 4).trigOf [.tm]).b ∧ ((s 5).domain 0).sigma = 0 := by
  unfold State.firing; decide +kernel

/-- Pointers of each space: the last doubleword of the tile, past its end, a neighbour's in the cluster, one of the domain; entries 0 and 1 023 and
beyond. -/
theorem meets_AccessesSent :
    let s (o1 : Word) : State := issuing .lb 3 0 (formed.mapTile 0 fun t => { t with cap := { t.cap with lb := { t.cap.lb with o1 := o1 } } })
    let to_ (op : AccessOp) (o1 : Word) : Resolved := (s o1).accessTarget 0 0 op o1 (o1 + ((s o1).trigOf [.la, .lb]).b) (BitVec.allOnes 64) false .zero
    let L : Word := 0x1000000000000000
    (s L).firing [.la, .lb] ∧ ((s L).trigOf [.la, .lb]).sock = .lb ∧ ((s L).tile 0).cap.lb.msk ≠ 0 ∧
    to_ (.load 8) (L + 0xFFFF8) = .sram 0 0xFFFF8 ∧ to_ (.load 8) (L + 0xFFFFC) = .bad 3 ∧ to_ .loadV (L + 0xFFF00) = .sram 0 0xFFF00 ∧
    ptrSpace (L + 0xFFFF8) = 1 ∧ (to_ (.store 8) 0x2000000000100000#64 = .sram 1 0 ∧ ptrSpace 0x2000000000100000#64 = 2) ∧
    (to_ (.amo 4) 0x3000000001000000#64 = .sram 4 0 ∧ ptrSpace 0x3000000001000000#64 = 3) ∧
    ((1023 : Word).toNat / 1024 = 0 ∧ (1024 : Word).toNat / 1024 ≠ 0) := by
  unfold State.firing; decide +kernel

/-- No format word and a bad one; lanes of both signs, NaNs. -/
theorem meets_VectorFloatResults : State.reset.firing [.va, .vb, .vc] ∧ (issuing .vc 0 0 State.reset).firing [.va, .vb, .vc] ∧
    (vecFormats .fadd none 0).isSome = true ∧ vecFormats .fadd (some (BitVec.allOnes 64)) 0 = none ∧ (readF32 0x7FC00000).isNan = true := by
  unfold State.firing; decide +kernel

theorem meets_VectorIntegerResults : State.reset.firing [.va, .vb, .vc] ∧ (vecFormats .iadd none 0).isSome = true ∧
    vecFormats .iadd (some (BitVec.allOnes 64)) 0 = none := by unfold State.firing; decide +kernel

/-- Blocks with a NaN and without; scales 1.0 everywhere, and 0 in lane 63 alone; rounding words of every kind, the stream's last element. -/
theorem meets_VectorReductionsAndConversions :
    let on (n : Nat) : Bool := (BitVec.allOnes 64 : Word).getLsbD n
    let good : Vec := Vec.fill 0x3F800000
    let bad : Vec := Vec.gen fun n => if n = 63 then 0 else 0x3F800000
    State.reset.firing [.va, .vb, .vc] ∧ (∃ n < 32, on (32 + n) = true ∧ (readLane .f32 ((Vec.fill 0x7FC00000#32).lane (32 + n))).isNan = true) ∧
    (∀ n < 32, on n = true → (readLane .f32 (good.lane n)).isNan = false) ∧
    (∀ n < 64, on n = true → scaleValid (good.lane n) = true) ∧
    (on 63 = true ∧ scaleValid (bad.lane 63) = false ∧ ∀ m < 63, on m = true → scaleValid (bad.lane m) = true) ∧
    vecFormats .enc none 0 ≠ none ∧ vecFormats .cvt (some (BitVec.allOnes 64)) 0 = none ∧ (vecFormats .cvt none 0).isSome = true ∧
    (RndWord.ofWord 0x10).check = none ∧ (RndWord.ofWord 0).check = some .rne ∧
    (let r := RndWord.ofWord (BitVec.ofNat 64 ((2 ^ 40 - 63) * 2 ^ 24 + 4))
     r.check = some .stoch ∧ 2 ^ 40 ≤ r.elem + 63) ∧
    (let r := RndWord.ofWord (BitVec.ofNat 64 ((2 ^ 40 - 64) * 2 ^ 24 + 4))
     r.check = some .stoch ∧ ¬2 ^ 40 ≤ r.elem + 63) := by
  unfold State.firing; decide +kernel

theorem meets_SpecialFunctionResults : State.reset.firing [.sf] ∧ (readF32 0x7FC00000#32).isNan = true ∧
    (0x80000000 < (0x80000001#32).toNat ∧ (0x80000001#32).toNat < 0xFF800000) ∧ (0x80000000 < (0xFF7FFFFF#32).toNat ∧ (0xFF7FFFFF#32).toNat < 0xFF800000) := by
  unfold State.firing; decide +kernel

theorem meets_ReadThenRound : (readF32 0x00000001#32).isNan = false ∧ (readF32 0xFF800000#32).isNan = false ∧
    (0x7F800000#32).toNat % 2 ^ 13 = 0 ∧ (readF19 0x7F800000#32).isNan = false ∧ (0x2000#32).toNat % 2 ^ 13 = 0 ∧ (readF19 0x2000#32).isNan = false := by
  decide +kernel

/-- A product is being issued with the parameters at their places, the counters and the words of a store. -/
def multiplying (sel : BitVec 7) (b : Word) (mp3 : Word) (head tail : Nat) : State :=
  let L : Word := 0x1000000000000000
  issuing .mx sel b (formed.mapTile 0 fun t => { t with mx := { t.mx with
    mp := Vector.ofFn fun i => [L, L, 0, mp3, L, L, L, 0].getD i.val 0, head := head, tail := tail
    directory := Table.put t.mx.directory 0 (2 ^ 63) } })

theorem meets_MatrixRoutinesStart :
    let s (k n tail : Nat) : State := multiplying 0 0 (BitVec.ofNat 64 (k * 2 ^ 24 + n)) 0 tail
    let ok (sel k tail : Nat) : Bool :=
      let f := standardForm sel
      let F := if f.rowMajor then k + 32 else if f.scaled then k + 2 else k
      let t := s k (F + 14) tail
      let m := (t.tile 0).mx
      mxFormats m.fmt == some (.bf16, .bf16, 0) && t.routineAddressFault 0 0 (routinePointers f m .bf16 .bf16 (max k 1)) == none &&
      decide ((m.mp.getD 3 0).toNat < 2 ^ 45) && decide (k ≠ 0) && decide (k < 2 ^ 16) && (!f.outer || k == 1) &&
      (!f.perturbed || decide ((t.tile 0).gn.elem.toNat + 64 * k ≤ 2 ^ 40)) &&
      decide ((m.mp.getD 3 0).toNat % 2 ^ 24 = F + 14) && decide (if f.accumulates then m.occupancy ≠ 0 else m.occupancy < 8)
    (s 1 15 0).firing [.mx] ∧ ((s 1 15 0).trigOf [.mx]).site = 0 ∧ (∀ sel < 16, ok sel 1 (if sel % 2 = 1 then 1 else 7) = true) ∧
    ok 0 1024 0 = true ∧ ((s 1 15 0).tile 0).mx.routineStart 0x10 = some 0 ∧
    (let b := ((multiplying 0 0x2F 0 0 0).trigOf [.mx]).b
     0x10 ≤ b.toNat ∧ b.toNat < 0x30) ∧ ((multiplying 0 0x0F 0 0 0).trigOf [.mx]).b.toNat < 0x10 ∧
    0x10 ≤ (multiplying 0x10 0 0 0 0).curSlot.sel.toNat := by
  unfold State.firing; decide +kernel

theorem meets_MatrixChecks :
    let s (mp3 : Word) (head tail : Nat) : State := multiplying 0 0 mp3 head tail
    let m (t : State) : MxState := (t.tile 0).mx
    (s 0 0 0).firing [.mx] ∧ mxFormats (some (BitVec.allOnes 64)) = none ∧ mxFormats (m (s 0 0 0)).fmt ≠ none ∧
    (formed.routineAddressFault 0 0 (routinePointers (standardForm 0) (formed.tile 0).mx .bf16 .bf16 1)).isSome = true ∧
    (s 0x100000F 0 0).routineAddressFault 0 0 (routinePointers (standardForm 0) (m (s 0x100000F 0 0)) .bf16 .bf16 1) = none ∧
    2 ^ 45 ≤ ((m (s (2 ^ 45) 0 0)).mp.getD 3 0).toNat ∧ ((m (s 15 0 0)).mp.getD 3 0).toNat / 2 ^ 24 % 2 ^ 16 = 0 ∧
    ((standardForm 14).outer = true ∧ ((m (s 0x200000F 0 0)).mp.getD 3 0).toNat / 2 ^ 24 % 2 ^ 16 ≠ 1) ∧
    ((standardForm 6).perturbed = true ∧ 2 ^ 40 < ((2 ^ 40 - 63 : Word)).toNat + 64 * 1) ∧
    ((m (s 0x100000E 0 0)).mp.getD 3 0).toNat % 2 ^ 24 ≠ 1 + 14 ∧ ((standardForm 1).accumulates = true ∧ (m (s 0 3 3)).occupancy = 0) ∧
    ((standardForm 0).accumulates = false ∧ 8 ≤ (m (s 0 8 0)).occupancy) ∧ (m (s 0 0 0)).routineStart 0x11 = none ∧
    (m (s 0 0 0)).routineStart 0x10 ≠ none ∧ ((multiplying 0 0x30 0 0 0).trigOf [.mx]).b.toNat = 0x30 := by
  unfold State.firing; decide +kernel

theorem meets_MatrixControlsAndEpilogue :
    let b (w : Word) : Nat := ((multiplying 0 w 0 0 0).trigOf [.mx]).b.toNat
    let m : MxState := (formed.tile 0).mx
    let L : Word := 0x1000000000000000
    let ready : State := formed.mapTile 0 fun t => { t with mx := { t.mx with tail := 1, notReady := [] } }
    b 15 < 16 ∧ 16 ≤ b 16 ∧ b 3 < 4 ∧ 4 ≤ b 4 ∧ b 0x41F ≤ 0x41F ∧ 0x41F < b 0x420 ∧ (m.fetchEnd ≤ 0 ∧ m.unready = false) ∧
    ({ m with tail := 1 } : MxState).unready = true ∧ microWordOk 0 = true ∧ microWordOk (BitVec.allOnes 64) = false ∧
    formed.firing [.ep] ∧ (epWords 0 0).isSome = true ∧ epWords 4 0 = none ∧
    ((operandCells .ep 0).find? fun c => formed.badRegs.contains (0, c)) = none ∧ ((operandCells .ep 4).find? fun c => formed.badRegs.contains (0, c)) = none ∧
    (let s : State := { formed with badRegs := (operandCells .ep 0).map fun c => (0, c) }
     ((operandCells .ep 0).find? fun c => s.badRegs.contains (0, c)).isSome) = true ∧
    formed.drainReason 0 0 .rows .f32 L 256 = none ∧ (formed.drainReason 0 0 .rows .f32 L 255).isSome = true ∧
    (ready.tile 0).mx.headReady 1 = true ∧ (formed.tile 0).mx.headReady 1 = false ∧ b 31 < 32 ∧ 32 ≤ b 32 := by
  unfold State.firing; decide +kernel

/-- A product in its first cycle of fetching; a slot whose rows are due; a drain in its first line. -/
theorem meets_MatrixEvents :
    let at_ (s : State) (k : Nat) : State := s.mapDomain 0 fun d => { d with dcc := k }
    let fetching : State := at_ ((Result.state? (exec .mxMm (multiplying 0 0 0x100000F 0 0))).getD State.reset) 1
    let drains : State := at_ ((Result.state? (exec .epDrain (issuing .ep 0 0 (formed.mapTile 0 fun t => { t with
      mx := { t.mx with tail := 1, notReady := [] }, ep := { t.ep with dst := 0x1000000000000000, o1 := 256 } })))).getD State.reset) 11
    fetching.slotOf 0 = some 0 ∧ fetching.losers.contains (4, 0, 1) = false ∧
    ((fetching.tile 0).mx.line (fetching.domain 0).dcc 1).any (fun x => ((fetching.tile 0).mx.routines[x.1]?).any (fun r => r.form.micro == none) &&
      fetching.resolve 0 0 [1, 2] x.2.ptr == .sram 0 0 && !fetching.sramBad 0 0 x.2.bytes) = true ∧
    ({ slot := 7, form := standardForm 12, row := 31, lines := [], due := 0 } : SlotReady).slot < 8 ∧
    drains.slotOf 0 = some 0 ∧ drains.losers.contains (5, 0, 0) = false ∧
    ((drains.tile 0).ep.writing (drains.domain 0).dcc).any (fun x => !drains.sramPartial 0 (ptrOffset (x.1.linePtr x.2)) (x.1.lineData x.2).1.length)
      = true := by
  decide +kernel

/-- The state after an instruction. -/
def ran (i : Instr) (s : State) : State := (Result.state? (exec i s)).getD State.reset

/-- The domain of slot 0 at a DCC and a pulse. -/
def atCycle (s : State) (k : Nat) : State := s.mapDomain 0 fun d => { d with dcc := k, pulses := k }

theorem meets_PortableMatrix :
    let L : Word := 0x1000000000000000
    let s (tail : Nat) : State := (withRegs L L 0 0).mapTile State.reset.portable.site fun t => { t with mx := { t.mx with tail := tail, notReady := [] } }
    let u : Tile := (s 7).tile State.reset.portable.site
    let s1 : State := (s 7).mapTile State.reset.portable.site fun t => t.portParameters L L 0 255 0
    u.stopped = false ∧ u.wedged = false ∧ (s 7).badWords = [] ∧ u.mx.headNext = none ∧ u.mx.tailNext = none ∧ (s 7).memoryCanonical ∧
    u.mx.occupancy < 8 ∧ u.mx.occupancy ≠ 0 ∧ (255 : BitVec 8) ≠ 0 ∧
    (let m := (s1.tile State.reset.portable.site).mx
     (mxFormats m.fmt).any (fun f => s1.routineAddressFault (s 7).portSlot State.reset.portable.site (routinePointers (standardForm 1) m f.1 f.2.1 255)
        == none) = true) ∧
    (epWords u.ep.act u.ep.ofmt).any (fun w => (s 7).drainReason (s 7).portSlot State.reset.portable.site .rows w.2.1 L 256 == none) = true ∧
    u.mx.headReady (((s 7).domain (s 7).portSlot).dcc + 1) = true := by
  unfold State.memoryCanonical; decide +kernel

/-- Streams up to 2^24 − 1 and beyond, the last member, elements up to 2^40 − 64 and beyond, purposes up to 3 and beyond. -/
theorem meets_DrawResults :
    let s (b : Word) (member : BitVec 24) : State := issuing .gn 8 b (withTile fun t => { t with gn := { t.gn with member := member } })
    let b (w : Word) : Nat := ((s w 0).trigOf [.gn]).b.toNat
    (s 0 0).firing [.gn] ∧ b (2 ^ 24 - 1) < 2 ^ 24 ∧ 2 ^ 24 ≤ b (2 ^ 24) ∧ ((s 0 0).tile 0).gn.member ≠ 0xFFFFFF#24 ∧
    ((s 0 0xFFFFFF#24).tile 0).gn.member = 0xFFFFFF#24 ∧ b (2 ^ 40 - 64) + 63 < 2 ^ 40 ∧ 2 ^ 40 ≤ b (2 ^ 40 - 63) + 63 ∧
    (2 ^ 10 ≤ (0x400 : Word).toNat) ∧ (3 < (4 : Word).toNat % 256) ∧ ((0x303 : Word).toNat < 2 ^ 10 ∧ (0x303 : Word).toNat % 256 ≤ 3) ∧
    (State.reset.tile State.reset.portable.site).gn.next = none ∧
    ((withRegs (2 ^ 24 - 1) (2 ^ 24 - 1) 0 0).portable.gr 1).toNat < 2 ^ 24 ∧ ((withRegs (2 ^ 40 - 64) 0 0 0).portable.gr 1).toNat + 63 < 2 ^ 40 := by
  unfold State.firing; decide +kernel

/-- An operation of LA at a pointer, issued. -/
def accessing (i : Instr) (sel : BitVec 7) (p : Word) : State :=
  ran i (issuing .la sel 0 (formed.mapTile 0 fun t => { t with cap := { t.cap with la := { t.cap.la with o1 := p } } }))

/-- A load, a store and both cycles of an atomic in their banks; entry 255 of table 3; a request on the reach network. -/
theorem meets_AccessPerforms :
    let L : Word := 0x1000000000000040
    let load : State := accessing .laLd64 3 L
    let loadV : State := accessing .laLdv 4 (L + 0xC0)
    let amo : State := accessing .laAmoadd 16 L
    let second : State := ran (.accessPerform 0 0) (atCycle amo 2)
    let local_ (s : State) (p : Access → Bool) : Bool := ((s.tile 0).localAccess 0).any fun x =>
      !x.2 && x.1.pending && !s.lostAccess x.1 && s.badWords == [] && s.slotOf 0 == some 0 && Memory.wf s.mem && p x.1
    let reach : State := accessing .laLd64 3 0x3000000001000000
    local_ load (fun a => a.op == .load 8 && a.landAt.isSome && a.group == 0 && a.groups == 1) = true ∧
    local_ loadV (fun a => a.op == .loadV && a.landAt.isSome && a.group == 0 && a.groups == 1) = true ∧
    local_ amo (fun a => a.op == .amo 0 && a.landAt.isSome && a.group == 0 && a.groups == 2) = true ∧
    local_ second (fun a => a.op == .amo 0 && a.group == 1) = true ∧
    local_ (accessing .laSt64 11 L) (fun a => a.op == .store 8) = true ∧ local_ (accessing .laStv 12 (L + 0xC0)) (fun a => a.op == .storeV) = true ∧
    (let s := accessing .laTblw 0 1023
     (((s.tile 0).cap.tableWrites ++ (s.tile 0).shadow.tableWrites).find? fun w => w.id == 0).any fun w => w.table == 3 && w.entry == 255) = true ∧
    ((reach.domain 0).reach.find? (fun r => r.id == 0)).any (fun r => reach.reachHolder 0 r (r.hop + 1) == none) = true := by
  decide +kernel

/-- A gather, a scatter of rows that do not meet, and loads, stores and an atomic at another tile. -/
theorem meets_AccessPerforms_groups :
    let L : Word := 0x1000000000000040
    let far : Word := 0x3000000001000040
    let strided (i : Instr) (sel : BitVec 7) : State := ran i (issuing .la sel 0 (formed.mapTile 0 fun t =>
      { t with cap := { t.cap with la := { t.cap.la with o1 := L, msk := 0x8000000000000001 } } }))
    let local_ (s : State) (p : Access → Bool) : Bool := ((s.tile 0).localAccess 0).any fun x =>
      !x.2 && x.1.pending && !s.lostAccess x.1 && s.badWords == [] && s.slotOf 0 == some 0 && Memory.wf s.mem && p x.1
    let reach (s : State) (p : Access → Bool) : Bool := ((s.domain 0).reach.find? (fun r => r.id == 0)).any fun r =>
      ((s.tile 0).localAccess 0).isNone && r.access.pending && !s.lostAccess r.access && s.badWords == [] && Memory.wf s.mem && p r.access
    let second : State := ran (.accessPerform 0 0) (accessing .laAmocas 20 far)
    local_ (strided .laLdvx 6) (fun a => a.op == .gatherV && a.landAt.isSome && a.groups == 4 && a.group == 0) = true ∧
    local_ (strided .laStvs 13) (fun a => a.op == .scatterV && a.group == 0 && a.mask.getLsbD 0) = true ∧
    reach (accessing .laLd16 1 far) (fun a => a.op == .load 2 && a.landAt.isSome && a.groups == 1 && a.group == 0) = true ∧
    reach (accessing .laLdv 4 (far + 0xC0)) (fun a => a.op == .loadV && a.landAt.isSome && a.groups == 1 && a.group == 0) = true ∧
    reach (accessing .laAmocas 20 far) (fun a => a.op == .amo 4 && a.landAt.isSome && a.groups == 2 && a.group == 0) = true ∧
    reach second (fun a => a.op == .amo 4 && a.group == 1) = true ∧
    reach (accessing .laSt64 11 far) (fun a => a.op == .store 8 && a.landAt == none && a.groups == 1 && a.group == 0 && !a.op.lands) = true ∧
    reach (accessing .laStv 12 (far + 0xC0)) (fun a => a.op == .storeV) = true := by
  decide +kernel

/-- A result of a shadow socket that runs on, a load, and a result of GN, each due; a socket whose clock stands still. -/
theorem meets_ResultsLand_more :
    let r : InFlight := ⟨4, some (.s 7), none, 0, false, none⟩
    let supervisor : State := atCycle (formed.mapTile 0 fun t =>
      let t := t.setPipe .ib { (t.pipe .ib) with flight := [r] }
      { t with inSup := true, shadow := t.cap }) 4
    let loaded : State := atCycle (ran (.accessPerform 0 0) (accessing .laLd64 3 0x1000000000000040)) 4
    let far : State := atCycle (ran (.accessPerform 0 0) (accessing .laLd64 3 0x3000000001000040)) 100
    let gn : State := atCycle (formed.mapTile 0 fun t => t.setFlight .gn [r]) 4
    let all (s : State) : List Access := landingNow ((s.tile 0).cap.ls .la).local_ (s.capClock 0 (s.tile 0)) ++ s.remoteLandings 0 0 .la false
    supervisor.slotOf 0 = some 0 ∧ supervisor.shadowRuns 0 (supervisor.tile 0) = true ∧ ((supervisor.tile 0).shadow.pipe .ib).invalid = [] ∧
    ((supervisor.tile 0).shadow.pipe .ib).flight = [] ++ [r] ∧ r.due ≤ supervisor.shadowClock 0 (supervisor.tile 0) ∧
    ((loaded.tile 0).cap.pipe .la).flight = [] ∧ (all loaded).length = 1 ∧ (all far).length = 1 ∧
    (gn.tile 0).flight .gn = [] ++ [r] ∧ r.due ≤ gn.sockCycle 0 0 .gn ∧ (gn.domain 0).frozen = false ∧
    Sock.clocked .gn = true ∧ ((gn.mapDomain 0 fun d => { d with frozen := true }).domain 0).frozen = true := by
  decide +kernel

/-- An operation of NS with its words. -/
def sending (sel : BitVec 7) (dst o1 b : Word) (s : State) : State :=
  issuing .ns sel b (s.mapTile 0 fun t => { t with ns := { t.ns with dst := dst, o1 := o1 } })

/-- Targets that resolve and that do not, tags 127 and 128, masks 2^16 − 1 and 2^16; two items due on one link, one at its register, a deposit. -/
theorem meets_TimedMesh :
    let P : Word := 0x3000000001000000
    let s (b : Word) : State := sending 0 (P + 2) P b formed
    let b (w : Word) : Nat := ((s w).trigOf [.ns]).b.toNat
    let two : State := ran .nsSends (sending 0 (P + 2) P 7 (ran .nsSends (s 7)))
    let first : State := ran (.meshLinkHop 0 0) (atCycle two 4)
    (s 0).firing [.ns] ∧ (s 0).dstTarget 0 0 (P + 2) = .sram 4 2 ∧ (s 0).dstTarget 0 0 0 = .bad 1 ∧ (s 0).depositTarget 0 0 8 8 P = .sram 4 0 ∧
    (s 0).depositTarget 0 0 256 64 (P + 8) = .bad 3 ∧ (b 0x7FF < 2 ^ 11 ∧ 2 ^ 11 ≤ b 0x800) ∧
    (((s 0).tile 0).ns.landing 0).tag = 0 ∧ ((0x010 : Word).extractLsb' 4 7 ≠ (0 : BitVec 7)) ∧ (1 ≤ b 127 ∧ b 127 ≤ 127) ∧ 127 < b 128 ∧
    b 0xFFFF < 2 ^ 16 ∧ 2 ^ 16 ≤ b 0x10000 ∧
    ((two.domain 0).item 1).any (fun it => (atCycle two 4).linkHolder 0 it (it.hop + 1) == none) = true ∧
    ((first.domain 0).item 1).any (fun it => first.linkHolder 0 it (it.hop + 1) != none &&
      (let r := (first.hopLink 0 it (it.hop + 1)).1; (first.siteAt 0 r.1 r.2).isSome)) = true ∧
    (let now : Nat := (((two.domain 0).item 0).map (two.landCycle 0)).getD 0
     let landed : State := (atCycle two now).mapDomain 0 fun d => { d with mesh := d.mesh.map fun it =>
        if it.id = 0 then { it with hop := two.itemHops 0 it + 2 } else it }
     ((landed.domain 0).item 1).any fun it => (landed.landingHolder 0 it).isSome) = true ∧
    ((first.mapDomain 0 fun d => { d with draining := some ⟨0, false, none, [], none, none⟩ }).domain 0).draining.isSome = true ∧
    ((first.domain 0).item 0).any (fun it => first.landingHolder 0 it == none && it.payload == .scalar 2 0 7) = true ∧ (first.domain 0).draining = none ∧
    (let d : State := ran .nsDep (sending 3 (P + 2) P 7 formed)
     ({ d with losers := [(2, 0, 0)] } : State).lostDeposit 0 &&
       ((d.domain 0).item 0).any fun it => !d.lostDeposit 0 && Memory.wf d.mem && it.payload.reg == none) = true := by
  unfold State.firing; decide +kernel

/-- Tile 0 runs and its next bundle has a header and one slot. -/
def running (header slot : Nat) : State :=
  (formed.mapTile 0 fun t => { t with running := true }).writeBytes (istoreAddr 0 0) (leBytes 8 header ++ leBytes 5 slot)

/-- What tile 0 is about to issue: its bundle, the moves whose guards are true and whose sources can be read, the tile after their writes. -/
def issueParts (s : State) : Bundle × List Move × Tile :=
  let u := s.tile 0
  let b := s.nextBundle 0
  let live := ((bundleSlots b).filter fun x => u.guard x.2.guard).filter fun x => (u.readSlip x.2.src).isNone
  let ms : List Move := live.map fun x => ⟨x.1, x.2, s.readSource 0 0 u b.header u.thread.pc x.2.src⟩
  (b, ms, writeMoves (live.foldl (fun t x => t.emptied x.2.src) u) ms)

theorem meets_BundlesAndIdleRuns :
    let s : State := running 0 0x80001C5000
    let idle : State := running 0x10001 0
    let u := s.tile 0
    let b := (issueParts s).1
    let ms := (issueParts s).2.1
    s.slotOf 0 = some 0 ∧ s.canIssue 0 0 = true ∧ u.thread.idle = 0 ∧ s.bundleBad 0 0 = false ∧ s.parityErrors 0 (bundleSlots b) = [] ∧
    headerReason b u.loose = none ∧ b.kind = 0 ∧ ms.length = 1 ∧ ((bundleSlots b).filter fun x => u.guard x.2.guard).length = 1 ∧
    s.bundleReason 0 0 0 b (!u.inSup && !u.privileged) (issueParts s).2.2 u.locked (ms.map fun m => (m.number, m.slot)) (ms.map fun m => (m.number, m.slot)) = none ∧ s.holdDone 0 0 = true ∧
    (s.mapTile 0 fun t => { t with dm := { t.dm with replies :=
      [{ id := 0, done := false, due := 0, q0 := none, pred := none, acquires := false, acquired := [] }] } }).holdDone 0 0 = false ∧
    idle.canIssue 0 0 = true ∧ idle.bundleBad 0 0 = false ∧ idle.parityErrors 0 (bundleSlots (idle.nextBundle 0)) = [] ∧
    headerReason (idle.nextBundle 0) false = none ∧ (idle.nextBundle 0).kind = 1 ∧ (idle.tile 0).thread.pc < 960 ∧
    0 < ((ran (.idleRun 0) (running 0x20001 0)).tile 0).thread.idle ∧ (ran (.idleRun 0) (running 0x20001 0)).canIssue 0 0 = true := by
  decide +kernel

/-- A reserved header, an unassigned trigger of IA in slot 0, and a user's bundles in folio 15. -/
theorem meets_IllegalBundleFaults :
    let s (h x : Nat) : State := running h x
    let bad : State := s 0 0x80000057F0
    let b := (issueParts bad).1
    let past : State := ((s 0 0).mapTile 0 fun t => { t with user := { t.user with pc := 960 } }).writeBytes (istoreAddr 0 (128 * 960)) (leBytes 8 0x10001)
    (s 0xF 0).slotOf 0 = some 0 ∧ (s 0xF 0).canIssue 0 0 = true ∧ ((s 0xF 0).tile 0).thread.idle = 0 ∧ (s 0xF 0).bundleBad 0 0 = false ∧
    (s 0xF 0).parityErrors 0 (bundleSlots ((s 0xF 0).nextBundle 0)) = [] ∧ headerReason ((s 0xF 0).nextBundle 0) false = some 1 ∧
    bad.parityErrors 0 (bundleSlots b) = [] ∧ headerReason b false = none ∧ b.kind = 0 ∧
    (bad.bundleReason 0 0 0 b true (issueParts bad).2.2 (bad.tile 0).locked ((issueParts bad).2.1.map fun m => (m.number, m.slot)) ((issueParts bad).2.1.map fun m => (m.number, m.slot))).any (fun r => r.2 == 1) = true ∧
    past.canIssue 0 0 = true ∧ past.bundleBad 0 960 = false ∧ past.parityErrors 0 (bundleSlots (past.nextBundle 0)) = [] ∧
    headerReason (past.nextBundle 0) false = none ∧ (past.nextBundle 0).kind = 1 ∧ (past.tile 0).inSup = false ∧
    (past.tile 0).privileged = false ∧ (past.tile 0).thread.pc = 960 := by decide +kernel

/-- One result due and one not; a trigger that waits and may fire, and one that may not. -/
theorem meets_ResultsLand :
    let r (k : Nat) : InFlight := ⟨k, some (.s 7), none, 0, false, none⟩
    let s : State := atCycle (formed.mapTile 0 fun t => t.setPipe .ib { (t.pipe .ib) with flight := [r 9, r 4] }) 4
    let waits (locked written : Bool) : State := formed.mapTile 0 fun t =>
      ({ t with cap := { t.cap with ct := { t.cap.ct with mmask := if locked then BitVec.allOnes 17 else 0 } } }.setPipe .ib
        { (t.pipe .ib) with o1w := written, full := !written }).wait .ib ⟨0, .s 7, Origin.none⟩
    s.slotOf 0 = some 0 ∧ (s.tile 0).inSup = false ∧ (s.domain 0).frozen = false ∧ ((s.tile 0).pipe .ib).invalid = [] ∧
    ((s.tile 0).pipe .ib).flight = [r 9] ++ [r 4] ∧ (r 4).due ≤ (s.domain 0).dcc ∧ (r 4).q0 = some (.s 7) ∧
    ((waits true false).tile 0).waitingIn .ib = some ⟨0, .s 7, Origin.none⟩ ∧ (waits true false).fires 0 0 .ib ⟨0, .s 7, Origin.none⟩ = false ∧
    (waits false true).fires 0 0 .ib ⟨0, .s 7, Origin.none⟩ = true := by decide +kernel

/-- A branch whose delay bundles have issued; the ends of a loop of 2, 1 and 0 more passes; an interrupt that may be taken, and one that may not. -/
theorem meets_FlowEvents :
    let s (left lcnt : Nat) (loose : Bool) : State := withTile fun t =>
      { t with loose := loose, irqs := [⟨0, 5⟩], cap := { t.cap with ct := { t.cap.ct with lend := 0, lcnt := lcnt } } }.setThread
        { t.thread with redirects := if left = 9 then [] else [⟨left, 4⟩] }
    let h (t : State) : Thread := (t.tile 0).thread
    ((h (s 0 0 true)).redirects.find? fun r => r.left == 0) = some ⟨0, 4⟩ ∧ ((h (s 1 0 true)).redirects.find? fun r => r.left == 0) = none ∧
    ((s 0 2 true).cur.from_.bundle = ((s 0 2 true).tile 0).cap.ct.lend ∧ 2 ≤ ((s 0 2 true).tile 0).cap.ct.lcnt ∧
      ((s 0 1 true).tile 0).cap.ct.lcnt = 1 ∧ ((s 0 0 true).tile 0).cap.ct.lcnt = 0) ∧
    (let u := (s 9 0 true).tile 0
     u.irqs ≠ [] ∧ u.loose = true ∧ u.inSup = false ∧ u.cap.ct.masked = false ∧ u.user.redirects = [] ∧ u.user.idle = 0 ∧ ((s 9 0 true).nextBundle 0).kind ≠ 1) ∧
    ((running 0x10001 0).nextBundle 0).kind = 1 ∧
    ((s 9 0 false).tile 0).loose = false := by decide +kernel

/-- SV's words that the rules allow, each at an end of its range, and ones they do not. -/
theorem meets_CatwalkForms :
    let w (n ch : Nat) : SendWord := SendWord.ofWord (BitVec.ofNat 64 (ch * 256 + n))
    let u : LaunchUnit := formed.unit 0
    let P : Word := 0x3000000000000000
    let full : SvState := { Tile.reset.sv with sendBuffer := List.replicate 16 0 }
    formed.firing [.sv] ∧ formed.msgTarget 0 0 2 (P + 0x1000000) = some 4 ∧ formed.msgTarget 0 0 2 1 = none ∧ (w 16 2).ok false u = true ∧
    (w 16 1).ok true u = true ∧ (w 17 2).ok false u = false ∧ (w 0 2).ok false u = false ∧ (w 1 1).ok false u = false ∧
    Tile.reset.sv.sendBuffer.length < 16 ∧ ¬full.sendBuffer.length < 16 ∧ formed.mcastSites 0 0x10000 = some [0, 1] ∧ formed.mcastSites 0 1 = none ∧
    (formed.setDie 0 { formed.die 0 with fusedOff := [4] }).mcastSites 0 0x40004 = some [] ∧
    formed.neighbour 0 0 = some 1 ∧ formed.neighbour 0 3 = none ∧ (4 : Word).toNat = 4 ∧ (w 1 2).channel = 2 ∧ (w 1 1).channel = 1 ∧
    qsetOk false 0x202 0x1000000000000000 = true ∧ qsetOk false 2 0 = true ∧ qsetOk false 0x102 0x1000000000000000 = false ∧ qsetOk true 0xC01 0x1000000000080000 = true ∧
    Tile.reset.sv.queues.getD 0 RxQueue.reset = RxQueue.reset ∧ RxQueue.reset.presented = [] ∧
    ({ RxQueue.reset with messages := [{ id := 0, header := 5, line := 0, lines := 1, arrived := true, rest := [] }] } : RxQueue).presented.length = 1 ∧
    formed.mayName 0 false 3 0 = true ∧ formed.mayName 0 false 1 0x400 = true ∧ handleLevel 0x400 = 1 ∧ formed.cntwWordOk 0 false 0x400 0 = true ∧
    formed.mayName 0 false 1 0x800 = false ∧ formed.ftagOk 0 false 255 = true ∧ formed.ftagOk 0 false 256 = false ∧
    (ptrSpace 0x10000000000FFFE0#64 = 1 ∧ ptrMbz 0x10000000000FFFE0#64 = true ∧ (0x10000000000FFFE0#64).toNat % 2 ^ 20 % 32 = 0) ∧
    formed.slotInPartition 0 0 = true ∧ formed.slotInPartition 0 1 = false := by
  unfold State.firing; decide +kernel

/-- DM's operands: each check fails in turn, and none does; a pool form, a form whose stack is its domain's and one whose stack is another's. -/
theorem meets_EngineCommandsSent :
    let rows : Vector (Word × Word) 64 := (Vector.replicate 64 (0, 0)).setIfInBounds 0 (0x8000000000000000#64, 0)
    let s : State := formed.setUnit 0 { formed.unit 0 with userRange := rows }
    let a (word o1 o2 d0 d1 d2 d3 : Word) : DmArgs := ⟨word, o1, o2, #v[d0, d1, d2, d3]⟩
    let H : Word := 0x4000000000000000
    let S : Word := 0x1000000000000000
    let good : DmArgs := a 1 H S 32 0 0 0
    let long : DmArgs := a 1 (H + 0xE0) (S + 0xFFFE0) 64 0 0 0
    let odd : DmArgs := a 1 H S 33 0 0 0
    let walk : DmArgs := a 0 H S 0 0 (2 ^ 32 + 2 ^ 16 + 1) (2 ^ 40 - 1)
    let beyond : DmArgs := a 0 H S 0 0 (2 ^ 32 + 2 ^ 16 + 2) (2 ^ 40 - 1)
    s.firing [.dm] ∧ firstFailure (s.dmPointers 0 0 false .copy (a 1 0 0 32 0 0 0)) ≠ none ∧ firstFailure (s.dmPointers 0 0 false .copy good) = none ∧
    firstFailure (s.dmPointers 0 0 false .copy long) = none ∧ firstFailure (long.extents .copy) ≠ none ∧ firstFailure (good.extents .copy) = none ∧
    s.dmFieldsBad 0 .copy odd = true ∧ DmForm.wordOk .copy 0 16384 = false ∧ s.dmFieldsBad 0 .copy good = false ∧
    DmForm.wordOk .copy 16384 16384 = true ∧ DmForm.wordOk .copy 16385 16384 = false ∧ DmForm.isLoose .copy 1 = false ∧ DmForm.isLoose .walk 0 = true ∧
    walk.streamFault .walk = none ∧ (beyond.streamFault .walk).isSome = true ∧ s.dmFieldsBad 0 .walk beyond = false ∧
    DmForm.firstHbm .poolget good = none ∧ DmForm.firstHbm .copy good = some H ∧ s.routeStack 0 false H = some 0 ∧
    s.reduced = false ∧ ({ s with reduced := true } : State).reduced = true ∧ s.routeStack 0 false (H + 0x200000) = none ∧ s.routeStack 0 true H = none ∧ (s.domain 0).spec.owns 0 = true ∧ (s.domain 0).spec.owns 2 = false := by
  unfold State.firing; decide +kernel

/-- SY's and SH's words at the ends of their ranges, in each of the states a form asks about. -/
theorem meets_SystemAndShadowForms :
    let n (w : Word) : Nat := ((issuing .sy 0 w formed).trigOf [.sy]).b.toNat
    let un : LaunchUnit := formed.unit 0
    let held (sup group : Bool) : Tile := { Tile.reset with inSup := sup, groupHalted := group }
    let boot : State := formed.setDomain 16 { Domain.blank with boot := true }
    formed.firing [.sy] ∧ formed.firing [.sh] ∧ n 0 = 0 ∧ n 1 ≠ 0 ∧ (formed.domain 0).boot = false ∧ (formed.domain 0).frozen = false ∧
    ((formed.mapDomain 0 fun d => { d with frozen := true }).domain 0).frozen = true ∧ (held true false).inSup = true ∧ (held true true).groupHalted = true ∧
    (boot.domain 16).boot = true ∧ 0 % 1056 = 0 ∧ 1 % 1056 ≠ 0 ∧ n 127 < 128 ∧ 128 ≤ n 128 ∧ formed.rangeEntryOk 0 0 0 = true ∧
    formed.rangeEntryOk 0 1 0 = false ∧ pointerCheck [1] 64 0x1000000000000001#64 = some 3 ∧ pointerCheck [1] 64 0x10000000000FFFC0#64 = none ∧
    (0x10000000000FFFC0#64).toNat % 2 ^ 20 + 64 ≤ 2 ^ 20 ∧ pointerCheck [1] 8 0x10000000000FFFF0#64 = none ∧
    2 ^ 20 < (0x10000000000FFFF0#64).toNat % 2 ^ 20 + 24 ∧ (n 6 < 7 ∧ n 7 < 8) ∧ 8 ≤ n 8 ∧ n 16 ≤ 16 ∧
    ((formed.domain 0).dcc + 64 ≤ n 64 + (formed.domain 0).sigma ∧ n 63 + (formed.domain 0).sigma < (formed.domain 0).dcc + 64) ∧
    (0x100 ≤ n 0x1FF ∧ n 0x1FF ≤ 0x1FF) ∧ configListed 0x200 = false ∧ configListed 4 = false ∧ configListed 3 = true ∧
    formed.configOk 0 3 1 = true ∧ formed.configOk 0 3 2 = false ∧ (0x10F : Word) &&& ~~~0x10F#64 = 0 ∧ (0x10 : Word) &&& ~~~0x10F#64 ≠ 0 ∧
    n 0xFFFF < 2 ^ 16 ∧ 2 ^ 16 ≤ n 0x10000 ∧ formed.hasDomain 0 = true ∧ formed.partitionOf 0 = formed.partitionOf 0 ∧
    ({ Tile.reset with groups := 1 } : Tile).groups &&& (1 : Word).setWidth 16 ≠ 0 ∧ n 0xFFFFFFFF < 2 ^ 32 ∧ 2 ^ 32 ≤ n 0x100000000 ∧
    n 39 < 40 ∧ 40 ≤ n 40 ∧ n 63 < 64 ∧ 64 ≤ n 64 ∧ n 0x1FFFF < 2 ^ 17 ∧ 2 ^ 17 ≤ n 0x20000 ∧ un.limits = 0x101010 := by
  unfold State.firing; decide +kernel

/-- A message on its way to tile 0. -/
def message (channel : Nat) (header : Word) (n : Nat) (held placed : Bool) : Message :=
  { id := 0, head := 0, src := 1, dst := 0, channel := channel, header := header, flits := List.replicate n 7, buffered := true, taken := false,
    held := held, placed := placed, waits := [], rest := [], takeAt := 0, arriveAt := 0, writeAt := 0, written := 0 }

/-- The oldest place of a send buffer free to leave and not; queues with room, without room and closed; an install message. -/
theorem meets_CatwalkEvents :
    let queued (waits : List Outstanding) : State := { formed.mapTile 0 fun t => { t with sv := { t.sv with sendBuffer := [0, 1] } } with
      messages := [{ message 2 0 2 false false with waits := waits }] }
    let at_ (z : Nat) (ms : List Queued) (m : Message) : State := { formed.mapTile 0 fun t => { t with sv := { t.sv with
      queues := t.sv.queues.setIfInBounds 1 ⟨0x1000, z, 0, ms⟩ } } with messages := [m] }
    let arrives : State := at_ 2 [] (message 2 0 31 false false)
    let q (s : State) : RxQueue := (s.tile 0).sv.rx 2
    let loading : State := accessing .laLd64 3 0x1000000000000000
    (queued []).slotOf 0 = some 0 ∧ ((queued []).tile 0).sv.sendBuffer = [0, 1] ∧ (queued []).takable 0 = true ∧
    (({ loading with messages := (queued [⟨0, 0, false, [0]⟩]).messages } : State).takable 0) = false ∧
    arrives.message 0 = some (message 2 0 31 false false) ∧ 1 ≤ (q arrives).z ∧ (message 2 0 31 false false).lines ≤ (q arrives).free ∧
    (message 2 0 31 false false).lines = 4 ∧ (q arrives).size = 4 ∧
    (let s : State := at_ 2 [⟨0, 4, true, 5, 9, []⟩] (message 2 0 2 true false)
     (q s).free < (message 2 0 2 true false).lines ∧ (message 2 0 2 true false).lines ≤ (q s).size ∧ (q (at_ 0 [] (message 2 0 2 true false))).z = 0) ∧
    (let s : State := at_ 2 [⟨0, 1, false, 0, 0, []⟩] (message 2 0 2 false true)
     (q s).messages.find? (fun y => y.id == 0) = some ⟨0, 1, false, 0, 0, []⟩ ∧ (message 2 0 2 false true).lines = 1 ∧ 1 ≤ (q s).size ∧
     Memory.wf s.mem = true ∧ s.bankTaken 0 (q s).base 64 = false ∧ ({ s with taken := [(0, 0)] } : State).bankTaken 0 0 64 = true) ∧
    (message 1 (BitVec.ofNat 64 (0xB1 * 2 ^ 24 + 958)) 32 false false).isInstall = true ∧ (message 1 0 32 false false).isInstall = false := by
  decide +kernel

/-- The partition of island 0 formed over the domain, with one range of HBM, and a copy of 32 bytes on its way, of stated beats and at a start. -/
def copying (beats start : Nat) (s : State) : State :=
  let rows : Vector (Word × Word) 64 := (Vector.replicate 64 (0, 0)).setIfInBounds 0 (0xFE00000000000000#64, 0)
  let s : State := { s with mmc := { s.mmc with partitions := s.mmc.partitions.setIfInBounds 0 0x8000000000000001 } }
  ran .dmCopy (issuing .dm 0 (BitVec.ofNat 64 (start * 2 ^ 32 + beats)) ((s.setUnit 0 { s.unit 0 with userRange := rows }).mapTile 0 fun t =>
    { t with dm := { t.dm with o1 := 0x4000000000000000, o2 := 0x1000000000000000, dp := #v[32, 0, 0, 0] } }))

/-- The first command of the domain has a property. -/
def firstCommand (s : State) (p : Command → Bool) : Bool := (s.domain 0).commands.head?.any p

/-- A command accepted at its stack. -/
def accepted : State := ran (.dmCommandAcceptance 0 0) (copying 168 64 formed)

/-- A command delivered in time, late, with other beats, and into a slot in use. -/
theorem meets_EngineEvents_acceptance :
    let s : State := copying 168 64 formed
    let two : State := copying 168 64 accepted
    firstCommand s (fun c => c.phase == .delivery && c.form.timed && !c.loose && c.startAt == 64 && cmdBeats c.word == 168 &&
      (match s.fresh.acceptOperands 0 { c with table := s.rangeTable 0 c.supTable, rank := s.nextId } with
       | .ok ps => (c.fix ps).2 == 168 && ((s.domain 0).windowHolder (c.fix ps).1).isNone | .error _ => false) &&
      (match s.fresh.acceptOperands 0 { c with table := Vector.replicate 64 (0, 0), rank := s.nextId } with | .ok _ => false | .error _ => true)) = true ∧
    firstCommand (copying 1 64 formed) (fun c => cmdBeats c.word != 168) = true ∧ 64 < ((atCycle s 65).domain 0).dcc ∧
    ((two.domain 0).commands.any fun o => o.id != 3 && o.busyAt 64 && o.sameSlot 0 0 0) = true ∧ ((two.domain 0).command 3).isSome = true := by
  decide +kernel

/-- An accepted command that waits on nothing, one that waits on a busy slot; its sector read and written, its line. -/
theorem meets_EngineEvents_course :
    let waiting : State := accepted.mapDomain 0 fun d => { d with commands := d.commands ++ d.commands.map fun c => { c with id := 2, word := c.word ||| 0x80000000#64 } }
    let read : State := ran (.hbmSectorPerform 0 0 0) accepted
    firstCommand accepted (fun c => c.phase == .accepted && !cmdWaits c.word && c.blocks.length == 1 && c.split == 1) = true ∧
    (((waiting.domain 0).command 2).any fun c => cmdWaits c.word && (waiting.domain 0).commands.any fun o =>
      o.id != 2 && o.busyAt c.startAt && o.sameSlot c.stack (cmdWaitEngine c.word) (cmdWaitSlot c.word)) = true ∧
    accepted.hbmBad 0 = false ∧ accepted.checkWrite 0 32 = .fine ∧
    firstCommand accepted (fun c => ({ c with split := 0, buffer := [(0, List.replicate 32 1)] } : Command).outBytes ⟨0, 0, 0, 32, 0, 0, 0⟩ 0 0 ==
      some (List.replicate 32 1)) = true ∧
    firstCommand read (fun c => c.linePlace 0 == some (0, 0, 32, true) && ((c.lineBytes 0).map (·.length)) == some 32) = true ∧
    read.losers.contains (3, 0, 0) = false ∧ ({ read with losers := [(3, 0, 0)] } : State).losers.contains (3, 0, 0) = true := by
  decide +kernel

/-- A loose command at its window; a transfer that ends. -/
theorem meets_EngineEvents_loose :
    let b : Block := ⟨0, 0, 0, 32, 0, 0, 0⟩
    let one (f : Command → Command) : State := accepted.mapDomain 0 fun d => { d with commands := d.commands.map f }
    let loose : State := atCycle (one fun c => { c with phase := .untimed, need := .block b false }) 60
    let copy : State := ((one fun c => { c with form := .ucopy, phase := .untimed, work := [5], need := .ending 0 }).mapTile 0 fun t =>
      { t with running := true }).mapDomain 0 fun d => { d with launch := some ⟨0, 0, 0, 0, none, true, none, 0, 0, false, 0⟩ }
    refreshWindow 16 = false ∧ refreshWindow 304 = true ∧ (loose.windowCycle 0 + 4) / 4 = 16 ∧ (loose.domain 0).frozen = false ∧ b.stack = 0 ∧ locChannel b.loc < 64 ∧ b.bank = 16 % 16 ∧
    loose.domains.map (·.1) = [0] ∧ (loose.domain 0).commands.length = 1 ∧
    firstCommand loose (fun c => ((loose.domain 0).command c.id).isSome && c.phase == .untimed && c.need == .block b false) = true ∧
    copy.slotOf 0 = some 0 ∧ (copy.unit 0).away = [] ∧
    firstCommand copy (fun c => ((copy.domain 0).commands.find? (fun o => o.site == 0 && o.form == .ucopy && o.work.contains 5 &&
      (match o.need with | .ending t => decide (t ≤ (copy.domain 0).dcc) | _ => false)) |>.any (·.id == c.id)) && c.work == [5] && c.need == .ending 0 &&
      copy.taskRuns 0 c) = true ∧
    firstCommand (one fun c => { c with form := .ucopy, phase := .untimed, work := [5], need := .nothing, block := [0, 0, 0, 0x10000] }) (fun c =>
      c.endpoint != 0 && decide (c.copyLength ≤ c.progress) && c.work.contains 5) = true ∧
    firstCommand (one fun c => { c with phase := .untimed, need := .line false 0 0 32 }) (fun c => c.phase == .untimed && c.need == .line false 0 0 32) = true ∧
    ({ accepted with taken := [(0, 0)] } : State).bankTaken 0 0 32 = true := by decide +kernel

/-- The accepted command, changed; a property of a command with a number. -/
def commanded (f : Command → Command) : State := accepted.mapDomain 0 fun d => { d with commands := d.commands.map f }
def holds (s : State) (id : Nat) (p : Command → Bool) : Bool := ((s.domain 0).command id).any p

/-- A command for windows that another has claimed; index and value lines; the sectors of a timed gather; an element before and after its read,
at a live word, and after one that failed. -/
theorem meets_EngineEvents_timed :
    let P : Word := 0x4000000000000000
    let other : State := copying 168 64 (commanded fun c => { c with word := c.word ||| 0x100000#64, startAt := 0, busyUntil := 0 })
    let gather (o1 : Word) : State := commanded fun c => { c with form := .gath, o1 := o1, dp := #v[0x1000000000000000, 1, 0, 0] }
    let reduce (f : Command → Command) : State := commanded fun c =>
      f { c with form := .radd, o1 := P, dp := #v[0xA0001, 0, 0, 0], buffer := [(0, leBytes 4 7), (2 ^ 20, leBytes 4 1)] }
    let live (s : State) : State := s.setLive 0 true
    holds other 3 (fun c => match other.fresh.acceptOperands 0 { c with table := other.rangeTable 0 c.supTable, rank := other.nextId } with
      | .ok ps => ((other.domain 0).windowHolder (c.fix ps).1).any fun x => x.1.id == 0 && x.1.phase == .accepted
      | .error _ => false) = true ∧
    holds (gather P) 0 (fun c => c.phase != .untimed && c.linePlace 0 == some (0, 0, 4, false) &&
      (gather P).translateElement 0 c c.o1 0 32 false true == .ok 0 && !(gather P).hbmBad (hbmLoc (ptrSpace c.o1) 0)) = true ∧
    holds (gather P) 0 (fun c => (gather P).translateElement 0 { c with index := [(0, 2 ^ 40)] } c.o1 (32 * 2 ^ 40) 32 false true == .bad 1) = true ∧
    (gather P).losers.contains (3, 0, 0) = false ∧ (gather P).sramBad 0 0 4 = false ∧ Memory.wf (gather P).mem = true ∧
    holds (reduce id) 0 (fun c => c.phase != .untimed && c.bad.isEmpty && c.linePlace 0 == some (0, 0, 4, false) && c.valueLines == 1 &&
      (reduce id).reduceAddress 0 c 0 == .ok 0 && !(reduce id).hbmBad 0 && (reduce id).checkWrite 0 4 == .fine &&
      (Table.find c.buffer (2 ^ 20)).isSome && c.valueBytes 0 == some (leBytes 4 7)) = true ∧
    (live (reduce id)).liveBarrier 0 = true ∧ holds (reduce fun c => { c with bad := [0] }) 0 (fun c => !c.bad.isEmpty) = true ∧
    holds (reduce fun c => { c with dp := #v[0xA0001, 1, 0, 0], index := [(0, 2 ^ 40)] }) 0 (fun c => match (reduce id).reduceAddress 0 c 0 with
      | .bad _ => c.bad.isEmpty | .ok _ => false) = true ∧
    Fmt.ofCode 0x0A = some .i32 ∧ Fmt.i32 ≠ .f32 := by
  decide +kernel

/-- Lines that a gather, a walk and a copy write; sectors of granted windows: of a gather, of a walk's offsets in order and not, of its vertices within
range and not, of an element; barrier words live and not; an untimed copy's over a live word and not. -/
theorem meets_EngineEvents_untimed :
    let P : Word := 0x4000000000000000
    let b : Block := ⟨0, 0, 0, 32, 0, 0, 0⟩
    let line (f : Command → Command) : State := commanded fun c => f { c with phase := .untimed, need := .line true 0 0 32 }
    let granted (f : Command → Command) : State := commanded fun c => f { c with phase := .untimed, need := .block b true, o1 := P }
    let walk (stage : Nat) (data : List Byte) : State := granted fun c =>
      let c := { c with form := .walk, blocks := [], progress := stage, work := [0, 1, 0], dp := #v[P, 0, 0x0000000400010001, 0] }
      { c with buffer := [(0, data)], need := .block ⟨0, 0, 0, 4, 0, 0, 0⟩ true }
    let at_ (s : State) (p : Command → Bool) : Bool := holds s 0 fun c => c.phase == .untimed && p c
    let data (s : State) (c : Command) : List Byte := c.buffer.flatMap (·.2) ++ s.readBytes 0 4
    at_ (line fun c => { c with form := .gathl, dp := #v[0, 1, 0, 0], buffer := [(0, List.replicate 32 1)] }) (fun c => c.fullLine == some 0) = true ∧
    at_ (line fun c => { c with form := .walk, index := [(0, 5)] }) (fun c => c.form == .walk) = true ∧
    at_ (line fun c => { c with form := .ucopy, block := [0, 0, 32, 0], buffer := [(0, List.replicate 32 1)] }) (fun c => c.form == .ucopy) = true ∧
    (line id).bankTaken 0 0 32 = false ∧ (line id).sramPartial 0 0 32 = false ∧ Memory.wf (line id).mem = true ∧
    (let s : State := granted fun c => { c with form := .gathl, dp := #v[0, 1, 0, 0], index := [(0, 0)], work := [0], need := .block { b with hi := 256 } true }
     at_ s (fun c => c.index.contains (0, 0) && c.work.contains 0 && s.translateElement 0 c c.o1 0 32 false false == .ok 0) && 32 * 0 + 32 < 256) = true ∧
    at_ (walk 2 (leBytes 8 9 ++ leBytes 4 3)) (fun c => c.blocks.isEmpty && c.progress == 2 &&
      decide (leNat ((data (walk 2 (leBytes 8 9 ++ leBytes 4 3)) c).drop 8) < leNat ((data (walk 2 (leBytes 8 9 ++ leBytes 4 3)) c).take 8))) = true ∧
    at_ (walk 2 (leBytes 8 0 ++ leBytes 4 3)) (fun c => leNat ((data (walk 2 (leBytes 8 0 ++ leBytes 4 3)) c).drop 8) == 3 &&
      [0, 1, 2].all fun i => match (walk 2 []).translateElement 0 c (c.args.d 0) (4 * i) 4 false false with | .ok _ => true | .bad _ => false) = true ∧
    at_ (walk 3 []) (fun c => c.progress == 3 && decide (leNat (data (walk 3 []) c) < c.args.vertices) && decide ((c.args.steps + 1) * c.args.walks ≤ 1 + 1)) = true ∧
    at_ (walk 3 (leBytes 4 9)) (fun c => c.progress == 3 && decide (c.args.vertices ≤ leNat (data (walk 3 (leBytes 4 9)) c))) = true ∧
    (let s : State := granted fun c => { c with form := .radd, work := [0], dp := #v[0xA0001, 0, 0, 0], buffer := [(0, leBytes 4 7)] }
     at_ s fun c => s.reduceAddress 0 c 0 == .ok 0 && s.elementFine c 0 && c.valueBytes 0 == some (leBytes 4 7)) = true ∧
    (granted fun c => { c with form := .barr }).liveWord 0 = false ∧ ((granted fun c => { c with form := .bchk }).setLive 0 true).liveWord 0 = true ∧
    at_ ((granted fun c => { c with form := .barr, word := 1 }).setLive 0 true) (fun c => c.form == .barr) = true ∧
    at_ (granted fun c => { c with form := .bset, o2 := 0 }) (fun c => c.form == .bset && !c.o2.getLsbD 4) = true ∧ (granted id).hbmBad 0 = false ∧
    at_ ((granted fun c => { c with form := .ucopy, block := [0, P, 32, 0], buffer := [(0, List.replicate 32 1)] }).setLive 0 true) (fun c => c.bad.isEmpty) = true ∧
    ((granted id).setLive 0 true).liveBarrier 0 = true ∧ (granted id).checkWrite 0 32 = .fine := by
  decide +kernel

/-- The pool with nothing taken, within the quota and at it; a barrier that stands and none; the forms of its commands. -/
theorem meets_EngineEvents_pool :
    let asks (f : Command → Command) : State := commanded fun c => f { c with phase := .delivery, loose := true }
    let quota (n : Nat) (s : State) : State := { s with mmc := { s.mmc with partitions := s.mmc.partitions.setIfInBounds 0 (BitVec.ofNat 64 (2 ^ 63 + n * 2 ^ 48 + 1)) } }
    let h : Word := 0x80000400000007F8
    let held : State := { quota 2 (asks fun c => { c with form := .barr, o1 := h, word := 1 }) with pool := [(255, ⟨3, 2, 0, []⟩)] }
    holds (asks fun c => { c with form := .poolget, o1 := 5, o2 := 0 }) 0 (fun c => c.phase == .delivery && c.o2 == 0 && c.form == .poolget) = true ∧
    (quota 0 (asks id)).poolQuota 0 = 0 ∧ (quota 2 (asks id)).poolQuota 0 = 2 ∧ (asks id).pool = [] ∧ (asks id).partitionOf 0 = some 0 ∧
    isPoolHandle h = true ∧ poolIndex h = 255 ∧ Table.find held.pool 255 = some ⟨3, 2, 0, []⟩ ∧ Table.find (asks id).pool 255 = none ∧
    held.partitionOf 0 = some 0 ∧ holds held 0 (fun c => c.loose && c.o1 == h && c.form == .barr) = true ∧
    (accepted.setDie 0 { accepted.die 0 with away := 3 }).stackHeld 0 = true ∧ accepted.stackHeld 0 = false := by
  decide +kernel

/-- Numbers from one on that rise. -/
def rising : Nat → List Nat → Bool
  | _, [] => true
  | lo, a :: l => decide (lo ≤ a) && rising (a + 1) l

theorem rising_nodup (l : List Nat) : ∀ lo, rising lo l = true → l.Nodup ∧ ∀ x ∈ l, lo ≤ x := by
  induction l with
  | nil => simp
  | cons a l ih =>
    intro lo h
    have ⟨g, k⟩ : lo ≤ a ∧ rising (a + 1) l = true := by simpa [rising] using h
    have ⟨n, m⟩ := ih _ k
    refine ⟨List.nodup_cons.2 ⟨fun c => by have := m a c; omega, n⟩, fun x c => ?_⟩
    rcases List.mem_cons.1 c with rfl | c
    · exact g
    · have := m x c; omega

/-- No site of the domain is named twice. -/
theorem meets_sites : (formed.domainSites 0).Nodup ∧ 0 ∈ formed.domainSites 0 ∧ formed.slotOf 0 = some 0 :=
  ⟨(rising_nodup _ 0 (by decide +kernel)).1, by decide +kernel, by decide +kernel⟩

/-- A watchdog with a tile that is late and with none; requests whose quantum every tile has passed, and that one has not. -/
theorem meets_PierAndDesk :
    let late : State := formed.mapDomain 0 fun d => { d with pier := { d.pier with firstArrival := some 5 } }
    let asks (marks : List DeskMark) : State := { formed.mapDomain 0 fun d => { d with desk := { d.desk with pool := 10, marks := marks } } with
      requests := [{ id := 0, site := 0, slot := 0, request := .desk (.request 0 0 0 4), buffered := false, taken := true, waits := [], rest := [], takeAt := 0, arriveAt := 0 }] }
    (late.domain 0).pier.firstArrival = some 5 ∧ ((late.domainSites 0).find? fun k => !((late.tile k).arrived || (late.tile k).halted)) = some 0 ∧
    (formed.domain 0).pier.firstArrival = none ∧ formed.deskHead 0 = none ∧ ((asks []).deskHead 0).any (fun x => x.2 == .request 0 0 0 4) = true ∧
    ((asks []).domain 0).desk.requests = [] ∧ ((asks []).domain 0).desk.marks = [] ∧ (asks []).siteOfFlat 0 (0 % 8192) = some 0 ∧
    ∀ k ∈ formed.domainSites 0, ∃ o ∈ (formed.domainSites 0).map fun n => DeskMark.ended (formed.flat 0 n) 0,
      o.tile = formed.flat 0 k ∧ o.passes 0 0 = true :=
  ⟨by decide +kernel, by decide +kernel, by decide +kernel, by decide +kernel, by decide +kernel, by decide +kernel, by decide +kernel,
    by decide +kernel, fun k h => ⟨_, List.mem_map_of_mem h, rfl, rfl⟩⟩

/-- An event on record: a slip of cycle 4. -/
def slipAt (due slot : Nat) : Event := ⟨0x3005, slot, due, 0, false, true, due, 0, 0, 0, 0, [], 0⟩

/-- A tile without an event, with one of this cycle, with an earlier one; a plan and none; a frozen domain, a drained one, boot state. -/
theorem meets_TakingAFault :
    let s (e : Option Event) (f : Domain → Domain) : State := (formed.mapTile 0 fun t => { t with event := e }).mapDomain 0 f
    (formed.domain 0).boot = false ∧ (formed.domain 0).frozen = false ∧ (formed.domain 0).draining = none ∧ (formed.tile 0).event = none ∧
    ((s (some (slipAt 0 3)) id).tile 0).event = some (slipAt 0 3) ∧ (slipAt 0 3).due = (formed.domain 0).dcc ∧ (slipAt 0 2).before (slipAt 0 3) = true ∧
    (slipAt 0 3).before (slipAt 0 2) = false ∧ (formed.domain 0).plan = none ∧
    ((s none fun d => { d with plan := some ⟨0, 40, 0, 0x3005, 0, .fault⟩ }).domain 0).plan ≠ none ∧
    ((s none fun d => { d with plan := some ⟨0, 90, 0, 0x6002, 0, .debug⟩, stepUntil := some 90 }).domain 0).stepUntil ≠ none ∧ 0 + 40 < 90 ∧
    ((s none fun d => { d with draining := some ⟨0, true, none, [], none, none⟩ }).domain 0).draining = some ⟨0, true, none, [], none, none⟩ ∧
    ((s none fun d => { d with draining := some ⟨0, false, none, [], none, none⟩ }).domain 0).draining = some ⟨0, false, none, [], none, none⟩ ∧
    ((s none fun d => { d with frozen := true }).domain 0).frozen = true ∧ ((s none fun d => { d with boot := true }).domain 0).boot = true := by
  decide +kernel

/-- A freeze that is due, with an event and without; a domain that may resume, and one that may not; a raised member of a halt group. -/
theorem meets_FreezeAndReturn :
    let planned : State := formed.mapDomain 0 fun d => { d with plan := some ⟨0, 40, 0, 0x3005, 0, .fault⟩ }
    let frozen : State := formed.mapDomain 0 fun d => { d with frozen := true }
    (planned.domain 0).plan = some ⟨0, 40, 0, 0x3005, 0, .fault⟩ ∧ (planned.domain 0).frozen = false ∧ FreezeUse.fault ≠ .cancel ∧
    frozen.mayResume 0 = false ∧ (frozen.domain 0).mergedPreempt = false ∧ (frozen.domain 0).stopNext = [] ∧ (formed.tile 0).inSup = false ∧
    (formed.domain 0).draining = none ∧ (formed.domain 0).boot = false ∧ (frozen.domain 0).frozen = true ∧
    (let halted (e : Option Event) (at_ : Option Nat) (sup : Bool) : Tile := { Tile.reset with event := e, haltAt := at_, inSup := sup }
     let e : Event := ⟨0x6003, 0xFF, 0, 0, false, true, 0, 0, 0, 0, 0, [], 0⟩
     (halted none none true).haltAt = none ∧ (halted none none true).inSup = true ∧ (halted (some (slipAt 0 3)) (some 0) false).haltAt = some 0 ∧
     (slipAt 0 3).cause ≠ 0x6003 ∧ (halted (some e) (some 0) false).event = some e ∧ e.cause = 0x6003) := by decide +kernel

/-- Every tile of the domain in its supervisor context and ready to return. -/
def returning (merged : Bool) : State :=
  filledWith (formed.mapDomain 0 fun d => { d with frozen := true, mergedPreempt := merged }) (formed.domainSites 0) { Tile.reset with inSup := true, ready := true }
theorem meets_resumption : ∀ b, (returning b).mayResume 0 = true := by
  intro b
  have e : (returning b).domainSites 0 = formed.domainSites 0 := by cases b <;> decide +kernel
  have t : ∀ k ∈ formed.domainSites 0, (returning b).tile k = { Tile.reset with inSup := true, ready := true } := fun k h => tile_filled _ _ _ k h
  have o : (returning b).supervisorOpen 0 = false := by
    have w : ((returning b).domain 0).writes = [] := by cases b <;> decide +kernel
    unfold State.supervisorOpen
    dsimp only
    rw [w, e]
    simp only [List.isEmpty_nil, Bool.not_true, Bool.false_or, List.any_eq_false]
    intro k h
    rw [t k h]
    decide
  unfold State.mayResume
  dsimp only
  rw [o, e]
  have a : (formed.domainSites 0).all (fun k => ((returning b).tile k).ready && !((returning b).tile k).wedged) = true :=
    List.all_eq_true.2 fun k h => by rw [t k h]; rfl
  have d : (formed.domainSites 0).all (fun k => !((returning b).tile k).debugHeld) = true := List.all_eq_true.2 fun k h => by rw [t k h]; rfl
  rw [a, d]
  cases b <;> decide +kernel

/-- The domain in a partition of its island, its range table holding the first 2 MiB of HBM, and entry 255 of its unit. -/
def entered (e : ArmEntry) : State :=
  let s : State := { formed with mmc := { formed.mmc with partitions := formed.mmc.partitions.setIfInBounds 0 0x8000000000000001 } }
  s.setUnit 0 { s.unit 0 with
    userRange := (Vector.replicate 64 (0, 0)).setIfInBounds 0 (0xFE00000000000000#64, 0), entries := [(255, e)] }

/-- An entry of each state that a clause asks about, of either source, with and without a legal image; its patience at its end. -/
theorem meets_EntryEvents :
    let e (st : EntryState) (w0 : Word) : ArmEntry := { ArmEntry.reset with state := st, w0 := w0 }
    let s (st : EntryState) (w0 : Word) : State := entered (e st w0)
    (s .armed 0).entry 0 255 = e .armed 0 ∧ (e .running 0).state ≠ .free ∧ (e .running 0).state ≠ .armed ∧
    (0x1000000000000000 : Word).getLsbD 60 = true ∧ (s .free 0).entryRegion 0 ((e .free 0).setWord 0 0x1000000000000000) = some 0 ∧
    (s .free 0).entryRegion 0 ((e .free 0).setWord 0 0x1000000100000000) = none ∧ (s .armed 0).entryRegion 0 ((e .armed 0).setWord 1 128) = some 0 ∧
    (s .armed 0).entryRegion 0 ((e .armed 0).setWord 1 1) = none ∧ ((s .armed 0).domain 0).launch = none ∧
    counterC ((s .armed 0).counter (launchHandle 0 255)) = false ∧
    counterC ((((s .armed 0).setUnit 0 { (s .armed 0).unit 0 with counters := [(255, 0x4000000000000000)] })).counter (launchHandle 0 255)) = true ∧
    (e .armed 0).source = 0 ∧ (e .armed 0x0100000000000000).source = 1 ∧ (s .armed 0).staged 0 = false ∧ (e .armed 0x0400000000000000).userFires = true ∧
    ((e .waiting 0).patience < (e .waiting 0).passes + 1 ∧ (e .waiting 0).patience < 2047) ∧ (e .waiting 0x003FF80000000000).patience = 2047 := by
  decide +kernel

/-- A counter at 1 with a decrement due, at 0 with its propagation due, cancelled and not; entries under a handle and none. -/
theorem meets_CounterEvents :
    let h : Word := launchHandle 0 255
    let s : State := entered { ArmEntry.reset with state := .armed }
    let u : LaunchUnit := { s.unit 0 with counters := [(255, 1)], decrementsNow := [(255, false, true)], zeroedNow := [(255, 0)] }
    handleSlot h = 0 ∧ h.toNat < 2 ^ 16 ∧ handleSlot 0xFFFF#64 = 15 ∧ (s.unit 0).zeroedNow.find? (fun z => z.1 == h) = none ∧
    u.decrementsNow.find? (fun z => z.1 == h) = some (255, false, true) ∧ u.zeroedNow.find? (fun z => z.1 == h) = some (h, 0) ∧
    counterParent (0 : Word) = 0 ∧ counterC (0 : Word) = false ∧ counterC 0x4000000000000000#64 = true ∧ handleOk h = true ∧ handleLevel h = 0 ∧
    s.cancelled 0 h = [(0, handleIndex h)] ∧ (s.entry 0 (handleIndex h)).state = .armed ∧ handleOk 0x400#64 = true ∧ handleLevel 0x400#64 ≠ 0 ∧
    s.cancelled 0 0x400#64 = [] ∧
    (let child : Word := 0x0000000100000000
     counterParent child = 1 ∧ counterParent child ≠ 0 ∧ s.unitAwake (handleSlot (counterParent child)) = false ∧
     ({ s with pulsing := [0] } : State).unitAwake (handleSlot (counterParent child)) = true ∧ (s.domain 0).frozen = false) ∧
    (let e : ArmEntry := { ArmEntry.reset with state := .armed, w0 := 0x0100000000000000 + 255 }
     e.source = 1 ∧ e.state = .armed) := by
  decide +kernel

/-- A descriptor of a task of entry 12, with no image and no save area. -/
def described : State :=
  let s : State := entered { ArmEntry.reset with state := .waiting }
  [2, 3, 4, 5].foldl (fun s k => s.write64 (s.launchByte 0 (8 * k)) 0x100000001) s

/-- The domain's launch. -/
def launched (s : State) (l : Launch) : State := s.mapDomain 0 fun d => { d with launch := some l }

/-- A launch of tag 255 at each point of its course. -/
theorem meets_LaunchEvents :
    let l : Launch := ⟨255, 0, 2048, 0, none, false, none, 0, 0, false, 0⟩
    let x : Descriptor := ⟨0, 0, 0, 12, #v[1, 1, 1, 1], #v[1, 1, 1, 1], 0, 0, []⟩
    let selected : State := atCycle (launched described l) 1
    (described.domain 0).launch = none ∧ described.maySelect 0 = true ∧ (described.unit 0).best = some (255, { ArmEntry.reset with state := .waiting }) ∧
    (formed.unit 0).best = none ∧ (selected.domain 0).launch = some l ∧ l.selectedAt + 1 = (selected.domain 0).dcc ∧ l.tag < 256 ∧
    selected.descriptorOk 0 (selected.descriptorWords 0 0) = true ∧ wbits ((selected.descriptorWords 0 0).getD 0 0) 40 0 = 0 ∧
    (atCycle (launched formed l) 1).descriptorOk 0 ((atCycle (launched formed l) 1).descriptorWords 0 0) = false ∧
    ((launched described { l with desc := some x }).domain 0).launch = some { l with desc := some x } ∧ (launched described l).launchOver 0 = false ∧
    (let s : State := (launched described { l with started := true }).mapDomain 0 fun d => { d with draining := some ⟨0, true, none, [], some 7, none⟩ }
     (s.domain 0).draining = some ⟨0, true, none, [], some 7, none⟩ ∧ (s.domain 0).dcc ≤ 7 ∧ 7 < ((atCycle s 8).domain 0).dcc) := by
  decide +kernel

/-- A launch whose last task ended a pier latency ago. -/
def ended : State :=
  filledWith (atCycle (launched described ⟨255, 0, 2048, 0, none, true, some 5000, 0, 0, false, 0⟩) 9000) (formed.domainSites 0)
    { Tile.reset with halted := true }

theorem meets_launchOver : ended.launchOver 0 = true ∧ (ended.domainSites 0).Nodup := by
  have e : ended.domainSites 0 = formed.domainSites 0 := by decide +kernel
  have t : ∀ k ∈ formed.domainSites 0, (ended.tile k).halted = true := fun k h => (congrArg Tile.halted (tile_filled _ _ _ k h)).trans rfl
  refine ⟨?_, e ▸ meets_sites.1⟩
  unfold State.launchOver
  dsimp only
  rw [e, List.all_eq_true.2 t]
  decide +kernel

/-- A launch that runs, with and without a save area; a candidate above it; debug enabled; a frozen domain with a held tile; a step, a throttle change. -/
theorem meets_StopEvents :
    let x (save : Nat) : Descriptor := ⟨0, 0, 0, 12, #v[1, 1, 1, 1], #v[1, 1, 1, 1], 0, save, []⟩
    let s (save : Nat) : State := launched (entered { ArmEntry.reset with state := .waiting, cls := 3 }) ⟨0, 0, 0, 0, some (x save), true, none, 0, 0, false, 0⟩
    (formed.domain 0).runningTag = none ∧ ((s 0).domain 0).launch.any (·.started) = true ∧ ((s 0).domain 0).frozen = false ∧ ((s 0).domain 0).plan = none ∧
    (((s 0).mapDomain 0 fun d => { d with frozen := true }).domain 0).frozen = true ∧ (s 0).saveRefused 0 = true ∧ (s 4096).saveRefused 0 = false ∧
    ((s 4096).domain 0).preempting = false ∧ (s 4096).preempts 0 = true ∧ (s 0).preempts 0 = false ∧ ((s 0).unit 0).debugEnable = 0 ∧
    ({ (s 0).unit 0 with debugEnable := 3 } : LaunchUnit).debugEnable ≠ 0 ∧
    (let h : State := (s 0).mapTile 0 fun t => { t with debugHeld := true }
     0 ∈ h.domainSites 0 ∧ (h.tile 0).debugHeld = true) ∧
    (let p : FreezePlan := ⟨0, 0, 0, 0x6002, 0, .debug⟩
     let d : Domain := { (s 0).domain 0 with plan := some p, stepUntil := some 0, throttleNext := some (64, 8) }
     d.plan = some p ∧ p.use = .debug ∧ d.stepUntil = some d.dcc ∧ d.frozen = false ∧ d.throttleNext = some (64, 8)) ∧ ((s 0).domain 0).throttleNext = none ∧ ((s 0).tile 0).event = none := by
  decide +kernel

/-- A number of zero bytes from which a layout reads a value. -/
def ReadsZeros {α : Type} (a : Layout α) (k : Nat) : Prop := ∀ n, k ≤ n → ∃ x, a.read (List.replicate n 0#8) = some (x, List.replicate (n - k) 0#8)

theorem zeros_bits (w : Nat) : ReadsZeros (Layout.bits w) ((w + 7) / 8) := fun n h =>
  ⟨_, by simp only [Layout.bits, List.length_replicate, List.drop_replicate, if_neg (Nat.not_lt.2 h)]; rfl⟩

theorem zeros_nat : ReadsZeros Layout.nat 1 := fun n h => by
  obtain ⟨m, rfl⟩ : ∃ m, n = m + 1 := ⟨n - 1, by omega⟩
  exact ⟨0, by simp [Layout.nat, List.replicate_succ, leNat]⟩

theorem zeros_and {α β : Type} {a : Layout α} {b : Layout β} {j k : Nat} (p : ReadsZeros a j) (q : ReadsZeros b k) :
    ReadsZeros (a.and b) (j + k) := fun n h => by
  obtain ⟨x, e⟩ := p n (by omega)
  obtain ⟨y, f⟩ := q (n - j) (by omega)
  exact ⟨(x, y), by simp [Layout.and, e, f, Nat.sub_sub]⟩

theorem zeros_as {α β : Type} {a : Layout α} {k : Nat} (f : α → β) (g : β → α) (p : ReadsZeros a k) : ReadsZeros (a.as f g) k := fun n h => by
  obtain ⟨x, e⟩ := p n h
  exact ⟨f x, by simp [Layout.as, e]⟩

theorem zeros_list {α : Type} (a : Layout α) : ReadsZeros a.list 1 := fun n h => by
  obtain ⟨m, rfl⟩ : ∃ m, n = m + 1 := ⟨n - 1, by omega⟩
  exact ⟨[], by simp [Layout.list, Layout.nat, List.replicate_succ, leNat, Layout.readMany]⟩

theorem zeros_many {α : Type} {a : Layout α} {k : Nat} (p : ReadsZeros a k) : ∀ m n, m * k ≤ n →
    ∃ l, a.readMany m (List.replicate n 0#8) = some (l, List.replicate (n - m * k) 0#8)
  | 0, n, _ => ⟨[], by simp [Layout.readMany]⟩
  | m + 1, n, h => by
    rw [Nat.succ_mul] at h
    obtain ⟨x, e⟩ := p n (by omega)
    obtain ⟨l, f⟩ := zeros_many p m (n - k) (by omega)
    exact ⟨x :: l, by simp [Layout.readMany, e, f, Nat.sub_sub, Nat.succ_mul, Nat.add_comm]⟩

theorem zeros_vector {α : Type} {a : Layout α} {k : Nat} (m : Nat) (d : α) (p : ReadsZeros a k) : ReadsZeros (a.vector m d) (m * k) := fun n h => by
  obtain ⟨l, e⟩ := zeros_many p m n h
  exact ⟨_, by simp only [Layout.vector, e, Option.map_some]; rfl⟩

/-- Zero bytes hold a block. -/
theorem zeros_block : ∃ k ≤ 0xC000, ReadsZeros Layout.block k := by
  apply Exists.intro
  apply And.intro
  case h.right =>
    simp only [Layout.block, Layout.tile, Layout.thread, Layout.event, Layout.irq, Layout.captured, Layout.ct, Layout.int, Layout.ag, Layout.vecState,
      Layout.sf, Layout.ls, Layout.pipe, Layout.landing, Layout.mx, Layout.ep, Layout.gn, Layout.sv, Layout.dm, Layout.sy, Layout.tm, Layout.id,
      Layout.words, Layout.word, Layout.vec, Layout.bool, Layout.option, Layout.table, Layout.signed]
    repeat' first
      | with_reducible exact zeros_nat
      | with_reducible exact zeros_bits _
      | with_reducible exact zeros_list _
      | with_reducible apply zeros_as
      | with_reducible apply zeros_and
      | with_reducible apply zeros_vector
  case h.left => decide

theorem blank_bytes : ∀ n a, Memory.readBytes [] a n = List.replicate n 0#8
  | 0, _ => rfl
  | n + 1, a => by simp [Memory.readBytes, blank_bytes n, List.replicate_succ, Memory.read, Memory.blank]

/-- A launch with a save area, on an island of whose rows one stands in the grid. -/
def saving (restoring : Bool) (drain : Option DrainState) : State :=
  let x : Descriptor := ⟨0, 0, 0, 12, #v[1, 1, 1, 1], #v[1, 1, 1, 1], 0, 4096, []⟩
  let s : State := (entered { ArmEntry.reset with state := .running }).setDie 0 { Die.reset with leftOut := 32 :: List.replicate 31 63 }
  s.mapDomain 0 fun d => { d with launch := some ⟨255, 0, 0, 0, some x, true, none, 0, 0, restoring, 0⟩, draining := drain }

/-- A drain with nothing open and with an access open, one whose save has ended, one whose tile knows of a command that is open; blocks and headers
that stand apart. -/
theorem meets_SaveAndResume_save :
    let x : DrainState := ⟨0, false, none, [], none, none⟩
    let s : State := saving false (some x)
    let ended : State := saving false (some { x with saveEnd := some 900 })
    let with_ (f : Command → Command) (s : State) : State := s.mapDomain 0 fun d => { d with commands := (accepted.domain 0).commands.map f }
    let known : State := (with_ (fun c => { c with id := 9, form := .ucopy }) ended).mapTile 0 fun t => { t with known := [⟨9, 0, true, [0]⟩] }
    let sites := s.domainSites 0
    let place (k : Nat) : Nat := s.saveBlock 0 4096 k
    let size (k : Nat) : Nat := 0xD0000 + 8192 * (s.saveFolios 4096 (s.savePlace 0 k).2.2).length + s.saveSramLength 4096 (s.savePlace 0 k).2.2
    sites = List.range 32 ∧ (s.domain 0).draining = some x ∧ x.cancel = false ∧ x.saveEnd = none ∧ s.openContext 0 = false ∧ (with_ id s).openContext 0 = true ∧
    ((ended.domain 0).draining.any fun x => x.saveEnd.isSome) = true ∧ ended.openKnown 0 = false ∧ known.openKnown 0 = true ∧
    Memory.wf s.mem = true ∧ (∀ k ∈ List.range 32, (s.tile k).landingLog.length ≤ 2048) ∧
    (∀ j ∈ List.range 32, ∀ k ∈ List.range 32, j ≠ k → place j + size j ≤ place k ∨ place k + size k ≤ place j) ∧
    (∀ j ∈ List.range 32, ∀ n ∈ [0, 1], place j + size j ≤ hbmAddr (saveBase 4096 n) ∨ hbmAddr (saveBase 4096 n) + 4096 ≤ place j) ∧
    ∀ n ∈ (s.domain 0).spec.saveStacks ++ (List.range 32).map fun k => (s.savePlace 0 k).2.2, n ∈ [0, 1] := by
  decide +kernel

/-- A launch that is restored from an area of zeros: what stands there is a block. -/
theorem meets_SaveAndResume_resume :
    let s : State := saving true none
    s.domainSites 0 = List.range 32 ∧ Memory.wf s.mem = true ∧ ((s.domain 0).launch.any fun l => l.restoring) = true ∧ (s.domain 0).draining = none ∧
    (∀ k ∈ List.range 32, s.saveBlock 0 4096 k + 0xC000 ≤ 2 ^ 41) ∧ (s.entry 0 255).state = .running ∧ ∀ k, ∃ b, s.savedBlock 0 4096 k = some b := by
  refine ⟨by decide +kernel, by decide +kernel, by decide +kernel, by decide +kernel, by decide +kernel, by decide +kernel, fun k => ?_⟩
  obtain ⟨n, h, r⟩ := zeros_block
  obtain ⟨b, e⟩ := r _ h
  refine ⟨b, ?_⟩
  have m : (saving true none).mem = [] := by decide +kernel
  rw [State.savedBlock, State.readBytes, m, blank_bytes, blockBytes, e]
  rfl

/-- A fabric frame of port 0 due at cycle 0, to send or to receive, beside its schedule; the collective 7 of two modules. -/
def framed (kind split : Nat) : State :=
  let s : State := (atCycle accepted 0).mapDomain 0 fun d => { d with commands := d.commands.map fun c =>
    { c with form := .fabric, work := [0, 0, 0, 0], split := split, bayStart := 0, progress := 0 } }
  { s with collectives := [(7, ⟨0, .f32, 8, none, [], []⟩)] }.setPort 0
    { Port.reset with schedule := [⟨BitVec.ofNat 64 (kind * 2 ^ 60), 0x4000000000000000, 0x0000000700000000, 0⟩], sent := [(0, [1])] }

/-- Schedules that load and that do not; a frame due to be sent, one that goes again, a copy's, and none; holds. -/
theorem meets_FabricEvents :
    let copy : State := accepted.mapDomain 0 fun d => { d with commands := d.commands.map fun c => { c with form := .ucopy, need := .frame, block := [0, 0, 0, 0x10000] } }
    let hold : Domain := { Domain.blank with hold := some (0, 512, 448), use := .hold }
    let copyNow : State := { copy with tick := 0 }
    let sent (kind : Nat) : State := (framed kind 1).mapDomain 0 fun d => { d with commands := d.commands.map fun c => { c with blocks := [] } }
    let again : State := (formed.mapDomain 0 fun d => { d with frozen := true, use := .hold }).setPort 0 { Port.reset with resends := [(0, [1])] }
    scheduleError [] = none ∧ scheduleError [⟨BitVec.allOnes 64, 0, 0, 0⟩] = some 0 ∧ Fmt.ofCode (Fmt.code .f32) = some .f32 ∧ (2 : Nat) ≤ 2 ∧
    again.resendTime 0 = true ∧ (again.port 0).resends = (0, [1]) :: [] ∧ (formed.domain 0).framesDue 0 = [] ∧ (formed.port 0).resends = [] ∧
    formed.copyFrameDue 0 0 = none ∧ (copyNow.domain 0).framesDue 0 = [] ∧ (copyNow.copyFrameDue 0 0).isSome = true ∧ (copyNow.domain 0).frozen = false ∧
    (match ((sent 0).domain 0).framesDue 0 with | [c] => ((sent 0).frameEntry c).any fun e => e.kind != 3 | _ => false) = true ∧
    (match ((sent 3).domain 0).framesDue 0 with
      | [c] => ((sent 3).frameEntry c).any fun e => e.kind == 3 && (Table.find (sent 3).collectives e.collective).any fun y => y.tree.isNone
      | _ => false) = true ∧
    ((framed 0 0).port 0).sent.reverse.find? (fun y => y.1 == 0) = some (0, [1]) ∧ (formed.domain 0).hold = none ∧
    hold.hold = some (0, 512, 448) ∧ hold.use = .hold ∧ (formed.domain 0).use ≠ .hold := by
  decide +kernel

/-- Frames received: one of a stream, one of a launch message with its armed entry and one without; retries before and at their limit. -/
theorem meets_FabricEvents_receive :
    let retried (n : Nat) : State := (framed 0 0).setPort 0 { (framed 0 0).port 0 with retries := [(0, n)], serving := true }
    let e : ScheduleEntry := ⟨BitVec.ofNat 64 (2 * 2 ^ 60), 0x4000000000000000, 0x0000000700000000, 0⟩
    let expects (s : State) (p : Command → ScheduleEntry → Bool) : Bool := (s.frameExpected 0 0).any fun c => (s.frameEntry c).any (p c)
    formed.frameExpected 0 0 = none ∧ expects (framed 0 0) (fun c e => !c.blocks.isEmpty && e.kind != 3 && e.kind != 2) = true ∧
    expects (framed 2 0) (fun c e => e.kind == 2 && c.work.getD 2 0 == 0) = true ∧ formed.framePlace 0 e = none ∧
    ((framed 0 0).port 0).retries = [] ∧ ({ Port.reset with retries := [(1, 0)] } : Port).retries ≠ [] ∧
    ((retried 0).port 0).serving = true ∧ ((retried 2).port 0).retries = [(0, 2)] ∧ 2 < 3 ∧ ((retried 3).port 0).retries = [(0, 3)] ∧
    (((retried 2).domain 0).command 0).any (fun c => !c.blocks.isEmpty && ((retried 2).frameEntry c).any fun e => e.kind != 3) = true ∧
    (retried 3).siteOfFlat 0 0 = some 0 ∧ ((retried 3).domain 0).boot = false ∧ ((retried 3).domain 0).frozen = false ∧
    ((retried 3).domain 0).draining = none ∧ ((retried 3).tile 0).event = none := by
  decide +kernel

/-- Beacons of this module and of another, of its arrival before the last other's and with it, of a link that failed. -/
theorem meets_FabricEvents_beacons :
    let b : Beacon := ⟨1, some 5, some (64, 8), some 9, some (1, 7), none⟩
    let d (n : Nat) : Domain := { Domain.blank with spec := { reducedSpec with cls := .multi, modules := n }, pier := { Domain.blank.pier with allArrived := some 3 } }
    (⟨0, none, none, none, none, none⟩ : Beacon).sender = (d 2).spec.rank ∧ b.sender ≠ (d 2).spec.rank ∧ (d 2).spec.beaconMaster = false ∧
    ({ b with failed := some 3 } : Beacon).failed = some 3 ∧ formed.siteOfFlat 0 0 = some 0 ∧ (formed.domain 0).frozen = false ∧
    (formed.domain 0).draining = none ∧ (formed.tile 0).event = none ∧
    ({ reducedSpec with beaconMaster := true } : DomainSpec).beaconMaster = true ∧ (d 2).spec.cls = .multi ∧ (d 2).pier.releaseAt = none ∧
    (d 2).pier.allArrived = some 3 ∧ (∀ k < (d 2).spec.modules, k = (d 2).spec.rank ∨ ∃ o ∈ [(1, 7)], o.1 = k) ∧
    ¬(∀ k < (d 3).spec.modules, k = (d 3).spec.rank ∨ ∃ o ∈ [(1, 7)], o.1 = k) := by
  decide +kernel

/-- Collectives of two modules whose operands are there and are not, and a receiving entry that waits for the result. -/
theorem meets_FabricEvents_collectives :
    let x : Collective := ⟨0, .f32, 8, none, [(valueKey 0 0 0, List.replicate 1024 0), (valueKey 0 1 0, List.replicate 1024 1)], []⟩
    let y : Collective := { x with tree := some (.node (.leaf 0) (.leaf 1)) }
    let waits : State := (framed 3 0).mapDomain 0 fun d => { d with commands := d.commands.map fun c => { c with progress := 2 } }
    Table.find formed.collectives 7 = none ∧ ({ x with contributions := [] } : Collective).ready 0 2 = [] ∧ x.ready 0 2 = [(0, 0)] ∧
    y.ready 0 2 = [(0, 0)] ∧ (x.combine 0 0 2 0).isSome = true ∧ List.range 2 ≠ [0] ∧ 0 :: (RankTree.node (.leaf 0) (.leaf 1)).partners 0 ≠ [0] ∧
    (∀ m ∈ List.range 2, ∀ j < 256, (x.element 0 0 m j).isSome = true ∧ (y.element 0 0 m j).isSome = true) ∧
    x.final 0 = true ∧ ((waits.domain 0).commands.map (·.id)).Nodup ∧ firstCommand waits (fun c => c.form == .fabric && !c.frameSend && c.progress == 2 &&
      c.bayStart == 0 && (waits.frameEntry c).any fun e => e.kind == 3 && e.collective == 7 && waits.collectiveFrame c e == 0) = true := by
  decide +kernel

/-- The module with die 0 available. -/
def readyDie : State := State.reset.setDie 0 { State.reset.die 0 with available := true }

/-- What management may and may not do, in the states that say so. Whether a signature is valid depends on the authority's key, a free value
(`Config.authorityKey`): the clauses that ask it have every other hypothesis met here. -/
theorem meets_ManagementEvents :
    let m := State.reset.mmc
    let live : State := { State.reset with mmc := { m with fuses := m.fuses.setIfInBounds 2 1 } }
    let nonce : List Byte := List.replicate 32 9
    let token : List Byte := leBytes 4 0x4B4E4C44 ++ List.replicate 16 0 ++ [1, 1] ++ List.replicate 10 0 ++ nonce
    let asked : State := { live with mmc := { live.mmc with nonce := some nonce } }
    let grouped : State := { (entered ArmEntry.reset).mapTile 0 fun t => { t with groups := 1 } with mmc := (entered ArmEntry.reset).mmc }
    let w : Word := 0x8000000000000001
    let forming : State := { ((List.range 8).foldl (fun s k => s.setDie k { s.die k with debugOpen := false }) live) with
      mmc := { live.mmc with forming := [15], partitions := live.mmc.partitions.setIfInBounds 15 (w ||| 0x00000F0000000000) } }
    m.recovery = false ∧ ({ m with recovery := true } : Mmc).recovery = true ∧
    ({ State.reset.setDie 0 { State.reset.die 0 with available := true } with mmc := { m with scrubbed := [0] } } : State).partitionOk 15 w = true ∧
    wbits w 62 57 = 0 ∧ wbits w 47 44 = 0 ∧ wbits w 39 32 = 0 ∧ wbits (0x0200000000000000 : Word) 62 57 ≠ 0 ∧
    State.reset.partitionOk 15 w = false ∧ State.reset.slotsOn (fun _ => true) = [] ∧ State.reset.partitionOfIsland 15 = none ∧
    State.reset.slotsOn (fun i => i == 15) = [] ∧ (entered ArmEntry.reset).partitionOfIsland 0 = some 0 ∧ forming.lifecycle = 1 ∧
    forming.mmc.forming = [15] ∧ (forming.mmc.partitions.getD 15 0).getLsbD 63 = true ∧ wbits (forming.mmc.partitions.getD 15 0) 43 40 = 15 ∧
    (∀ k < 8, (forming.die k).debugOpen = false) ∧ (State.reset.die 7).debugOpen = true ∧ forming.mmc.recovery = false ∧
    m.unlocking = none ∧ State.reset.lifecycle = 0 ∧ 0 < 1 ∧ asked.tokenForm token = true ∧ State.reset.tokenForm token = false ∧
    asked.partitionSlots = [] ∧ State.reset.tokenMatches token [] = false ∧ ({ m with unlocking := some token } : Mmc).unlocking = some token ∧
    m.booted = [] ∧ (∀ k < 3, k ∈ ({ m with booted := [2, 1, 0] } : Mmc).booted) ∧ grouped.hasDomain 0 = true ∧ grouped.partitionOf 0 = some 0 ∧
    0 ∈ grouped.domainSites 0 ∧ (grouped.tile 0).groups &&& 1 ≠ 0 ∧ State.reset.reduced = false ∧ (ran .reducedServiceStart readyDie).reduced = true ∧
    8 * 131071 < 2 ^ 20 ∧ 2 ^ 20 ≤ 8 * 131072 := by
  decide +kernel

/-- The first image, as the MMC reads it from its store. -/
theorem meets_ManagementEvents_image : FirmwareImage.index .bootCode = 0 ∧
    State.reset.firmware 0 = ((State.reset.firmware 0).1, (State.reset.firmware 0).2) := ⟨rfl, rfl⟩

/-- Leaves left and none; recovery and not; measurements that are and are not. -/
theorem meets_SpdmEvents :
    let m := State.reset.mmc
    m.recovery = false ∧ m.leafIndex < 2 ^ 40 ∧ 2 ^ 40 ≤ ({ m with leafIndex := 2 ^ 40 } : Mmc).leafIndex ∧ (State.reset.measurement 1).isSome = true ∧
    (State.reset.measurement 0x2F).isSome = true ∧ State.reset.measurement 0 = none ∧ State.reset.measurement 0x30 = none := by decide +kernel

/-- A message that finds its queue full for the first time, one that its queue can never hold, a closed queue. -/
theorem meets_CatwalkEvents_overflow :
    let at_ (z : Nat) (ms : List Queued) (m : Message) : State := { formed.mapTile 0 fun t => { t with sv := { t.sv with
      queues := t.sv.queues.setIfInBounds 1 ⟨0x1000, z, 0, ms⟩ } } with messages := [m] }
    let q (s : State) : RxQueue := (s.tile 0).sv.rx 2
    let first : Message := message 2 0 2 false false
    let long : Message := message 2 0 63 false false
    let full : State := at_ 2 [⟨0, 4, true, 5, 9, []⟩] first
    full.slotOf first.dst = some 0 ∧ full.message 0 = some first ∧ first.placed = false ∧ first.held = false ∧ (q full).free < first.lines ∧
    first.lines ≤ (q full).size ∧ (q (at_ 0 [] first)).z = 0 ∧ (at_ 2 [] long).message 0 = some long ∧ 1 ≤ (q (at_ 2 [] long)).z ∧
    (q (at_ 2 [] long)).size < long.lines := by decide +kernel

/-- Pointers of each portable access that no tile resolves, in a domain. -/
theorem meets_PortableLoadsAndStores_faults :
    let s : State := { formed with portable := (withRegs (0x1000000000000001) 0 0 0).portable }
    let bad (op : AccessOp) (mask : Word) : Bool := match s.portTarget op (s.portable.gr 1) (s.portable.gr 1) mask with | .bad r => r == 3 | .sram _ _ => false
    s.hasDomain s.portSlot = true ∧ bad (.load 8) 0 = true ∧ bad .loadV (BitVec.allOnes 64) = true ∧ bad (.store 8) 0 = true ∧
    bad .storeV (BitVec.allOnes 64) = true := by
  decide +kernel

/-- An armed entry above a launch that has not started, below it, and above one that runs. -/
theorem meets_EntryEvents_starts :
    let armed : ArmEntry := { ArmEntry.reset with state := .armed, w0 := 0x00C0000000000000 }
    let starting : ArmEntry := { ArmEntry.reset with state := .starting }
    let l : Launch := ⟨7, 0, 0, 0, none, false, none, 0, 0, false, 0⟩
    let s (cls : Nat) (l : Launch) : State := let t := launched (entered armed) l
      t.setUnit 0 { t.unit 0 with entries := [(255, armed), (7, { starting with cls := cls })] }
    let loses (s : State) : Bool := (s.domain 0).launch.any fun l => !l.started && (s.entry 0 l.tag).state == .starting &&
      decide ((s.entry 0 l.tag).cls < armed.baseClass)
    (s 0 l).entry 0 255 = armed ∧ 0 < armed.baseClass ∧ loses (s 0 l) = true ∧ loses (s 3 l) = false ∧ loses (s 0 { l with started := true }) = false ∧
    counterC ((s 0 l).counter (launchHandle 0 255)) = false := by
  decide +kernel

/-- A counter with a parent at zero. -/
theorem meets_CounterEvents_parent :
    let child : Word := 0x0000000100000000
    let u : LaunchUnit := { State.reset.unit 0 with zeroedNow := [(255, child)] }
    u.zeroedNow.find? (fun z => z.1 == launchHandle 0 255) = some (launchHandle 0 255, child) ∧ counterParent child ≠ 0 ∧ counterC child = false := by
  decide +kernel

/-- A mark at the desk that a waiting request's quantum needs, and one that leaves another tile behind. -/
theorem meets_PierAndDesk_marks :
    let at_ (requests : List DeskRequest) (marks : List DeskMark) : State :=
      { formed.mapDomain 0 fun d => { d with desk := { d.desk with pool := 10, requests := requests, marks := marks } } with
        requests := [{ id := 0, site := 0, slot := 0, request := .desk (.ended 0 0), buffered := false, taken := true, waits := [], rest := [], takeAt := 0, arriveAt := 0 }] }
    let marks (s : State) : List DeskMark := ((s.domain 0).desk.marks.filter fun o => !(o.tile == 0 && sameKind o (.ended 0 0))) ++ [.ended 0 0]
    ((at_ [⟨0, 0, 0, 4⟩] []).deskHead 0).any (fun x => x.2 == .ended 0 0) = true ∧ ((at_ [⟨0, 0, 0, 4⟩] []).domain 0).desk.requests = [⟨0, 0, 0, 4⟩] ∧
    ((at_ [⟨0, 0, 0, 4⟩] []).domain 0).desk.nextQuantum = some (0, 0) ∧
    ((formed.domainSites 0).all fun k => (marks (at_ [⟨0, 0, 0, 4⟩] [])).any fun o => o.tile == formed.flat 0 k && o.passes 0 0) = false := by
  decide +kernel

theorem meets_PierAndDesk_pass :
    let l := (formed.domainSites 0).map fun n => DeskMark.parked (formed.flat 0 n) 0
    ∀ k ∈ formed.domainSites 0, ∃ o ∈ (l.filter fun o => !(o.tile == 0 && sameKind o (.ended 0 0))) ++ [.ended 0 0],
      o.tile = formed.flat 0 k ∧ o.passes 0 0 = true := fun k h => by
  refine ⟨.parked (formed.flat 0 k) 0, List.mem_append_left _ (List.mem_filter.2 ⟨List.mem_map_of_mem h, ?_⟩), rfl, rfl⟩
  simp [sameKind]

/-- A stop requested of a domain that a pre-emption drains. -/
theorem meets_StopEvents_drain :
    let s : State := (launched (entered ArmEntry.reset) ⟨0, 0, 0, 0, none, true, none, 0, 0, false, 0⟩).mapDomain 0 fun d =>
      { d with draining := some ⟨0, false, none, [], none, none⟩ }
    (s.domain 0).draining = some ⟨0, false, none, [], none, none⟩ ∧ (s.domain 0).launch.any (·.started) = true ∧ (s.domain 0).frozen = false := by
  decide +kernel

/-- The boot code at a power-on after the power has been away, and at the first one. -/
theorem meets_ManagementEvents_powerOn :
    let m := State.reset.mmc
    FirmwareImage.index .bootCode = 0 ∧ (0 ∈ ({ m with booted := [2, 1, 0] } : Mmc).booted) ∧ ({ m with recovery := true } : Mmc).recovery = true ∧
    0 ∉ m.booted ∧ m.recovery = false ∧ State.reset.lifecycle ≠ 7 := by
  decide +kernel

/-- A microprogram with one g step, before elements it may reach and at the last that it may not. -/
theorem meets_MatrixChecks_stream :
    let m : MxState := { ((multiplying 0x10 0 0x100000F 0 0).tile 0).mx with store := [(0, 0x1100000000000000)] }
    m.routineStart 0x10 = some 0 ∧ m.microStream 0 (2 ^ 40 - 64) = false ∧ m.microStream 0 (2 ^ 40 - 63) = true := by
  decide +kernel

/-- A masked load and a masked store of no lane, at a local and at a domain pointer. -/
theorem meets_AccessesSent_empty :
    let s (p : Word) : State := issuing .la 4 0 (formed.mapTile 0 fun t => { t with cap := { t.cap with la := { t.cap.la with o1 := p, msk := 0 } } })
    let to_ (op : AccessOp) (p : Word) : Resolved := (s p).accessTarget 0 0 op p p 0 false .zero
    (s 0).firing [.la, .lb] ∧ AccessOp.loadV.masked = true ∧ AccessOp.storeV.masked = true ∧ ((s 0x1000000000000000).tile 0).cap.la.msk = 0 ∧
    to_ .loadV 0x1000000000000000 = .sram 0 0 ∧ to_ .storeV 0x3000000001000000 = .sram 4 0 := by
  unfold State.firing; decide +kernel

/-- A domain of two dies. -/
def twoDies : State := State.reset.setDomain 0 { Domain.blank with spec := { reducedSpec with cls := .pair, islands := [0, 1, 2, 3] } }

/-- Dies quiet and busy; boot that has ended and has not; entries of the archive; stacks hot and not; links of one domain; reduced service. -/
theorem meets_ResetEvents :
    let busy : State := launched formed ⟨0, 0, 0, 0, none, true, none, 0, 0, false, 0⟩
    let booted : State := State.reset.setDie 7 { State.reset.die 7 with booting := true, leaderDone := true }
    let queued : Die := { State.reset.die 0 with queue := [⟨0, 0, 0, false, true, 7, 1, 0, 0⟩] }
    State.reset.diesQuiet [7] = true ∧ busy.diesQuiet [0] = false ∧ State.reset.diesQuiet (List.range 8) = true ∧ busy.diesQuiet (List.range 8) = false ∧
    3 ∉ State.reset.mmc.booted ∧ 3 ∈ ({ State.reset.mmc with booted := [3] } : Mmc).booted ∧
    booted.bootDone 7 = true ∧ State.reset.bootDone 0 = false ∧ (State.reset.die 0).queue = [] ∧
    queued.queue = ⟨0, 0, 0, false, true, 7, 1, 0, 0⟩ :: [] ∧ queued.dropped = 0 ∧
    (State.reset.stack 31).critical = false ∧ ({ State.reset.stack 31 with critical := true } : Stack).critical = true ∧
    (formed.slotsOn fun i => i == 1 / 2) = [0] ∧ (formed.domain 0).spec.cls ≠ .multi ∧ (formed.domain 0).plan = none ∧ (formed.domain 0).frozen = false ∧
    ((List.range 10).any fun k => twoDies.linkSlots (.causeway k) == [0]) = true ∧ twoDies.linkSlots (.catwalk 1) = [0] ∧
    twoDies.siteOfFlat 0 0 = some 0 ∧ (twoDies.domain 0).boot = false ∧ (twoDies.domain 0).draining = none ∧ (twoDies.tile 0).event = none ∧
    StoreKind.hbm = .hbm ∧ StoreKind.hbm.code < 3 ∧ locChannel 0 < 64 ∧
    (State.cancelSlot busy 0).diesQuiet [0] = false ∧ (State.reset.die 0).available = false ∧ (readyDie.die 0).available = true ∧ (readyDie.die 0).booting = false ∧
    readyDie.reduced = false ∧ readyDie.hasDomain 0 = false ∧ (ran .reducedServiceStart readyDie).reduced = true ∧ formed.hasDomain 0 = true ∧
    formed.quiet 0 = true ∧ busy.quiet 0 = false := by decide +kernel

/-- A native object of one folio and 32 bytes of data, without records. -/
def objectFile : List Byte :=
  leBytes 4 0x4C524542 ++ leBytes 2 1 ++ leBytes 2 0 ++ leBytes 8 1 ++ List.replicate 8 0 ++ leBytes 4 32 ++ leBytes 2 0 ++ leBytes 2 1 ++
    List.replicate 8160 0

/-- A system object: the same with one supervisor kernel. -/
def systemFile : List Byte :=
  objectFile.take 28 ++ leBytes 2 1 ++ leBytes 2 1 ++ List.replicate 8 0 ++ leBytes 4 8192 ++ List.replicate 8148 0 ++
    (List.replicate 6 0 ++ leBytes 2 1 ++ List.replicate 8 0)

/-- A snapshot about to issue on tile 0, its domain's clock at 5. -/
def snapping : State := issuing .tm 0 5 (State.reset.setDomain 0 { Domain.blank with dcc := 5 })

theorem meets_TimetableSnap : snapping.firing [.tm] ∧ (snapping.domain (snapping.trigOf [.tm]).slot).boot = false ∧
    (snapping.domain (snapping.trigOf [.tm]).slot).sigma = 0 := by unfold State.firing; decide +kernel

/-- An object that loads and one that does not, at the last tile and folio; a domain that forms and one that does not. -/
theorem meets_LoadAndForm :
    let place : Placement := { others := [0], site := 8447, folio := 14, data := 0xFF000, portable := false }
    let system : Placement := { place with folio := 15 }
    formed.loadCause 0 place [] = some 1 ∧ formed.loadCause 0 place objectFile = none ∧ formed.loadCause 0 system systemFile = none ∧ (readHeader systemFile).folios = 1 ∧
    (readHeader objectFile).relocs = 0 ∧
    (readHeader objectFile).rosnil = 0 ∧ (⟨objectFile, readHeader objectFile, place⟩ : LoadContext).folioBytes.length = 8192 * 1 ∧
    (readHeader objectFile).folios = 1 ∧ (⟨objectFile, readHeader objectFile, place⟩ : LoadContext).dataBytes.length = 32 ∧
    (∀ k ∈ (readHeader objectFile).kernelList objectFile, k.flags % 2 = 0) ∧
    place.site < 8448 ∧ place.folio + 1 ≤ 15 ∧ system.folio = 15 ∧ system.folio + 1 ≤ 16 ∧ place.data + 32 ≤ 2 ^ 20 ∧ formed.formable 0 reducedSpec = false ∧
    DomainSpec.shapeOk (formed.domain 0).spec = true ∧ ((formed.setDomain 16 { Domain.blank with boot := true }).domain 16).boot = true ∧
    ((entered ArmEntry.reset).setDie 0 { State.reset.die 0 with available := true }).formable 0 reducedSpec = true := by decide +kernel

end Sys2Proof
end

section
/-!
PROOFS. The values of the integer operations of IA and IB (spec/04 R72 to R74), and their results.
-/
namespace Sys2Proof.Machine

/-! ### Fields of a word -/

/-- A field that begins at bit 0 is a remainder. -/
theorem wbits_low (p : Word) (hi : Nat) : wbits p hi 0 = p.toNat % 2 ^ (hi + 1) := by
  simp [wbits]

/-! ### Order and saturation (R72) -/

theorem toInt_eval_min (a lo b : Word) : (IntOp.min.eval a lo b).toInt = min a.toInt b.toInt := by
  simp only [IntOp.eval, BitVec.slt_eq_decide, decide_eq_true_eq]
  split <;> omega

theorem toInt_eval_max (a lo b : Word) : (IntOp.max.eval a lo b).toInt = max a.toInt b.toInt := by
  simp only [IntOp.eval, BitVec.slt_eq_decide, decide_eq_true_eq]
  split <;> omega

theorem toNat_eval_minu (a lo b : Word) : (IntOp.minu.eval a lo b).toNat = min a.toNat b.toNat := by
  simp only [IntOp.eval, BitVec.ult_eq_decide, decide_eq_true_eq]
  split <;> omega

theorem toNat_eval_maxu (a lo b : Word) : (IntOp.maxu.eval a lo b).toNat = max a.toNat b.toNat := by
  simp only [IntOp.eval, BitVec.ult_eq_decide, decide_eq_true_eq]
  split <;> omega

/-- Signed saturation clamps to the range of a word. -/
theorem satSigned_toInt (k : Int) : (satSigned k).toInt = max (-2 ^ 63) (min (2 ^ 63 - 1) k) := by
  rw [satSigned, BitVec.toInt_ofInt_eq_self (by decide)] <;> split <;> omega

theorem toNat_eval_addus (a lo b : Word) : (IntOp.addus.eval a lo b).toNat = min (2 ^ 64 - 1) (a.toNat + b.toNat) := by
  simp only [IntOp.eval]
  split
  · rw [BitVec.toNat_allOnes]; omega
  · rw [BitVec.toNat_add, Nat.mod_eq_of_lt] <;> omega

theorem toNat_eval_subus (a lo b : Word) : (IntOp.subus.eval a lo b).toNat = a.toNat - b.toNat := by
  simp only [IntOp.eval]
  split
  · rw [Nat.sub_eq_zero_of_le (by omega)]; rfl
  · rw [BitVec.toNat_sub_of_le (by rw [BitVec.le_def]; omega)]

/-! ### Shifts (R72) -/

theorem eval_shl (a lo b : Word) : IntOp.shl.eval a lo b = a <<< (b.toNat % 64) := by
  simp only [IntOp.eval, wbits_low]; rfl

theorem eval_shr (a lo b : Word) : IntOp.shr.eval a lo b = a >>> (b.toNat % 64) := by
  simp only [IntOp.eval, wbits_low]; rfl

theorem eval_sra (a lo b : Word) : IntOp.sra.eval a lo b = a.sshiftRight (b.toNat % 64) := by
  simp only [IntOp.eval, wbits_low]; rfl

/-! ### Products and quotients (R72, R73) -/

/-- The high half of a signed product is a word: the product lies within ± 2^126. -/
theorem toInt_eval_mulh (a lo b : Word) : (IntOp.mulh.eval a lo b).toInt = a.toInt * b.toInt / 2 ^ 64 := by
  have hle : a.toInt * b.toInt ≤ 2 ^ 126 := BitVec.toInt_mul_toInt_le
  have hge : -2 ^ 126 ≤ a.toInt * b.toInt := BitVec.le_toInt_mul_toInt
  simp only [IntOp.eval]
  rw [BitVec.toInt_ofInt_eq_self (by decide)] <;> omega

theorem toNat_eval_mulhu (a lo b : Word) : (IntOp.mulhu.eval a lo b).toNat = a.toNat * b.toNat / 2 ^ 64 := by
  have h : a.toNat * b.toNat < 2 ^ 64 * 2 ^ 64 := Nat.mul_lt_mul'' a.isLt b.isLt
  simp only [IntOp.eval, BitVec.toNat_ofNat]
  exact Nat.mod_eq_of_lt (Nat.div_lt_of_lt_mul h)

/-- The signed quotient truncates towards zero and wraps in the one case that overflows. -/
theorem sdiv_eq_ofInt_tdiv (a b : Word) : a.sdiv b = BitVec.ofInt 64 (a.toInt.tdiv b.toInt) :=
  BitVec.eq_of_toInt_eq (by rw [BitVec.toInt_sdiv, BitVec.toInt_ofInt])

theorem eval_div (a lo b : Word) : (b = 0 → (IntOp.div.eval a lo b).toInt = -1) ∧
    (b ≠ 0 → IntOp.div.eval a lo b = BitVec.ofInt 64 (a.toInt.tdiv b.toInt)) := by
  refine ⟨fun h => ?_, fun h => ?_⟩
  · simp only [IntOp.eval, if_pos h, BitVec.toInt_allOnes]; rfl
  · simp only [IntOp.eval, if_neg h, sdiv_eq_ofInt_tdiv]

theorem toNat_eval_divu (a lo b : Word) :
    (IntOp.divu.eval a lo b).toNat = if b = 0 then 2 ^ 64 - 1 else a.toNat / b.toNat := by
  simp only [IntOp.eval, apply_ite BitVec.toNat, BitVec.toNat_allOnes, BitVec.toNat_udiv]

theorem toInt_eval_rem (a lo b : Word) :
    (IntOp.rem.eval a lo b).toInt = if b = 0 then a.toInt else a.toInt.tmod b.toInt := by
  simp only [IntOp.eval, apply_ite BitVec.toInt, BitVec.toInt_srem]

theorem toNat_eval_remu (a lo b : Word) :
    (IntOp.remu.eval a lo b).toNat = if b = 0 then a.toNat else a.toNat % b.toNat := by
  simp only [IntOp.eval, apply_ite BitVec.toNat, BitVec.toNat_umod]

/-! ### Comparisons (R72) -/

theorem eval_ceq (a lo b : Word) : IntOp.ceq.eval a lo b = if a = b then 1 else 0 := by
  simp only [IntOp.eval, predWord, beq_iff_eq]

theorem eval_cne (a lo b : Word) : IntOp.cne.eval a lo b = if a = b then 0 else 1 := by
  simp only [IntOp.eval, predWord, bne_iff_ne, ite_not]

theorem eval_clt (a lo b : Word) : IntOp.clt.eval a lo b = if a.toInt < b.toInt then 1 else 0 := by
  simp only [IntOp.eval, predWord, BitVec.slt_eq_decide, decide_eq_true_eq]

theorem eval_cltu (a lo b : Word) : IntOp.cltu.eval a lo b = if a.toNat < b.toNat then 1 else 0 := by
  simp only [IntOp.eval, predWord, BitVec.ult_eq_decide, decide_eq_true_eq]

/-! ### Counts (R72) -/

theorem leadingZeros_le (b : Word) : leadingZeros b ≤ 64 := by
  unfold leadingZeros
  split <;> omega

/-- The highest one bit of a word lies below bit 64. -/
theorem log2_toNat_lt {b : Word} (h : b ≠ 0) : b.toNat.log2 < 64 :=
  (Nat.log2_lt (by simpa [BitVec.toNat_eq] using h)).2 b.isLt

/-- The leading zero bits are zero. -/
theorem getLsbD_of_leadingZeros (b : Word) {j : Nat} (hj : 64 - leadingZeros b ≤ j) : b.getLsbD j = false := by
  by_cases h : b = 0
  · rw [h]; exact BitVec.getLsbD_zero
  · have hlog := log2_toNat_lt h
    rw [leadingZeros, if_neg h] at hj
    exact Nat.testBit_lt_two_pow (Nat.lt_log2_self.trans_le (Nat.pow_le_pow_right (by decide) (by omega)))

/-- The bit below the leading zeros is one. -/
theorem getLsbD_below_leadingZeros (b : Word) (hb : leadingZeros b < 64) : b.getLsbD (63 - leadingZeros b) = true := by
  by_cases h : b = 0
  · simp [leadingZeros, h] at hb
  · have hlog := log2_toNat_lt h
    have e : 63 - leadingZeros b = b.toNat.log2 := by rw [leadingZeros, if_neg h]; omega
    rw [e]
    exact Nat.testBit_log2 (by simpa [BitVec.toNat_eq] using h)

theorem toNat_eval_clz (a lo b : Word) : (IntOp.clz.eval a lo b).toNat = leadingZeros b :=
  Nat.mod_eq_of_lt (by have := leadingZeros_le b; omega)

theorem eval_clz (a lo b : Word) :
    let w := IntOp.clz.eval a lo b
    w.toNat ≤ 64 ∧ (∀ j < 64, 64 - w.toNat ≤ j → b.getLsbD j = false) ∧ (w.toNat < 64 → b.getLsbD (63 - w.toNat) = true) := by
  dsimp only
  rw [toNat_eval_clz]
  exact ⟨leadingZeros_le b, fun _ _ hj => getLsbD_of_leadingZeros b hj, getLsbD_below_leadingZeros b⟩

/-- Counting by a fold is the length of what a filter keeps. -/
theorem foldl_count_eq (p : Nat → Bool) (l : List Nat) (n : Nat) :
    l.foldl (fun n i => if p i then n + 1 else n) n = n + (l.filter p).length := by
  induction l generalizing n with
  | nil => rfl
  | cons i l ih =>
    rw [List.foldl_cons, ih, List.filter_cons]
    split
    · rw [List.length_cons]; omega
    · rfl

theorem toNat_eval_pop (a lo b : Word) :
    (IntOp.pop.eval a lo b).toNat = ((List.range 64).filter fun j => b.getLsbD j).length := by
  have hle : ((List.range 64).filter fun j => b.getLsbD j).length ≤ 64 := by
    simpa using List.length_filter_le (fun j => b.getLsbD j) (List.range 64)
  have e : onesCount b = ((List.range 64).filter fun j => b.getLsbD j).length := by
    rw [onesCount, foldl_count_eq, Nat.zero_add]
  simp only [IntOp.eval, e, BitVec.toNat_ofNat]
  omega

/-! ### The bit field (R74) -/

/-- A number below 2^k, sign-extended from a set bit k − 1: its own bits below k, and ones from there. -/
theorem getLsbD_ofInt_sub_two_pow {f k : Nat} (hf : f < 2 ^ k) (hk : k ≤ 64) {j : Nat} (hj : j < 64) :
    (BitVec.ofInt 64 ((f : Int) - 2 ^ k)).getLsbD j = if j < k then f.testBit j else true := by
  have hpow : (2 : Nat) ^ 64 = 2 ^ k * 2 ^ (64 - k) := by rw [← pow_add]; congr 1; omega
  have hone : 1 ≤ 2 ^ (64 - k) := Nat.one_le_two_pow
  have e : ((f : Int) - 2 ^ k) % (2 ^ 64 : Nat) = (2 ^ k * (2 ^ (64 - k) - 1) + f : Nat) := by
    rw [← Int.add_emod_right, Int.emod_eq_of_lt] <;> push_cast [hpow, Nat.cast_sub hone]
    · ring
    · nlinarith
    · nlinarith
  rw [BitVec.getLsbD, BitVec.toNat_ofInt, e, Int.toNat_natCast, Nat.testBit_two_pow_mul_add _ hf, Nat.testBit_two_pow_sub_one]
  split
  · rfl
  · simp only [decide_eq_true_eq]; omega

/-- A number below 2^k has its bit k − 1 set when it reaches 2^(k − 1). -/
theorem testBit_pred_eq_of_lt {f k : Nat} (hk : 0 < k) (hf : f < 2 ^ k) : f.testBit (k - 1) = decide (2 ^ (k - 1) ≤ f) := by
  obtain ⟨k, rfl⟩ := Nat.exists_eq_add_one.2 hk
  rw [Nat.add_sub_cancel]
  by_cases h : 2 ^ k ≤ f
  · rw [decide_eq_true h, Nat.testBit_of_two_pow_le_and_two_pow_add_one_gt h hf]
  · rw [decide_eq_false h, Nat.testBit_lt_two_pow (Nat.lt_of_not_le h)]

/-- Bits of the field of a word at p, of width k. -/
theorem testBit_field (a : Word) (p k i : Nat) :
    (a.toNat / 2 ^ p % 2 ^ k).testBit i = (decide (i < k) && a.getLsbD (p + i)) := by
  rw [Nat.testBit_mod_two_pow, Nat.testBit_div_two_pow, BitVec.getLsbD, Nat.add_comm]

/-- `ext` gives the field's bits, above them its top bit where it is signed and zeros else; a field of no bits is zero. -/
theorem getLsbD_eval_ext (a lo b : Word) {j : Nat} (hj : j < 64) :
    let p := lo.toNat % 64
    let k := min 64 (b.toNat % 128)
    (IntOp.ext.eval a lo b).getLsbD j =
      (decide (0 < k) && if j < k then a.getLsbD (p + j) else b.getLsbD 7 && a.getLsbD (p + k - 1)) := by
  intro p k
  have hf : a.toNat / 2 ^ p % 2 ^ k < 2 ^ k := Nat.mod_lt _ (by positivity)
  have e : IntOp.ext.eval a lo b = if k = 0 then 0
      else if b.getLsbD 7 ∧ 2 ^ (k - 1) ≤ a.toNat / 2 ^ p % 2 ^ k then BitVec.ofInt 64 ((a.toNat / 2 ^ p % 2 ^ k : Nat) - 2 ^ k)
      else BitVec.ofNat 64 (a.toNat / 2 ^ p % 2 ^ k) := by
    simp only [IntOp.eval, bitField, wbits_low]; rfl
  rw [e]
  by_cases hk : k = 0
  · simp [hk]
  have hpos : 0 < k := Nat.pos_of_ne_zero hk
  have htop : decide (2 ^ (k - 1) ≤ a.toNat / 2 ^ p % 2 ^ k) = a.getLsbD (p + k - 1) := by
    rw [← testBit_pred_eq_of_lt hpos hf, testBit_field, decide_eq_true (by omega), Bool.true_and, Nat.add_sub_assoc hpos]
  rw [if_neg hk, decide_eq_true hpos, Bool.true_and, ← htop]
  split
  · next h =>
    have hsign : (b.getLsbD 7 && decide (2 ^ (k - 1) ≤ a.toNat / 2 ^ p % 2 ^ k)) = true := by simpa using h
    rw [hsign, getLsbD_ofInt_sub_two_pow hf (Nat.min_le_left ..) hj, testBit_field]
    by_cases hjk : j < k <;> simp [hjk]
  · next h =>
    have hsign : (b.getLsbD 7 && decide (2 ^ (k - 1) ≤ a.toNat / 2 ^ p % 2 ^ k)) = false := by simpa using h
    rw [hsign, BitVec.getLsbD_ofNat, decide_eq_true hj, Bool.true_and, testBit_field]
    by_cases hjk : j < k <;> simp [hjk]

/-! ### The results -/

section Results
variable {s : State} {i : Instr} {op : IntOp} {p : Word → Prop}

/-- What an operation that is no division lands. -/
theorem exists_lands_of_eval (h : s.firing [.ia, .ib]) (hi : exec i s = .next (op.issue s)) (hd : op.isDiv = false) :
    let g := s.trigOf [.ia, .ib]
    let x := (s.tile g.site).cap.int g.sock
    p (op.eval x.o1 x.o2 g.b) →
    ∃ w, p w ∧ s.lands i g.site g.sock (g.cyc + 1) ⟨g.cyc + op.latency, some (.s w), none, 0, false, none⟩ :=
  fun hp => ⟨_, hp, hi.trans (congrArg _ (IntOp.issue_lands hd h))⟩

/-- What a division lands, and the divider that it holds. -/
theorem exists_divides_of_eval (h : s.firing [.ia, .ib]) (hi : exec i s = .next (op.issue s)) (hd : op.isDiv = true) :
    let g := s.trigOf [.ia, .ib]
    let x := (s.tile g.site).cap.int g.sock
    p (op.eval x.o1 x.o2 g.b) →
    ∃ w, p w ∧ exec i s = .next (s.mapTile g.site fun t =>
      { t with cap := t.cap.setInt g.sock { t.cap.int g.sock with divReadyAt := g.cyc + 34 } }.firePipe g.sock (g.cyc + 1)
        ⟨g.cyc + 34, some (.s w), none, 0, false, none⟩) :=
  fun hp => ⟨_, hp, hi.trans (congrArg _ (IntOp.issue_divides hd h))⟩

end Results

/-- Settles O18: each operation lands the value of its evaluation, which the lemmas above describe. -/
theorem integerResults : Obligations.IntegerResults := by
  intro s h
  dsimp only
  exact ⟨exists_lands_of_eval (op := .add) h rfl rfl rfl,
    exists_lands_of_eval (op := .sub) h rfl rfl rfl,
    exists_lands_of_eval (op := .and) h rfl rfl rfl,
    exists_lands_of_eval (op := .or) h rfl rfl rfl,
    exists_lands_of_eval (op := .xor) h rfl rfl rfl,
    exists_lands_of_eval (op := .shl) h rfl rfl (eval_shl ..),
    exists_lands_of_eval (op := .shr) h rfl rfl (eval_shr ..),
    exists_lands_of_eval (op := .sra) h rfl rfl (eval_sra ..),
    exists_lands_of_eval (op := .min) h rfl rfl (toInt_eval_min ..),
    exists_lands_of_eval (op := .max) h rfl rfl (toInt_eval_max ..),
    exists_lands_of_eval (op := .minu) h rfl rfl (toNat_eval_minu ..),
    exists_lands_of_eval (op := .maxu) h rfl rfl (toNat_eval_maxu ..),
    exists_lands_of_eval (op := .adds) h rfl rfl (satSigned_toInt _),
    exists_lands_of_eval (op := .subs) h rfl rfl (satSigned_toInt _),
    exists_lands_of_eval (op := .addus) h rfl rfl (toNat_eval_addus ..),
    exists_lands_of_eval (op := .subus) h rfl rfl (toNat_eval_subus ..),
    exists_lands_of_eval (op := .mul) h rfl rfl (BitVec.toNat_mul ..),
    exists_lands_of_eval (op := .mulh) h rfl rfl (toInt_eval_mulh ..),
    exists_lands_of_eval (op := .mulhu) h rfl rfl (toNat_eval_mulhu ..),
    exists_divides_of_eval (op := .div) h rfl rfl (eval_div ..),
    exists_divides_of_eval (op := .divu) h rfl rfl (toNat_eval_divu ..),
    exists_divides_of_eval (op := .rem) h rfl rfl (toInt_eval_rem ..),
    exists_divides_of_eval (op := .remu) h rfl rfl (toNat_eval_remu ..),
    exists_lands_of_eval (op := .ceq) h rfl rfl (eval_ceq ..),
    exists_lands_of_eval (op := .cne) h rfl rfl (eval_cne ..),
    exists_lands_of_eval (op := .clt) h rfl rfl (eval_clt ..),
    exists_lands_of_eval (op := .cltu) h rfl rfl (eval_cltu ..),
    exists_lands_of_eval (op := .clz) h rfl rfl (eval_clz ..),
    exists_lands_of_eval (op := .pop) h rfl rfl (toNat_eval_pop ..),
    exists_lands_of_eval (op := .ext) h rfl rfl fun _ hj => getLsbD_eval_ext _ _ _ hj⟩

end Sys2Proof.Machine
end

section
/-!
PROOFS. The address generator AG: the values of its stream operations and pointer constructors, and their results (spec/04 R75 to R80).
-/
namespace Sys2Proof.Machine

/-! ### Fields of a word and of a pointer -/

/-- A field of a word is what the bit vector's own extraction gives. -/
theorem wbits_eq_toNat_extractLsb' (p : Word) (hi lo : Nat) : wbits p hi lo = (p.extractLsb' lo (hi + 1 - lo)).toNat := by
  rw [wbits, BitVec.extractLsb'_toNat, Nat.shiftRight_eq_div_pow]

/-- A pointer's space is its four top bits. -/
theorem ptrSpace_eq_toNat_extractLsb' (p : Word) : ptrSpace p = (p.extractLsb' 60 4).toNat := by
  rw [BitVec.extractLsb'_toNat, Nat.shiftRight_eq_div_pow, ptrSpace, Nat.mod_eq_of_lt (by omega)]

/-- The must-be-zero bits of a coordinate-form pointer (R79). -/
theorem coordForm_iff (p : Word) : (ptrSpace p = 7 ∧ ptrMbz p = true) ↔
    p.extractLsb' 60 4 = 7 ∧ p.extractLsb' 41 19 = 0 ∧ p.extractLsb' 20 4 = 0 := by
  have hspace : ptrSpace p = 7 ↔ p.extractLsb' 60 4 = 7 := by
    rw [ptrSpace_eq_toNat_extractLsb', ← BitVec.toNat_inj]; rfl
  rw [← hspace]
  refine and_congr_right fun h => ?_
  simp only [ptrMbz, h, wbits_eq_toNat_extractLsb', Bool.and_eq_true, beq_iff_eq, ← BitVec.toNat_inj]
  rfl

/-- A pointer whose must-be-zero bits are as they must be lies in a valid space (R80). -/
theorem ptrSpaceValid_of_ptrMbz {p : Word} (h : ptrMbz p = true) : ptrSpaceValid p = true := by
  unfold ptrMbz at h
  unfold ptrSpaceValid
  split at h <;> simp_all

/-! ### The stream operations (R76) -/

/-- The new base of `mod` is the signed sum reduced to lie below the bound; a bound of 0 stands for 2^64. -/
theorem modBase_toNat {base step bnd : Word} (h : bnd ≠ 0) :
    ((modBase base step bnd).toNat : Int) = (base + step).toInt % bnd.toNat := by
  have hpos : 0 < (bnd.toNat : Int) := by
    have : bnd.toNat ≠ 0 := by simpa [BitVec.toNat_eq] using h
    omega
  have hge := Int.emod_nonneg (base + step).toInt hpos.ne'
  have hlt := Int.emod_lt_of_pos (base + step).toInt hpos
  have hb := bnd.isLt
  simp only [modBase, if_neg h, BitVec.toNat_ofInt]
  rw [Int.emod_eq_of_lt hge (by omega), Int.toNat_of_nonneg hge]

/-- Bits put one after the other from the left stand in the reverse order. -/
theorem testBit_foldl_bits (p : Nat → Bool) (w j : Nat) :
    ((List.range w).foldl (fun n i => 2 * n + (if p i then 1 else 0)) 0).testBit j = (decide (j < w) && p (w - 1 - j)) := by
  induction w generalizing j with
  | zero => simp
  | succ w ih =>
    rw [List.range_succ, List.foldl_append, List.foldl_cons, List.foldl_nil]
    generalize (List.range w).foldl (fun n i => 2 * n + (if p i then 1 else 0)) 0 = n at ih
    cases j with
    | zero =>
      rw [Nat.testBit_zero, show w + 1 - 1 - 0 = w from rfl]
      cases p w <;> simp
    | succ j =>
      have hdiv : (2 * n + (if p w then 1 else 0)) / 2 = n := by split <;> omega
      rw [Nat.testBit_add_one, hdiv, ih, show w + 1 - 1 - (j + 1) = w - 1 - j by omega]
      simp

/-- The lowest w bits reversed: bit j is bit w − 1 − j, and those from w on are zero. -/
theorem getLsbD_revBits (w : Nat) (x : Word) {j : Nat} (hj : j < 64) :
    (revBits w x).getLsbD j = (decide (j < w) && x.getLsbD (w - 1 - j)) := by
  rw [revBits, BitVec.getLsbD_ofNat, decide_eq_true hj, Bool.true_and, testBit_foldl_bits]

/-! ### The pointer constructors (R78, R79) -/

/-- The offset of a pointer is its low 20 bits. -/
theorem toNat_and_offset (b : Word) : (b &&& 0xFFFFF#64).toNat = ptrOffset b :=
  (BitVec.toNat_and ..).trans (Nat.and_two_pow_sub_one_eq_mod b.toNat 20)

theorem mkptr_eq (b : Word) : BitVec.ofNat 64 (2 ^ 60 + ptrOffset b) = 0x1000000000000000#64 ||| (b &&& 0xFFFFF#64) := by
  have hoff : ptrOffset b < 2 ^ 20 := Nat.mod_lt _ (by decide)
  apply BitVec.eq_of_toNat_eq
  rw [BitVec.toNat_or, toNat_and_offset, BitVec.toNat_ofNat, Nat.mod_eq_of_lt (by omega)]
  exact Nat.two_pow_add_eq_or_of_lt (i := 60) (by omega) 1

theorem mkcl_eq (a b : Word) : BitVec.ofNat 64 (2 * 2 ^ 60 + wbits a 3 0 * 2 ^ 20 + ptrOffset b) =
    0x2000000000000000#64 ||| ((a &&& 0xF#64) <<< 20) ||| (b &&& 0xFFFFF#64) := by
  have hoff : ptrOffset b < 2 ^ 20 := Nat.mod_lt _ (by decide)
  have hrank : wbits a 3 0 < 2 ^ 4 := Nat.mod_lt _ (by decide)
  have hand : (a &&& 0xF#64).toNat = wbits a 3 0 := by
    rw [wbits_low]; exact (BitVec.toNat_and ..).trans (Nat.and_two_pow_sub_one_eq_mod a.toNat 4)
  have hshift : ((a &&& 0xF#64) <<< 20).toNat = wbits a 3 0 * 2 ^ 20 := by
    rw [BitVec.toNat_shiftLeft, hand, Nat.shiftLeft_eq, Nat.mod_eq_of_lt (by omega)]
  apply BitVec.eq_of_toNat_eq
  rw [BitVec.toNat_or, BitVec.toNat_or, toNat_and_offset, hshift, BitVec.toNat_ofNat, Nat.mod_eq_of_lt (by omega)]
  have hhigh : 2 * 2 ^ 60 + wbits a 3 0 * 2 ^ 20 = 0x2000000000000000 ||| wbits a 3 0 * 2 ^ 20 :=
    Nat.two_pow_add_eq_or_of_lt (i := 60) (by omega) 2
  rw [show (0x2000000000000000#64 : Word).toNat = 0x2000000000000000 from rfl, ← hhigh,
    show 2 * 2 ^ 60 + wbits a 3 0 * 2 ^ 20 = 2 ^ 20 * (2 * 2 ^ 40 + wbits a 3 0) by ring]
  exact Nat.two_pow_add_eq_or_of_lt hoff _

/-- The domain pointer to a tile, its cluster and its rank written out (R12, R78). -/
theorem State.mkdom_eq (s : State) (slot : Nat) (a b : Word) : s.mkdom slot a b =
    if (s.grid slot).1 * (s.grid slot).2 ≤ a.toNat then 0
    else BitVec.ofNat 64 (3 * 2 ^ 60 + clusterOf (s.grid slot).1 (a.toNat % (s.grid slot).1) (a.toNat / (s.grid slot).1) * 2 ^ 24 +
      (a.toNat / (s.grid slot).1 % 4 * 4 + a.toNat % (s.grid slot).1 % 4) * 2 ^ 20 + b.toNat % 2 ^ 20) := rfl

/-- A signed byte of a word is the extraction's signed value. -/
theorem signed8_wbits (p : Word) (lo : Nat) : signed8 (wbits p (lo + 7) lo) = (p.extractLsb' lo 8).toInt := by
  rw [signed8, wbits_eq_toNat_extractLsb', show lo + 7 + 1 - lo = 8 by omega, BitVec.ofNat_toNat, BitVec.setWidth_eq]

/-- The coordinate a pointer of form 0x7 names along one axis: a signed distance from the tile's own, or an unsigned position (R79). -/
def coordOf (p : Word) (lo me : Nat) : Int :=
  if p.getLsbD 40 then me + (p.extractLsb' lo 8).toInt else (p.extractLsb' lo 8).toNat

theorem coordTarget_eq (grid me : Nat × Nat) (p : Word) : coordTarget grid me p =
    if 0 ≤ coordOf p 32 me.1 ∧ coordOf p 32 me.1 < grid.1 ∧ 0 ≤ coordOf p 24 me.2 ∧ coordOf p 24 me.2 < grid.2
    then some ((coordOf p 32 me.1).toNat, (coordOf p 24 me.2).toNat) else none := by
  simp only [coordTarget, coordOf, ← signed8_wbits, wbits_eq_toNat_extractLsb']

/-- `coord` gives the domain pointer of the tile its coordinates name, or 0 (R78, R79). -/
theorem State.coordPointer_eq (s : State) (slot site : Nat) (b : Word) :
    let X := coordOf b 32 (s.xy slot site).1
    let Y := coordOf b 24 (s.xy slot site).2
    s.coordPointer slot site b = if b.extractLsb' 60 4 = 7 ∧ b.extractLsb' 41 19 = 0 ∧ b.extractLsb' 20 4 = 0 ∧
        0 ≤ X ∧ X < (s.grid slot).1 ∧ 0 ≤ Y ∧ Y < (s.grid slot).2
      then domainPointer (s.grid slot).1 X.toNat Y.toNat (b.toNat % 2 ^ 20) else 0 := by
  intro X Y
  rw [State.coordPointer, coordTarget_eq]
  by_cases hform : ptrSpace b = 7 ∧ ptrMbz b = true
  · rw [if_pos hform]
    obtain ⟨h1, h2, h3⟩ := (coordForm_iff b).1 hform
    by_cases hin : 0 ≤ X ∧ X < (s.grid slot).1 ∧ 0 ≤ Y ∧ Y < (s.grid slot).2
    · rw [if_pos hin, if_pos ⟨h1, h2, h3, hin⟩]; rfl
    · rw [if_neg hin, if_neg fun h => hin h.2.2.2]
  · rw [if_neg hform, if_neg fun h => hform ((coordForm_iff b).2 ⟨h.1, h.2.1, h.2.2.1⟩)]

/-! ### Values and updates (R76, R77)

An operation takes its stream from the low two bits of b, or of a for `setb`, `sets` and `setl`. -/

section Streams
variable (x : AgState) (b : Word) (s : State) (slot site : Nat)

theorem AgOp.value_inc : AgOp.inc.value x b s slot site = x.baseOf (b.toNat % 4) := by
  simp [AgOp.value, wbits_low]
theorem AgOp.value_circ : AgOp.circ.value x b s slot site = x.baseOf (b.toNat % 4) := by
  simp [AgOp.value, wbits_low]
theorem AgOp.value_mod : AgOp.mod.value x b s slot site = x.o1 + x.baseOf (b.toNat % 4) := by
  simp [AgOp.value, wbits_low]
theorem AgOp.value_setb : AgOp.setb.value x b s slot site = x.baseOf (x.o1.toNat % 4) := by
  simp [AgOp.value, wbits_low]
theorem AgOp.value_sets : AgOp.sets.value x b s slot site = x.stepOf (x.o1.toNat % 4) := by
  simp [AgOp.value, wbits_low]
theorem AgOp.value_setl : AgOp.setl.value x b s slot site = x.bndOf (x.o1.toNat % 4) := by
  simp [AgOp.value, wbits_low]

theorem AgOp.update_inc :
    AgOp.inc.update x b = x.setBase (b.toNat % 4) (x.baseOf (b.toNat % 4) + x.stepOf (b.toNat % 4)) := by
  simp [AgOp.update, wbits_low]
theorem AgOp.update_mod : AgOp.mod.update x b =
    x.setBase (b.toNat % 4) (modBase (x.baseOf (b.toNat % 4)) (x.stepOf (b.toNat % 4)) (x.bndOf (b.toNat % 4))) := by
  simp [AgOp.update, wbits_low]
theorem AgOp.update_circ : AgOp.circ.update x b =
    x.setBase (b.toNat % 4) (circBase x.o1 (x.baseOf (b.toNat % 4)) (x.stepOf (b.toNat % 4)) (x.bndOf (b.toNat % 4))) := by
  simp [AgOp.update, wbits_low]
theorem AgOp.update_setb : AgOp.setb.update x b = x.setBase (x.o1.toNat % 4) b := by
  simp [AgOp.update, wbits_low]
theorem AgOp.update_sets : AgOp.sets.update x b = x.setStep (x.o1.toNat % 4) b := by
  simp [AgOp.update, wbits_low]
theorem AgOp.update_setl : AgOp.setl.update x b = x.setBnd (x.o1.toNat % 4) b := by
  simp [AgOp.update, wbits_low]

/-- Of bit-reversed addressing over no bits: the address itself, and the stream as it was. -/
theorem AgOp.brev_of_width_zero (h : (x.bndOf (b.toNat % 4)).toNat % 64 = 0) :
    AgOp.brev.value x b s slot site = x.o1 ∧ AgOp.brev.update x b = x := by
  simp [AgOp.value, AgOp.update, wbits_low, h]

/-- Of bit-reversed addressing over w bits: the reversed index, scaled by the step, from a; and the index counts on. -/
theorem AgOp.brev_of_width_pos (h : (x.bndOf (b.toNat % 4)).toNat % 64 ≠ 0) :
    let n := b.toNat % 4
    let w := (x.bndOf n).toNat % 64
    AgOp.brev.value x b s slot site = x.o1 + (revBits w (x.baseOf n) <<< ((x.stepOf n).toNat % 64)) ∧
      AgOp.brev.update x b = x.setBase n (BitVec.ofNat 64 (((x.baseOf n).toNat + 1) % 2 ^ w)) := by
  simp [AgOp.value, AgOp.update, wbits_low, h]

end Streams

/-! ### The results -/

/-- What an operation but `lea` lands, and the stream state it leaves. -/
theorem AgOp.exec_lands {op : AgOp} {s : State} {i : Instr} {q0 : Word} {y : AgState} (h : s.firing [.ag]) (hl : op ≠ .lea)
    (hi : exec i s = .next (op.issue s)) :
    let g := s.trigOf [.ag]
    let x := (s.tile g.site).cap.ag
    op.value x g.b s g.slot g.site = q0 → op.update x g.b = y →
    exec i s = .next (s.mapTile g.site fun u =>
      { u with cap := { u.cap with ag := y } }.firePipe .ag (g.cyc + 1) ⟨g.cyc + 1, some (.s q0), none, 0, false, none⟩) := by
  rintro g x rfl rfl
  exact hi.trans (congrArg _ (AgOp.issue_lands hl h))

/-- `lea` without a reason to refuse it lands the sum; with one it is an address fault. -/
theorem AgOp.exec_lea {s : State} (h : s.firing [.ag]) :
    let g := s.trigOf [.ag]
    let x := (s.tile g.site).cap.ag
    (leaReason x.o1 g.b = none → exec .agLea s = .next (AgOp.lea.complete g s)) ∧
      ∀ r, leaReason x.o1 g.b = some r → exec .agLea s = .next (g.fault s 0x2001 (x.o1 + g.b) (BitVec.ofNat 64 r)) := by
  intro g x
  have e : exec .agLea s = .next (AgOp.lea.fire g s) := congrArg _ (State.trigger_fires h _)
  rw [e, AgOp.fire, if_pos rfl]
  exact ⟨fun hr => by rw [hr], fun r hr => by rw [hr]⟩

/-- `lea` is not refused where the sum keeps its space and its must-be-zero bits (R80). -/
theorem leaReason_none {a b : Word} (hs : ptrSpace (a + b) = ptrSpace a) (hz : ptrMbz (a + b) = true) : leaReason a b = none := by
  simp [leaReason, sumPointerReason, hs, hz, ptrSpaceValid_of_ptrMbz hz]

theorem leaReason_space {a b : Word} (h : ptrSpace (a + b) ≠ ptrSpace a ∨ ptrSpaceValid (a + b) = false) : leaReason a b = some 1 := by
  rw [leaReason, sumPointerReason, if_pos (by simpa using h)]

theorem leaReason_mbz {a b : Word} (hs : ptrSpace (a + b) = ptrSpace a) (hv : ptrSpaceValid (a + b) = true)
    (hz : ptrMbz (a + b) = false) : leaReason a b = some 2 := by
  simp [leaReason, sumPointerReason, hs, hv, hz]

/-- Settles O19: each operation lands its value and leaves its stream state, which the lemmas above describe. -/
theorem addressResults : Obligations.AddressResults := by
  intro s h g x a b n m base step bnd t w res setBase
  refine ⟨AgOp.exec_lands (op := .inc) h (by decide) rfl (AgOp.value_inc ..) (AgOp.update_inc ..),
    ⟨modBase base step bnd, AgOp.exec_lands (op := .mod) h (by decide) rfl (AgOp.value_mod ..) (AgOp.update_mod ..),
      fun hz => if_pos hz, fun hz => modBase_toNat hz⟩,
    fun hw => ?brevZero, fun hw => ⟨revBits w base, fun j hj => getLsbD_revBits w base hj, ?brev⟩,
    AgOp.exec_lands (op := .circ) h (by decide) rfl (AgOp.value_circ ..) (AgOp.update_circ ..),
    AgOp.exec_lands (op := .mkptr) h (by decide) rfl (mkptr_eq b) rfl,
    AgOp.exec_lands (op := .mkcl) h (by decide) rfl (mkcl_eq a b) rfl,
    AgOp.exec_lands (op := .mkdom) h (by decide) rfl (State.mkdom_eq s g.slot a b) rfl,
    AgOp.exec_lands (op := .coord) h (by decide) rfl (State.coordPointer_eq s g.slot g.site b) rfl,
    AgOp.exec_lands (op := .setb) h (by decide) rfl (AgOp.value_setb ..) (AgOp.update_setb ..),
    AgOp.exec_lands (op := .sets) h (by decide) rfl (AgOp.value_sets ..) (AgOp.update_sets ..),
    AgOp.exec_lands (op := .setl) h (by decide) rfl (AgOp.value_setl ..) (AgOp.update_setl ..),
    fun hs hz => (AgOp.exec_lea h).1 (leaReason_none hs hz), fun hs => (AgOp.exec_lea h).2 1 (leaReason_space hs),
    fun hs hv hz => (AgOp.exec_lea h).2 2 (leaReason_mbz hs hv hz)⟩
  case brevZero =>
    obtain ⟨hvalue, hupdate⟩ := AgOp.brev_of_width_zero x b s g.slot g.site hw
    exact AgOp.exec_lands (op := .brev) h (by decide) rfl hvalue hupdate
  case brev =>
    obtain ⟨hvalue, hupdate⟩ := AgOp.brev_of_width_pos x b s g.slot g.site hw
    exact AgOp.exec_lands (op := .brev) h (by decide) rfl hvalue hupdate

end Sys2Proof.Machine
end

section
/-!
PROOFS. The timetable socket TM: its assertions and its snapshot (spec/04 R92, R93).
-/
namespace Sys2Proof.Machine

/-- Outside boot state the offset of a trigger is that of its domain's clock in the tile's bay. -/
theorem Trig.offset_of_not_boot {g : Trig} {s : State} (hb : (s.domain g.slot).boot = false) :
    g.offset s = BitVec.ofNat 64 ((s.tile g.site).bayOffset (s.domain g.slot).dcc) := by
  simp [Trig.offset, State.tmPort, hb]

/-- The three comparisons of the offset with b, unsigned. -/
theorem TmTest.passes_exact {off b : Word} : TmTest.exact.passes off b = true ↔ off = b := by
  simp [TmTest.passes]
theorem TmTest.passes_least {off b : Word} : TmTest.least.passes off b = true ↔ b.toNat ≤ off.toNat := by
  simp [TmTest.passes, BitVec.ule_eq_decide]
theorem TmTest.passes_most {off b : Word} : TmTest.most.passes off b = true ↔ off.toNat ≤ b.toNat := by
  simp [TmTest.passes, BitVec.ule_eq_decide]

/-- An assertion outside boot state: nothing where it holds, a slip fault where it fails. -/
theorem TmTest.exec_cases {k : TmTest} {i : Instr} {s : State} {p : Prop} (h : s.firing [.tm])
    (hb : (s.domain (s.trigOf [.tm]).slot).boot = false) (hi : exec i s = .next (s.trigger [.tm] k.fire)) :
    let g := s.trigOf [.tm]
    let off := BitVec.ofNat 64 ((s.tile g.site).bayOffset (s.domain g.slot).dcc)
    (k.passes off g.b = true ↔ p) →
      (p → exec i s = .next s) ∧ (¬p → exec i s = .next (g.fault s 0x300D off g.b)) := by
  intro g off hp
  have e : exec i s = .next (if k.passes off g.b = true then s else g.fault s 0x300D off g.b) := by
    rw [hi, State.trigger_fires h, TmTest.fire, Trig.offset_of_not_boot hb, hb]
    cases k.passes off g.b <;> rfl
  rw [e]
  exact ⟨fun h => by rw [if_pos (hp.2 h)], fun h => by rw [if_neg (mt hp.1 h)]⟩

/-- Settles O23: each assertion is its comparison of the offset with b. -/
theorem timetableAssertions : Obligations.TimetableAssertions := by
  intro s h hb
  exact ⟨TmTest.exec_cases (k := .exact) h hb rfl TmTest.passes_exact,
    TmTest.exec_cases (k := .least) h hb rfl TmTest.passes_least,
    TmTest.exec_cases (k := .most) h hb rfl TmTest.passes_most⟩

/-- With no launch bias a program reads the clock itself. -/
theorem Domain.readDcc_of_sigma_zero {d : Domain} (hb : d.boot = false) (hs : d.sigma = 0) : d.readDcc = BitVec.ofNat 64 d.dcc := by
  apply BitVec.eq_of_toNat_eq
  simp [Domain.readDcc, hb, unbiased, hs]

/-- Settles O24: the two words that land are the clock as the program reads it and the offset. -/
theorem timetableSnap : Obligations.TimetableSnap := by
  intro s h g
  refine ⟨(s.domain g.slot).readDcc, g.offset s, ?_, fun hb hs => ?_⟩
  · show Host.Outcome.next (s.trigger [.tm] fireSnap) = _
    rw [State.trigger_fires h]
    rfl
  · exact ⟨Domain.readDcc_of_sigma_zero hb hs, Trig.offset_of_not_boot hb⟩

end Sys2Proof.Machine
end
